-- ==== Sys2Proof/Word.lean ====
section
/-!
DEFINITION. Word types of the CZ-9 (00 R2): a byte is 8 bits, a halfword 16, a word 32, a
doubleword 64; vector registers are 512 bits (03 R33). Nothing else stands here.
-/

namespace Sys2Proof

/-- One byte of memory. -/
abbrev Byte := BitVec 8
/-- An instruction word (00 R2, 03 R51). -/
abbrev IWord := BitVec 32
/-- A doubleword: an x register, an address, a system register (03 R33). -/
abbrev Dword := BitVec 64
/-- A vector register (03 R33). -/
abbrev VReg := BitVec 512
/-- A 5-bit register field (03 R51). -/
abbrev Reg := BitVec 5
/-- A memory sector of 32 bytes, byte k in bits [8k+7:8k] (11 R186). -/
abbrev Sector := BitVec 256
/-- A label set: bit t stands for tenant t (11 R216). -/
abbrev Mask := BitVec 192
/-- An index into a partition's label-set table (11 R216). -/
abbrev Lsid := BitVec 10
/-- The five exception flags NX, UF, OF, DZ, NV in bits 4 to 0 (03 R42). -/
abbrev Flags := BitVec 5

end Sys2Proof
end

