-- ==== Sys2Proof/Config.lean ====
section
/-!
DEFINITION. What an implementation fixes and what the spec leaves open. Every free value is an opaque
function of the model's own counter `State.tick` (notes/assumptions/6.md): it has no body, so no proof
can know a value of it, and a statement that mentions one holds whatever it is.
-/

namespace Sys2Proof.Config

/-- Cycles that pass in a step beyond the one every step takes (notes/assumptions/5.md). -/
opaque cycleGap : Nat → Nat
/-- Whether a load takes the sector from a live view-buffer entry (11 R201, R202; notes/assumptions/13.md). -/
opaque viewHit : Nat → Bool
/-- Whether a translation uses a leaf held in the cache slice (17 R342; notes/assumptions/14.md). -/
opaque tlbHit : Nat → Bool
/-- Which of the free LSIDs a union takes (11 R221; notes/assumptions/17.md). -/
opaque freeLsid : Nat → Nat
/-- A byte the spec leaves unspecified: tile storage after a cancel (13 R265; notes/assumptions/18.md). -/
opaque freeByte : Nat → Nat → Byte
/-- A doubleword the spec leaves unspecified (notes/assumptions/18.md). -/
opaque freeDword : Nat → Dword
/-- What SXPC and MXPC hold after a trap that names no store (17 R325; notes/assumptions/48.md). -/
opaque freeXpc : Nat → Dword
/-- Whether the host rejects a read of its memory (17 R339; notes/assumptions/60.md). -/
opaque hostRejects : Nat → Bool
/-- Which of two allowed values an overlapping copy delivers (13 R255; notes/assumptions/19.md). -/
opaque copyChoice : Nat → Nat → Bool
/-- SHA-384 (19 R362; notes/assumptions/20.md). -/
opaque sha384 : List Byte → BitVec 384
/-- Ed25519 verification: key, message, signature (11 R223, 21 R394; notes/assumptions/20.md). -/
opaque ed25519Verify : List Byte → List Byte → List Byte → Bool
/-- ML-DSA-65 verification: key, message, signature (11 R223, 21 R394; notes/assumptions/20.md). -/
opaque mldsaVerify : List Byte → List Byte → List Byte → Bool
/-- The Ed25519 key of Etvotra fixed by digest in the ROM (21 R394; notes/assumptions/20.md). -/
opaque romEd25519Key : List Byte
/-- The ML-DSA-65 key of Etvotra fixed by digest in the ROM (21 R394; notes/assumptions/20.md). -/
opaque romMldsaKey : List Byte
/-- The ROM's own bytes, measured at boot (21 R394; notes/assumptions/20.md). -/
opaque romBytes : List Byte
/-- A key pair: public and private key. -/
structure KeyPair where
  pub : List Byte
  priv : List Byte
  deriving DecidableEq, Repr, Inhabited

/-- The unique device secret, fused (21 R395; notes/assumptions/20.md). -/
opaque deviceSecret : List Byte
/-- The compound device identifier of a secret and an image measurement (21 R395; notes/assumptions/20.md). -/
opaque compoundDevice : List Byte → BitVec 384 → List Byte
/-- The Ed25519 key pair derived from a compound device identifier (21 R395; notes/assumptions/20.md). -/
opaque deriveEd25519 : List Byte → KeyPair
/-- The ML-DSA-65 key pair derived from a compound device identifier (21 R395; notes/assumptions/20.md). -/
opaque deriveMldsa : List Byte → KeyPair
/-- What a certificate chain holds before the keys it ends in (21 R395; notes/assumptions/21.md). -/
opaque chainHead : BitVec 384 → List Byte
/-- What an SPDM 1.3 response holds before what the spec states of it: request name, request bytes, transcript
(19 R362; notes/assumptions/21.md). -/
opaque spdmResponse : Nat → List Byte → List Byte → List Byte
/-- The Ed25519 signature of a private key over a message (19 R362; notes/assumptions/20.md). -/
opaque ed25519Sign : List Byte → List Byte → List Byte
/-- The ML-DSA-65 signature of a private key over a message (19 R362; notes/assumptions/20.md). -/
opaque mldsaSign : List Byte → List Byte → List Byte
/-- The size in bytes of the pool of shadow pages (19 R383; notes/assumptions/36.md). -/
opaque shadowPool : Nat
/-- A domain configuration as it stands in flash: package number, DOMSZ, domain identifier, the role, peer
package and peer port of each port, and the ports of each package's route (21 R389). -/
structure Domain where
  pkg : Nat
  domsz : Nat
  ident : Dword
  ports : List (Nat × Nat × Nat)
  routes : List (Nat × List Nat)
  deriving DecidableEq, Repr

/-- The form of a domain configuration, none for a malformed one (21 R397; notes/assumptions/38.md). -/
opaque parseDomain : List Byte → Option Domain
/-- Whether a launch's shadows survive a thermal trip in HBM (21 R392; notes/assumptions/36.md). -/
opaque shadowsSurvive : Nat → Bool
/-- Whether a handle of another package names a partition of a tenant (15 R274; notes/assumptions/3.md). -/
opaque assistHeld : Nat → Nat → Bool
/-- Whether a hart of an assist partition is free for a backup (15 R306; notes/assumptions/3.md). -/
opaque assistFree : Nat → Bool
/-- Which unit of a hart a recurring mismatch lies in: 0 its core, 1 a vector lane, 2 the matrix array of its
grove (19 R375; notes/assumptions/26.md). -/
opaque wornUnit : Nat → Nat
/-- The unit kind, coordinate or channel, and device physical address of a unit that failed, where no event says which
it was (19 R377, R380; notes/assumptions/98.md). -/
opaque failedUnit : Nat → Nat × Nat × Nat
/-- The trap vector of machine mode that the firmware image installs (17 R314; notes/assumptions/29.md). -/
opaque machineVector : Dword

end Sys2Proof.Config
end

