-- ==== Sys2Proof/Syntax.lean ====
section
/-!
DEFINITION. The instructions and steps of the CZ-9: one constructor of `Instr` per row of
spec/opcode_table.json. The first 278 are words of 03 R51 to R64; their arguments are the word's
fields, under the field names of the table (d, a, b, c registers; l the lookahead of R60; i an
immediate; t a type or branch register; m a mask; v the vector and scalar form of R53; z the .z bit).
The other 130 are steps of the device or of its environment that have no encoding
(spec/95_what_each_step_holds.md). Their arguments say which unit the step happens at, and what the
environment chose where the spec leaves the choice to it (notes/assumptions/4.md).
-/

namespace Sys2Proof

/-- The kind of access to a system register (17 R345). -/
inductive SrOp
  | read | write | set | clear
  deriving DecidableEq, Repr

/-- TDISP interface states in the code order of FSTAT.TDISP (19 R352, R361). -/
inductive Tdisp
  | unlocked | locked | run | error
  deriving DecidableEq, Repr

/-- A host command: issuing function (0 is the PF), submission queue and the 64-byte entry, byte k in
bits [8k+7:8k] (19 R355). -/
structure Cmd where
  fn : Nat
  sq : Nat
  entry : BitVec 512
  deriving DecidableEq, Repr

/-- Understory's choice of the log and spill offsets in 4 KiB pages (11 R403). -/
structure Placement where
  logPage : Nat
  spillPage : Nat
  deriving DecidableEq, Repr

/-- What an internal port found at its other end: package number, the port of that package, and domain identifier
(21 R389, R390). -/
structure Peer where
  port : Nat
  pkg : Nat
  peerPort : Nat
  domain : Dword
  deriving DecidableEq, Repr

/-- What the scrubber found in a sector (19 R375, R379). -/
inductive Found
  | clean | corrected | lasting | uncorrectable
  deriving DecidableEq, Repr

/-- What the checker of a hart found (19 R373 to R377): an error that a replay clears, one that recurs, or an
uncorrectable error of the hart's vector registers, queues or lookahead state. -/
inductive Mismatch
  | cleared | recurs | lost
  deriving DecidableEq, Repr

/-- An atomic on its way to its home, as seen by the home (11 R204 to R206, R224): the issuing core,
the physical key of the location, the width flag, the operation code, the operand, the compare value,
the label and the stamp of the release that preceded it, if the order is rel or ar. -/
structure AtomicReq where
  core : Nat
  key : Nat
  w32 : Bool
  op : BitVec 4
  operand : Dword
  compare : Dword
  label : Mask
  stamp : Option Dword
  acquire : Bool
  deriving DecidableEq, Repr

/-- The instructions and steps of the CZ-9. -/
inductive Instr
  /-- ADD (R109): Writes the 64-bit sum of two x registers to rd. -/
  | add (d a b : Reg)
  /-- SUB (R109): Writes a minus b to rd. -/
  | sub (d a b : Reg)
  /-- AND (R109): Writes the bitwise AND of a and b. -/
  | and (d a b : Reg)
  /-- OR (R109): Writes the bitwise OR of a and b. -/
  | or (d a b : Reg)
  /-- XOR (R109): Writes the bitwise XOR of a and b. -/
  | xor (d a b : Reg)
  /-- ANDN (R109): Writes a AND NOT b. -/
  | andn (d a b : Reg)
  /-- ORN (R109): Writes a OR NOT b. -/
  | orn (d a b : Reg)
  /-- SLL (R109): Shifts a left by b[5:0]. -/
  | sll (d a b : Reg)
  /-- SRL (R109): Shifts a right logically by b[5:0]. -/
  | srl (d a b : Reg)
  /-- SRA (R109): Shifts a right arithmetically by b[5:0]. -/
  | sra (d a b : Reg)
  /-- ROR (R109): Rotates a right by b[5:0]. -/
  | ror (d a b : Reg)
  /-- SLT (R109): Writes 1 if a is signed-less than b. -/
  | slt (d a b : Reg)
  /-- SLTN (R109): Writes 1 if a is unsigned-less than b. -/
  | sltn (d a b : Reg)
  /-- SEQ (R109): Writes 1 if a equals b. -/
  | seq (d a b : Reg)
  /-- MIN (R109): Writes the signed smaller of a and b. -/
  | min (d a b : Reg)
  /-- MAX (R109): Writes the signed larger of a and b. -/
  | max (d a b : Reg)
  /-- MINN (R109): Writes the unsigned smaller of a and b. -/
  | minn (d a b : Reg)
  /-- MAXN (R109): Writes the unsigned larger of a and b. -/
  | maxn (d a b : Reg)
  /-- ADDW (R109): Writes the sign-extended 32-bit sum. -/
  | addw (d a b : Reg)
  /-- SUBW (R109): Writes the sign-extended 32-bit difference. -/
  | subw (d a b : Reg)
  /-- SLLW (R109): 32-bit left shift, sign-extended. -/
  | sllw (d a b : Reg)
  /-- SRLW (R109): 32-bit logical right shift, sign-extended. -/
  | srlw (d a b : Reg)
  /-- SRAW (R109): 32-bit arithmetic right shift, sign-extended. -/
  | sraw (d a b : Reg)
  /-- CLZ (R109): Counts leading zero bits of a. -/
  | clz (d a : Reg)
  /-- CTZ (R109): Counts trailing zero bits of a. -/
  | ctz (d a : Reg)
  /-- POPC (R109): Counts one bits of a. -/
  | popc (d a : Reg)
  /-- BREV (R109): Reverses the bits of a. -/
  | brev (d a : Reg)
  /-- BSWAP (R109): Reverses the bytes of a. -/
  | bswap (d a : Reg)
  /-- SEXT (R110): Sign-extends the low byte, halfword or word of a selected by x. -/
  | sext (d a : Reg) (w : BitVec 4)
  /-- ZEXT (R110): Zero-extends the low byte, halfword or word of a selected by x. -/
  | zext (d a : Reg) (w : BitVec 4)
  /-- MUL (R109): Writes the low 64 bits of a times b. -/
  | mul (d a b : Reg)
  /-- MULH (R109): Writes the high 64 bits of the signed product. -/
  | mulh (d a b : Reg)
  /-- MULHN (R109): Writes the high 64 bits of the unsigned product. -/
  | mulhn (d a b : Reg)
  /-- MULW (R109): Writes the sign-extended 32-bit product. -/
  | mulw (d a b : Reg)
  /-- DIV (R111): Signed division truncated toward zero, class L with lookahead in x. -/
  | div (d a b : Reg) (l : BitVec 4)
  /-- DIVN (R111): Unsigned division, class L. -/
  | divn (d a b : Reg) (l : BitVec 4)
  /-- REM (R111): Signed remainder with the sign of the dividend, class L. -/
  | rem (d a b : Reg) (l : BitVec 4)
  /-- REMN (R111): Unsigned remainder, class L. -/
  | remn (d a b : Reg) (l : BitVec 4)
  /-- ADDI (R112): Adds the sign-extended immediate to a. -/
  | addi (d a : Reg) (i : BitVec 16)
  /-- SLTI (R112): Writes 1 if a is signed-less than the sign-extended immediate. -/
  | slti (d a : Reg) (i : BitVec 16)
  /-- ANDI (R112): ANDs a with the zero-extended immediate. -/
  | andi (d a : Reg) (i : BitVec 16)
  /-- ORI (R112): ORs a with the zero-extended immediate. -/
  | ori (d a : Reg) (i : BitVec 16)
  /-- XORI (R112): XORs a with the zero-extended immediate. -/
  | xori (d a : Reg) (i : BitVec 16)
  /-- SLLI (R113): Shifts a left by an immediate amount. -/
  | slli (d a : Reg) (n : BitVec 6)
  /-- SRLI (R113): Shifts a right logically by an immediate amount. -/
  | srli (d a : Reg) (n : BitVec 6)
  /-- SRAI (R113): Shifts a right arithmetically by an immediate amount. -/
  | srai (d a : Reg) (n : BitVec 6)
  /-- RORI (R113): Rotates a right by an immediate amount. -/
  | rori (d a : Reg) (n : BitVec 6)
  /-- SETH (R114): Sets rd to the immediate placed at halfword hw, other halfwords zero. -/
  | seth (d : Reg) (h : BitVec 2) (i : BitVec 16)
  /-- INSH (R114): Replaces halfword hw of rd with the immediate. -/
  | insh (d : Reg) (h : BitVec 2) (i : BitVec 16)
  /-- FADD (R115): Floating add rounded once. -/
  | fadd (d a b : Reg) (t : BitVec 2) (r : BitVec 3)
  /-- FSUB (R115): Floating subtract rounded once. -/
  | fsub (d a b : Reg) (t : BitVec 2) (r : BitVec 3)
  /-- FMUL (R115): Floating multiply rounded once. -/
  | fmul (d a b : Reg) (t : BitVec 2) (r : BitVec 3)
  /-- FMIN (R84): IEEE minimum of a and b. -/
  | fmin (d a b : Reg) (t : BitVec 2)
  /-- FMAX (R84): IEEE maximum of a and b. -/
  | fmax (d a b : Reg) (t : BitVec 2)
  /-- FMINI (R84): minimumNumber of a and b. -/
  | fmini (d a b : Reg) (t : BitVec 2)
  /-- FMAXI (R84): maximumNumber of a and b. -/
  | fmaxi (d a b : Reg) (t : BitVec 2)
  /-- FSGC (R115): Copies a with b's sign bit. -/
  | fsgc (d a b : Reg) (t : BitVec 2)
  /-- FSGI (R115): Copies a with the inverse of b's sign bit. -/
  | fsgi (d a b : Reg) (t : BitVec 2)
  /-- FSGX (R115): Copies a with the XOR of both sign bits. -/
  | fsgx (d a b : Reg) (t : BitVec 2)
  /-- FEQ (R115): Writes 1 if a equals b numerically. -/
  | feq (d a b : Reg) (t : BitVec 2)
  /-- FLT (R115): Writes 1 if a is less than b. -/
  | flt (d a b : Reg) (t : BitVec 2)
  /-- FLE (R115): Writes 1 if a is at most b. -/
  | fle (d a b : Reg) (t : BitVec 2)
  /-- FCLASS (R116): Writes the class code of a. -/
  | fclass (d a : Reg) (t : BitVec 2)
  /-- FCVTI (R117): Converts a float to a signed integer. -/
  | fcvti (d a : Reg) (c t : BitVec 2) (r : BitVec 3)
  /-- FCVTN (R117): Converts a float to an unsigned integer. -/
  | fcvtn (d a : Reg) (c t : BitVec 2) (r : BitVec 3)
  /-- ICVTF (R117): Converts a signed integer to a float. -/
  | icvtf (d a : Reg) (c t : BitVec 2) (r : BitVec 3)
  /-- NCVTF (R117): Converts an unsigned integer to a float. -/
  | ncvtf (d a : Reg) (c t : BitVec 2) (r : BitVec 3)
  /-- FCVTF (R117): Converts between floating types, non-saturating. -/
  | fcvtf (d a : Reg) (c t : BitVec 2) (r : BitVec 3)
  /-- FDIV (R118): Floating division, class L. -/
  | fdiv (d a b : Reg) (t : BitVec 2) (r : BitVec 3) (l : BitVec 4)
  /-- FSQRT (R118): Floating square root, class L. -/
  | fsqrt (d a : Reg) (t : BitVec 2) (r : BitVec 3) (l : BitVec 4)
  /-- FMADD (R119): Fused a times b plus c, rounded by FRM. -/
  | fmadd (d a b c : Reg) (t : BitVec 2)
  /-- FMSUB (R119): Fused a times b minus c. -/
  | fmsub (d a b c : Reg) (t : BitVec 2)
  /-- FNMADD (R119): Fused minus a times b minus c. -/
  | fnmadd (d a b c : Reg) (t : BitVec 2)
  /-- FNMSUB (R119): Fused minus a times b plus c. -/
  | fnmsub (d a b c : Reg) (t : BitVec 2)
  /-- LDS (R121): Sign-extending load at x[ra] plus scaled offset, class L. -/
  | lds (d a : Reg) (o : BitVec 10) (s : BitVec 2) (l : BitVec 4)
  /-- LDZ (R121): Zero-extending load at x[ra] plus scaled offset, class L. -/
  | ldz (d a : Reg) (o : BitVec 10) (s : BitVec 2) (l : BitVec 4)
  /-- ST (R121): Store at x[ra] plus scaled offset, private or logged. -/
  | st (d a : Reg) (o : BitVec 10) (s : BitVec 2)
  /-- LDSX (R121): Sign-extending indexed load. -/
  | ldsx (d a b : Reg) (s : BitVec 2) (l : BitVec 4)
  /-- LDZX (R121): Zero-extending indexed load. -/
  | ldzx (d a b : Reg) (s : BitVec 2) (l : BitVec 4)
  /-- STX (R121): Indexed store. -/
  | stx (d a b : Reg) (s : BitVec 2)
  /-- VLD (R151): Unit-stride vector load, optionally zeroing. -/
  | vld (d a : Reg) (m : BitVec 3) (z : BitVec 1) (l : BitVec 4)
  /-- VLD_ST (R151): Strided vector load. -/
  | vldSt (d a b : Reg) (m : BitVec 3) (z : BitVec 1) (l : BitVec 4)
  /-- VLD_GT (R151): Gather vector load. -/
  | vldGt (d a b : Reg) (m : BitVec 3) (z : BitVec 1) (l : BitVec 4)
  /-- VLD_BC (R151): Broadcast vector load. -/
  | vldBc (d a : Reg) (m : BitVec 3) (z : BitVec 1) (l : BitVec 4)
  /-- VLD_FF (R156): First-fault vector load that truncates VL at the first faulting lane. -/
  | vldFf (d a : Reg) (m : BitVec 3) (z : BitVec 1) (l : BitVec 4)
  /-- VST (R151): Unit-stride vector store. -/
  | vst (d a : Reg) (m : BitVec 3)
  /-- VST_ST (R151): Strided vector store. -/
  | vstSt (d a b : Reg) (m : BitVec 3)
  /-- VST_SC (R153): Scatter vector store in ascending lane order. -/
  | vstSc (d a b : Reg) (m : BitVec 3)
  /-- AMO_SWAP (R224): Atomic swap at the location's home. -/
  | amoSwap (d a b : Reg) (w : BitVec 1) (p : BitVec 2) (l : BitVec 4)
  /-- AMO_ADD (R224): Atomic add. -/
  | amoAdd (d a b : Reg) (w : BitVec 1) (p : BitVec 2) (l : BitVec 4)
  /-- AMO_AND (R224): Atomic AND. -/
  | amoAnd (d a b : Reg) (w : BitVec 1) (p : BitVec 2) (l : BitVec 4)
  /-- AMO_OR (R224): Atomic OR. -/
  | amoOr (d a b : Reg) (w : BitVec 1) (p : BitVec 2) (l : BitVec 4)
  /-- AMO_XOR (R224): Atomic XOR. -/
  | amoXor (d a b : Reg) (w : BitVec 1) (p : BitVec 2) (l : BitVec 4)
  /-- AMO_MIN (R224): Atomic signed minimum. -/
  | amoMin (d a b : Reg) (w : BitVec 1) (p : BitVec 2) (l : BitVec 4)
  /-- AMO_MAX (R224): Atomic signed maximum. -/
  | amoMax (d a b : Reg) (w : BitVec 1) (p : BitVec 2) (l : BitVec 4)
  /-- AMO_MINN (R224): Atomic unsigned minimum. -/
  | amoMinn (d a b : Reg) (w : BitVec 1) (p : BitVec 2) (l : BitVec 4)
  /-- AMO_MAXN (R224): Atomic unsigned maximum. -/
  | amoMaxn (d a b : Reg) (w : BitVec 1) (p : BitVec 2) (l : BitVec 4)
  /-- AMO_CAS (R224): Atomic compare-and-swap with the compare value in rd. -/
  | amoCas (d a b : Reg) (w : BitVec 1) (p : BitVec 2) (l : BitVec 4)
  /-- AMO_FADD (R224): Atomic floating add rounded by rne. -/
  | amoFadd (d a b : Reg) (w : BitVec 1) (p : BitVec 2) (l : BitVec 4)
  /-- AMO_LD (R224): Atomic read, the acquiring load when ordered acq. -/
  | amoLd (d a : Reg) (w : BitVec 1) (p : BitVec 2) (l : BitVec 4)
  /-- AMO_ST (R224): Atomic write returning nothing. -/
  | amoSt (a b : Reg) (w : BitVec 1) (p : BitVec 2) (l : BitVec 4)
  /-- PUB (R226): Forms a release, waits for it to complete and returns its stamp. -/
  | pub (d : Reg)
  /-- PUBN (R226): Forms and starts a release without waiting. -/
  | pubn (d : Reg)
  /-- PUBWAIT (R226): Waits for the core's release named by a stamp. -/
  | pubwait (a : Reg)
  /-- ACQ (R197): Acquires the release of a log named by a stamp. -/
  | acq (a : Reg)
  /-- ACQS (R199): Acquires the latest completed releases of every tenant core within a scope. -/
  | acqs (s : BitVec 4)
  /-- FENCE (R226): PUB followed by ACQS at a scope. -/
  | fence (s : BitVec 4)
  /-- IACQ (R227): Waits for earlier loads and discards the instruction buffer. -/
  | iacq
  /-- LOGSTAT (R226): Returns the stamp of the core's latest completed release. -/
  | logstat (d : Reg)
  /-- BRC_EQ (R132): Branches to b[bt] when a equals b. -/
  | brcEq (t : BitVec 2) (a b : Reg) (k : BitVec 1)
  /-- BRC_NE (R132): Branches when a differs from b. -/
  | brcNe (t : BitVec 2) (a b : Reg) (k : BitVec 1)
  /-- BRC_LT (R132): Branches when a is signed-less than b. -/
  | brcLt (t : BitVec 2) (a b : Reg) (k : BitVec 1)
  /-- BRC_GE (R132): Branches when a is signed at least b. -/
  | brcGe (t : BitVec 2) (a b : Reg) (k : BitVec 1)
  /-- BRC_LTN (R132): Branches when a is unsigned-less than b. -/
  | brcLtn (t : BitVec 2) (a b : Reg) (k : BitVec 1)
  /-- BRC_GEN (R132): Branches when a is unsigned at least b. -/
  | brcGen (t : BitVec 2) (a b : Reg) (k : BitVec 1)
  /-- BRC_ALW (R132): Branches always. -/
  | brcAlw (t : BitVec 2) (k : BitVec 1)
  /-- BRC_BSET (R132): Branches when bit (b mod 64) of a is set. -/
  | brcBset (t : BitVec 2) (a b : Reg) (k : BitVec 1)
  /-- PBR (R131): Sets a branch target register PC-relative. -/
  | pbr (t : BitVec 2) (d : BitVec 24)
  /-- PBRR (R133): Sets a branch target register from x[ra]. -/
  | pbrr (a : Reg) (t : BitVec 2)
  /-- CALL (R133): Writes the link to rd and jumps through a b register. -/
  | call (d : Reg) (t : BitVec 2)
  /-- RET (R133): Jumps to x[ra]. -/
  | ret (a : Reg)
  /-- JMPB (R133): Jumps through a b register. -/
  | jmpb (t : BitVec 2)
  /-- BGET (R133): Copies a b register into rd. -/
  | bget (d : Reg) (t : BitVec 2)
  /-- J (R134): Jumps PC-relative. -/
  | j (d : BitVec 26)
  /-- REPF (R61): Captures and replays a frame of up to 16 words with stepped register fields. -/
  | repf (n : BitVec 4) (i : BitVec 8) (d a b c : BitVec 3)
  /-- VADD (R159): Lane-wise integer add. -/
  | vadd (d a b : Reg) (m : BitVec 3) (v z : BitVec 1)
  /-- VSUB (R159): Lane-wise integer subtract. -/
  | vsub (d a b : Reg) (m : BitVec 3) (v z : BitVec 1)
  /-- VMUL (R159): Lane-wise integer multiply. -/
  | vmul (d a b : Reg) (m : BitVec 3) (v z : BitVec 1)
  /-- VMULH (R159): Upper half of signed lane product. -/
  | vmulh (d a b : Reg) (m : BitVec 3) (v z : BitVec 1)
  /-- VMULHN (R159): Upper half of unsigned lane product. -/
  | vmulhn (d a b : Reg) (m : BitVec 3) (v z : BitVec 1)
  /-- VAND (R159): Lane-wise AND. -/
  | vand (d a b : Reg) (m : BitVec 3) (v z : BitVec 1)
  /-- VOR (R159): Lane-wise OR. -/
  | vor (d a b : Reg) (m : BitVec 3) (v z : BitVec 1)
  /-- VXOR (R159): Lane-wise XOR. -/
  | vxor (d a b : Reg) (m : BitVec 3) (v z : BitVec 1)
  /-- VANDN (R159): Lane-wise AND NOT. -/
  | vandn (d a b : Reg) (m : BitVec 3) (v z : BitVec 1)
  /-- VSLL (R159): Lane-wise left shift. -/
  | vsll (d a b : Reg) (m : BitVec 3) (v z : BitVec 1)
  /-- VSRL (R159): Lane-wise logical right shift. -/
  | vsrl (d a b : Reg) (m : BitVec 3) (v z : BitVec 1)
  /-- VSRA (R159): Lane-wise arithmetic right shift. -/
  | vsra (d a b : Reg) (m : BitVec 3) (v z : BitVec 1)
  /-- VMIN (R159): Lane-wise signed minimum. -/
  | vmin (d a b : Reg) (m : BitVec 3) (v z : BitVec 1)
  /-- VMAX (R159): Lane-wise signed maximum. -/
  | vmax (d a b : Reg) (m : BitVec 3) (v z : BitVec 1)
  /-- VMINN (R159): Lane-wise unsigned minimum. -/
  | vminn (d a b : Reg) (m : BitVec 3) (v z : BitVec 1)
  /-- VMAXN (R159): Lane-wise unsigned maximum. -/
  | vmaxn (d a b : Reg) (m : BitVec 3) (v z : BitVec 1)
  /-- VSADD (R159): Signed saturating add. -/
  | vsadd (d a b : Reg) (m : BitVec 3) (v z : BitVec 1)
  /-- VSSUB (R159): Signed saturating subtract. -/
  | vssub (d a b : Reg) (m : BitVec 3) (v z : BitVec 1)
  /-- VSADDN (R159): Unsigned saturating add. -/
  | vsaddn (d a b : Reg) (m : BitVec 3) (v z : BitVec 1)
  /-- VSSUBN (R159): Unsigned saturating subtract. -/
  | vssubn (d a b : Reg) (m : BitVec 3) (v z : BitVec 1)
  /-- VABSD (R159): Lane-wise absolute difference. -/
  | vabsd (d a b : Reg) (m : BitVec 3) (v z : BitVec 1)
  /-- VSEQ (R147): Writes a mask bit where lanes are equal. -/
  | vseq (d a b : Reg) (m : BitVec 3) (v z : BitVec 1)
  /-- VSNE (R147): Writes a mask bit where lanes differ. -/
  | vsne (d a b : Reg) (m : BitVec 3) (v z : BitVec 1)
  /-- VSLT (R147): Writes a mask bit where a is signed-less than b. -/
  | vslt (d a b : Reg) (m : BitVec 3) (v z : BitVec 1)
  /-- VSLTN (R147): Writes a mask bit where a is unsigned-less than b. -/
  | vsltn (d a b : Reg) (m : BitVec 3) (v z : BitVec 1)
  /-- VMERGE (R160): Selects vb or va lane by lane using the mask as selector. -/
  | vmerge (d a b : Reg) (m : BitVec 3) (v : BitVec 1)
  /-- VPOPC (R159): Counts one bits in each lane. -/
  | vpopc (d a : Reg) (m : BitVec 3) (z : BitVec 1)
  /-- VCLZ (R159): Counts leading zeros in each lane. -/
  | vclz (d a : Reg) (m : BitVec 3) (z : BitVec 1)
  /-- VFADD (R161): Lane-wise floating add rounded by FRM. -/
  | vfadd (d a b : Reg) (m : BitVec 3) (v z : BitVec 1)
  /-- VFSUB (R161): Lane-wise floating subtract. -/
  | vfsub (d a b : Reg) (m : BitVec 3) (v z : BitVec 1)
  /-- VFMUL (R161): Lane-wise floating multiply. -/
  | vfmul (d a b : Reg) (m : BitVec 3) (v z : BitVec 1)
  /-- VFMIN (R161): Lane-wise IEEE minimum. -/
  | vfmin (d a b : Reg) (m : BitVec 3) (v z : BitVec 1)
  /-- VFMAX (R161): Lane-wise IEEE maximum. -/
  | vfmax (d a b : Reg) (m : BitVec 3) (v z : BitVec 1)
  /-- VFMINI (R161): Lane-wise minimumNumber. -/
  | vfmini (d a b : Reg) (m : BitVec 3) (v z : BitVec 1)
  /-- VFMAXI (R161): Lane-wise maximumNumber. -/
  | vfmaxi (d a b : Reg) (m : BitVec 3) (v z : BitVec 1)
  /-- VFSGC (R161): Lane-wise sign copy. -/
  | vfsgc (d a b : Reg) (m : BitVec 3) (v z : BitVec 1)
  /-- VFSGI (R161): Lane-wise sign invert. -/
  | vfsgi (d a b : Reg) (m : BitVec 3) (v z : BitVec 1)
  /-- VFSGX (R161): Lane-wise sign exclusive-or. -/
  | vfsgx (d a b : Reg) (m : BitVec 3) (v z : BitVec 1)
  /-- VFEQ (R161): Writes a mask bit where lanes compare equal. -/
  | vfeq (d a b : Reg) (m : BitVec 3) (v z : BitVec 1)
  /-- VFLT (R161): Writes a mask bit where a is less than b. -/
  | vflt (d a b : Reg) (m : BitVec 3) (v z : BitVec 1)
  /-- VFLE (R161): Writes a mask bit where a is at most b. -/
  | vfle (d a b : Reg) (m : BitVec 3) (v z : BitVec 1)
  /-- VFCLASS (R162): Writes the class code of each lane. -/
  | vfclass (d a : Reg) (m : BitVec 3) (z : BitVec 1)
  /-- VFMADD (R163): Lane-wise fused multiply-add. -/
  | vfmadd (d a b c : Reg) (m : BitVec 3)
  /-- VFMSUB (R163): Lane-wise fused multiply-subtract. -/
  | vfmsub (d a b c : Reg) (m : BitVec 3)
  /-- VFNMADD (R163): Lane-wise negated fused multiply-add. -/
  | vfnmadd (d a b c : Reg) (m : BitVec 3)
  /-- VFNMSUB (R163): Lane-wise negated fused multiply-subtract. -/
  | vfnmsub (d a b c : Reg) (m : BitVec 3)
  /-- VFDOT2 (R164): Pairwise 16-bit dot product into f32 lanes with one rounding. -/
  | vfdot2 (d a b c : Reg) (m : BitVec 3)
  /-- VIDOT4 (R165): Four-way 8-bit integer dot product into 32-bit lanes. -/
  | vidot4 (d a b c : Reg) (m : BitVec 3)
  /-- VFDIV (R166): Lane-wise floating division, class L. -/
  | vfdiv (d a b : Reg) (m : BitVec 3) (z : BitVec 1) (l : BitVec 4)
  /-- VFSQRT (R166): Lane-wise floating square root, class L. -/
  | vfsqrt (d a : Reg) (m : BitVec 3) (z : BitVec 1) (l : BitVec 4)
  /-- VDIV (R167): Lane-wise signed division. -/
  | vdiv (d a b : Reg) (m : BitVec 3) (z : BitVec 1) (l : BitVec 4)
  /-- VDIVN (R167): Lane-wise unsigned division. -/
  | vdivn (d a b : Reg) (m : BitVec 3) (z : BitVec 1) (l : BitVec 4)
  /-- VREM (R167): Lane-wise signed remainder. -/
  | vrem (d a b : Reg) (m : BitVec 3) (z : BitVec 1) (l : BitVec 4)
  /-- VREMN (R167): Lane-wise unsigned remainder. -/
  | vremn (d a b : Reg) (m : BitVec 3) (z : BitVec 1) (l : BitVec 4)
  /-- VREDSUM (R168): Integer sum reduction over the fixed tree. -/
  | vredsum (d a b : Reg) (m : BitVec 3) (v : BitVec 1)
  /-- VREDMIN (R168): Integer minimum reduction. -/
  | vredmin (d a b : Reg) (m : BitVec 3) (v : BitVec 1)
  /-- VREDMAX (R168): Integer maximum reduction. -/
  | vredmax (d a b : Reg) (m : BitVec 3) (v : BitVec 1)
  /-- VFREDSUM (R99): Floating tree sum reduction. -/
  | vfredsum (d a b : Reg) (m : BitVec 3) (v : BitVec 1)
  /-- VFREDSEQ (R100): Floating sequential sum reduction. -/
  | vfredseq (d a b : Reg) (m : BitVec 3) (v : BitVec 1)
  /-- VFREDMIN (R168): Floating minimum reduction. -/
  | vfredmin (d a b : Reg) (m : BitVec 3) (v : BitVec 1)
  /-- VFREDMAX (R168): Floating maximum reduction. -/
  | vfredmax (d a b : Reg) (m : BitVec 3) (v : BitVec 1)
  /-- VSLIDEUP (R169): Slides lanes up by an immediate or scalar amount. -/
  | vslideup (d a : Reg) (k : BitVec 5) (m : BitVec 3) (v : BitVec 1)
  /-- VSLIDEDN (R169): Slides lanes down by an immediate or scalar amount. -/
  | vslidedn (d a : Reg) (k : BitVec 5) (m : BitVec 3) (v : BitVec 1)
  /-- VPERM (R170): Permutes lanes by an index vector. -/
  | vperm (d a b : Reg) (m : BitVec 3)
  /-- VSQZ (R170): Squeezes selected lanes to the bottom. -/
  | vsqz (d a : Reg) (m : BitVec 3)
  /-- VSPRD (R170): Spreads consecutive lanes to active positions. -/
  | vsprd (d a : Reg) (m : BitVec 3)
  /-- VZIP (R170): Interleaves the lower halves of two vectors. -/
  | vzip (d a b : Reg) (m : BitVec 3)
  /-- VUNZIP (R170): De-interleaves even lanes of two vectors. -/
  | vunzip (d a b : Reg) (m : BitVec 3)
  /-- VRANK (R170): Writes each active lane's rank among active lanes. -/
  | vrank (d : Reg) (m : BitVec 3)
  /-- VMAND (R171): ANDs two mask registers. -/
  | vmand (d a b : BitVec 3)
  /-- VMOR (R171): ORs two mask registers. -/
  | vmor (d a b : BitVec 3)
  /-- VMXOR (R171): XORs two mask registers. -/
  | vmxor (d a b : BitVec 3)
  /-- VMNOT (R171): Inverts a mask register. -/
  | vmnot (d a : BitVec 3)
  /-- VMPOPC (R171): Counts one bits of a mask into an x register. -/
  | vmpopc (d : Reg) (a : BitVec 3)
  /-- VMFIRST (R171): Writes the index of the lowest set mask bit. -/
  | vmfirst (d : Reg) (a : BitVec 3)
  /-- VSPLAT (R172): Writes a scalar to every active lane. -/
  | vsplat (d a : Reg) (m : BitVec 3)
  /-- VEXT (R172): Extracts one lane into an x register. -/
  | vext (d a b : Reg)
  /-- VINS (R172): Inserts a scalar into one lane. -/
  | vins (d a b : Reg)
  /-- VMOV (R172): Copies active lanes. -/
  | vmov (d a : Reg) (m : BitVec 3)
  /-- VSETT (R173): Writes VT and returns the new active length. -/
  | vsett (d a : Reg)
  /-- VGETT (R172): Reads VT into an x register. -/
  | vgett (d : Reg)
  /-- VID (R172): Writes each active lane's index. -/
  | vid (d : Reg) (m : BitVec 3)
  /-- VMTOX (R172): Copies a mask register to an x register. -/
  | vmtox (d : Reg) (a : BitVec 3)
  /-- VXTOM (R172): Copies an x register to a mask register. -/
  | vxtom (d : BitVec 3) (a : Reg)
  /-- VCVT (R175): Converts lanes between element types, non-saturating. -/
  | vcvt (d a p : Reg) (m : BitVec 3) (t : BitVec 4)
  /-- VCVTS (R175): Converts lanes between element types, saturating into f8. -/
  | vcvts (d a p : Reg) (m : BitVec 3) (t : BitVec 4)
  /-- VQUANT (R176): Encodes float lanes as q codes with one scale and zero point. -/
  | vquant (d a b : Reg) (m : BitVec 3) (t : BitVec 4)
  /-- VDEQ (R176): Decodes q code lanes into floats. -/
  | vdeq (d a b : Reg) (m : BitVec 3) (t : BitVec 4)
  /-- VPACK (R177): Narrows two vectors by saturation into one. -/
  | vpack (d a b : Reg) (m : BitVec 3) (t : BitVec 4)
  /-- VUNPK (R178): Widens half of a vector by extension. -/
  | vunpk (d a p : Reg) (m : BitVec 3) (t : BitVec 4)
  /-- VRMIX (R180): Counter-based mixing of 128-bit counters under keys. -/
  | vrmix (d a b : Reg)
  /-- VADDQ (R179): Adds 128-bit lanes modulo 2^128. -/
  | vaddq (d a b : Reg)
  /-- VEQQ (R179): Compares 128-bit lanes into a mask. -/
  | veqq (d : BitVec 3) (a b : Reg)
  /-- QBIND (R230): Binds a q register to a receive queue or engine port. -/
  | qbind (q : BitVec 4) (a : Reg)
  /-- QUNBIND (R234): Unbinds a q register, waiting for send acceptance. -/
  | qunbind (q : BitVec 4)
  /-- QPUSH (R231): Sends an 8-byte message through a send binding. -/
  | qpush (q : BitVec 4) (a : Reg)
  /-- QPOP (R234): Waits for and takes a message or decrements a mailbox counter. -/
  | qpop (q : BitVec 4) (d : Reg) (l : BitVec 4)
  /-- QPUSHV (R231): Sends a 64-byte vector message. -/
  | qpushv (q : BitVec 4) (a : Reg)
  /-- QPOPV (R234): Takes a message into a vector register. -/
  | qpopv (q : BitVec 4) (d : Reg) (l : BitVec 4)
  /-- QPOPT (R234): Pops without waiting and reports success. -/
  | qpopt (q : BitVec 4) (d b : Reg)
  /-- QSTAT (R235): Returns the binding's kind, count and target. -/
  | qstat (q : BitVec 4) (d : Reg)
  /-- MLEASE (R236): Opens a lease session and requests the matrix array. -/
  | mlease (l : BitVec 4)
  /-- MRELS (R250): Closes the lease session and discards a suspended command. -/
  | mrels
  /-- MMA (R244): Queues a matrix multiply-accumulate into a tile register. -/
  | mma (z : BitVec 3) (a b : Reg)
  /-- MZERO (R250): Queues zeroing of a tile and resets its label. -/
  | mzero (z : BitVec 3)
  /-- MDRAIN (R250): Waits until the hart's accepted array commands complete or suspend. -/
  | mdrain (l : BitVec 4)
  /-- MPROG (R248): Returns the progress of a suspended command. -/
  | mprog (d : Reg)
  /-- MRESUME (R248): Continues a suspended command from its recorded point. -/
  | mresume
  /-- MSCALE (R249): Starts the scale keeper sending group exponents to peers. -/
  | mscale (a : Reg)
  /-- MSTAT (R247): Returns the lease session status. -/
  | mstat (d : Reg)
  /-- ZBIND (R242): Binds a tile register to private tile storage. -/
  | zbind (z : BitVec 3) (a : Reg)
  /-- ZUNBIND (R251): Unbinds a tile register after its commands complete. -/
  | zunbind (z : BitVec 3)
  /-- ZGET (R251): Reads 16 tile elements into a vector register. -/
  | zget (d : Reg) (z : BitVec 3) (b : Reg)
  /-- ZLBL (R251): Returns a tile's label. -/
  | zlbl (d : Reg) (z : BitVec 3)
  /-- COPY (R253): Issues a streamer copy command on a channel. -/
  | copy (d a : Reg) (c : BitVec 3)
  /-- COPYM (R260): Issues a multicast copy to a receiver list. -/
  | copym (d a : Reg) (c : BitVec 3)
  /-- COPYRD (R261): Issues a reduce-on-write copy. -/
  | copyrd (d a : Reg) (c : BitVec 3)
  /-- BFREE (R260): Frees one multicast round toward its sender. -/
  | bfree (a : Reg)
  /-- CPWAIT (R257): Waits until a copy identity is covered, then acquires at a scope. -/
  | cpwait (a : Reg) (c : BitVec 3) (s : BitVec 4)
  /-- CPMARK (R257): Reads a channel's MARK. -/
  | cpmark (d : Reg) (c : BitVec 3)
  /-- CPUI (R258): Arms a user-level interrupt on a copy identity. -/
  | cpui (a : Reg) (c : BitVec 3)
  /-- CPSTAT (R264): Returns and clears a channel's status. -/
  | cpstat (d : Reg) (c : BitVec 3)
  /-- TSPAWN (R283): Records a deferred release of a descriptor. -/
  | tspawn (a : Reg)
  /-- COMMIT (R285): Sends the task's commit request and waits for the first reply. -/
  | commit
  /-- TABORT (R309): Ends the task copy, aborting or ending its registration. -/
  | tabort (k : BitVec 1)
  /-- DEPSET (R296): Records a deferred arming of a dependency counter. -/
  | depset (d a b : Reg)
  /-- DEPDEC (R297): Records a deferred counter decrement. -/
  | depdec (a : Reg)
  /-- DEPGET (R312): Reads a counter's armed bit and count. -/
  | depget (d a : Reg) (l : BitVec 4)
  /-- TSELF (R312): Returns the copy's tag and task identity. -/
  | tself (d : Reg)
  /-- TWORK (R312): Adds work units to RWC. -/
  | twork (a : Reg)
  /-- TPIN (R312): Pins the current version of a tile for the registration. -/
  | tpin (d a : Reg) (l : BitVec 4)
  /-- LBLGET (R228): Returns 64 bits of an LSID's tenant mask. -/
  | lblget (d a : Reg) (k : BitVec 5)
  /-- LBLPAGE (R228): Returns the LSID of the page or bank holding a byte. -/
  | lblpage (d a : Reg)
  /-- LBLSUB (R228): Tests whether one label set is a subset of another. -/
  | lblsub (d a b : Reg)
  /-- SRD (R345): Reads a system register. -/
  | srd (d : Reg) (s : BitVec 12)
  /-- SWR (R345): Writes a system register and returns its old value; the generic write of registers without a row of their own. -/
  | swr (d a : Reg) (s : BitVec 12)
  /-- SSET (R345): Sets bits of a system register. -/
  | sset (d a : Reg) (s : BitVec 12)
  /-- SCLR (R345): Clears bits of a system register. -/
  | sclr (d a : Reg) (s : BitVec 12)
  /-- SCALL (R346): Traps to supervisor with a code. -/
  | scall (c : BitVec 12)
  /-- MCALL (R346): Traps to machine mode with a code. -/
  | mcall (c : BitVec 12)
  /-- RETS (R324): Returns from a supervisor trap, re-submitting held work. -/
  | rets
  /-- RETM (R324): Returns from a machine trap. -/
  | retm
  /-- RETU (R329): Returns from a user-level interrupt handler. -/
  | retu
  /-- IDLE (R347): Makes the hart not ready until an interrupt, event or completion. -/
  | idle
  /-- HALT (R347): Ends the hart's part of a launch after publishing its log. -/
  | halt
  /-- BREAK (R346): Raises a breakpoint trap. -/
  | brk (c : BitVec 12)
  /-- TRAPI (R346): Traps when x[ra] is non-zero. -/
  | trapi (a : Reg) (c : BitVec 12)
  /-- XLINV_S1 (R348): Publishes the log and invalidates stage-1 translations. -/
  | xlinvS1 (a : Reg)
  /-- XLINV_S2 (R348): Publishes the log and invalidates stage-2 translations. -/
  | xlinvS2 (a : Reg)
  /-- NOP (R141): Does nothing. -/
  | nop
  /-- ALIGN (R142): Holds the next fetch request until a grove peer requests the same block. -/
  | align (w : BitVec 4)
  /-- PREF (R143): Prefetches a sector or translation without faulting. -/
  | pref (a : Reg) (k : BitVec 4)
  /-- SPIN (R23): Passes issue to the next ready hart. -/
  | spin
  /-- FRM_WRITE (R41): Write to FRM, refused with ILLEGAL for modes 5 to 7. -/
  | frmWrite (op : SrOp) (d a : Reg)
  /-- FFLAGS_ACCESS (R89): Access to FFLAGS that waits for outstanding floating instructions to set their flags. -/
  | fflagsAccess (op : SrOp) (d a : Reg)
  /-- LOGBASE_WRITE (R46): Supervisor write to LOGBASE or LOGSIZE with fill and overlap checks. -/
  | logbaseWrite (size : Bool) (op : SrOp) (d a : Reg)
  /-- SPILLBASE_WRITE (R47): Supervisor write to SPILLBASE or SPILLSIZE with placement checks. -/
  | spillbaseWrite (size : Bool) (op : SrOp) (d a : Reg)
  /-- HLA_WRITE (R48): Supervisor write of the hart's label set. -/
  | hlaWrite (op : SrOp) (d a : Reg)
  /-- WIN_WRITE (R212): Write to a window register, preceded by a PUB of the core's log. -/
  | winWrite (n : BitVec 2) (op : SrOp) (d a : Reg)
  /-- BLBL_WRITE (R220): Write to a bank label, widening it or zeroing the bank. -/
  | blblWrite (n : BitVec 4) (op : SrOp) (d a : Reg)
  /-- BFMT_WRITE (R240): Write to a bank format register with format checks. -/
  | bfmtWrite (n : BitVec 4) (op : SrOp) (d a : Reg)
  /-- GFFLAGS_CLEAR (R90): W1C write to the grove's sticky flag union. -/
  | gfflagsClear (op : SrOp) (d a : Reg)
  /-- HNOTE_READ (R320): Read of HNOTE that returns and removes the oldest host note. -/
  | hnoteRead (d : Reg)
  /-- SERRCP_WRITE (R320): Copies and removes the oldest supervisor error entry into the own slice. -/
  | serrcpWrite (d a : Reg)
  /-- SIPND_SOFT_WRITE (R319): Write of SIPND.SOFT that makes a software interrupt pending. -/
  | sipndSoftWrite (op : SrOp) (d a : Reg)
  /-- FSTAT_WRITE (R353): Host write of FSTAT.EN that starts or stops the function's queues and reads the QCB. -/
  | fstatWrite (fn : Nat) (v : Dword)
  /-- NOTIFY (R356): Host write of a submission queue's new tail. -/
  | notify (fn q : Nat) (v : Dword)
  /-- RECCTL_GO (R398): Starts the recovery fetch of a firmware image from host memory. -/
  | recctlGo (v : Dword)
  /-- RECOVERY_IMAGE_FETCHED (R398): Recovery image arrives; it is verified, written under the journal and the package reset. -/
  | recoveryImageFetched (ok : Bool)
  /-- HOST_REGISTER_WRITE (R352): Host write to a BAR register with no row of its own. -/
  | hostRegisterWrite (fn off : Nat) (v : Dword)
  /-- TDISP_TRANSITION (R361): A VF's TDISP interface changes state. -/
  | tdispTransition (vf : Nat) (new : Tdisp)
  /-- GET_VERSION (R362): SPDM version request over DOE. -/
  | getVersion (msg : List Byte)
  /-- GET_CAPABILITIES (R362): SPDM capabilities request. -/
  | getCapabilities (msg : List Byte)
  /-- NEGOTIATE_ALGORITHMS (R362): SPDM algorithm negotiation. -/
  | negotiateAlgorithms (msg : List Byte)
  /-- GET_DIGESTS (R362): SPDM certificate digest request. -/
  | getDigests (msg : List Byte)
  /-- GET_CERTIFICATE (R362): SPDM certificate chain request. -/
  | getCertificate (msg : List Byte)
  /-- CHALLENGE (R362): SPDM challenge signed with the identity keys. -/
  | challenge (msg : List Byte)
  /-- GET_MEASUREMENTS (R362): SPDM measurement blocks request. -/
  | getMeasurements (msg : List Byte)
  /-- KEY_EXCHANGE (R362): SPDM session key exchange. -/
  | keyExchange (msg : List Byte)
  /-- FINISH (R362): SPDM session finish. -/
  | finish (msg : List Byte)
  /-- END_SESSION (R362): SPDM session end. -/
  | endSession (msg : List Byte)
  /-- IDENTIFY (R357): Writes firmware version and capabilities to host memory. -/
  | identify (cmd : Cmd)
  /-- RESYNC (R360): Writes the package or tenant summary. -/
  | resync (cmd : Cmd)
  /-- SIGNAL (R357): Sets SIPND.SOFT on every hart of a partition. -/
  | signal (cmd : Cmd)
  /-- NOTE (R320): Appends a word to a partition's host-note queue. -/
  | note (cmd : Cmd)
  /-- PART_GRANT (R363): Grants a partition node to a tenant and clears it. -/
  | partGrant (cmd : Cmd)
  /-- PART_RETURN (R364): Frees a granted node. -/
  | partReturn (cmd : Cmd)
  /-- PART_CONFIG (R365): Sets a partition's time slice and default S1BASE. -/
  | partConfig (cmd : Cmd)
  /-- LABEL_INTERN (R216): Interns a tenant set and returns its LSID. -/
  | labelIntern (cmd : Cmd)
  /-- RT_LOAD (R358): Installs the supervisor runtime and starts its initialisation run. -/
  | rtLoad (cmd : Cmd)
  /-- S2_ROOT (R357): Installs a partition's stage-2 root table. -/
  | s2Root (cmd : Cmd)
  /-- LAUNCH (R357): Accepts or refuses a hart or task launch. -/
  | launch (cmd : Cmd)
  /-- HART_LAUNCH_DISPATCH (R29): Starts a hart launch's harts once the cores it names are free. -/
  | hartLaunchDispatch (launch : Nat) (at_ : Placement)
  /-- PREEMPT (R332): Stops a launch and saves its state. -/
  | preempt (cmd : Cmd)
  /-- PREEMPT_DEADLINE (R311): The 20 µs window for accepts in a task-launch pre-emption expires and remaining copies are cancelled. -/
  | preemptDeadline (launch : Nat)
  /-- RESUME (R333): Restores and restarts a pre-empted launch. -/
  | resume (cmd : Cmd)
  /-- END (R357): Ends a running or pre-empted launch with ENDED. -/
  | endLaunch (cmd : Cmd)
  /-- POLICY_ADD (R223): Verifies and installs a signed Firebreak policy. -/
  | policyAdd (cmd : Cmd)
  /-- POLICY_DEL (R357): Removes a Firebreak policy. -/
  | policyDel (cmd : Cmd)
  /-- BUDGET_SET (R368): Sets a tenant's refill, hedging budget and weight. -/
  | budgetSet (cmd : Cmd)
  /-- SCRUB_SET (R379): Sets a scrub level's interval. -/
  | scrubSet (cmd : Cmd)
  /-- COUNTERS (R372): Writes a tenant's 16 counters. -/
  | counters (cmd : Cmd)
  /-- VF_CREATE (R350): Creates a VF and registers its tenant keys. -/
  | vfCreate (cmd : Cmd)
  /-- VF_DESTROY (R350): Destroys a VF and its tenant's policies. -/
  | vfDestroy (cmd : Cmd)
  /-- VF_CONFIG (R357): Sets a VF's privileged QCB fields. -/
  | vfConfig (cmd : Cmd)
  /-- FW_STAGE (R397): Copies firmware or configuration bytes into the staging area. -/
  | fwStage (cmd : Cmd)
  /-- FW_COMMIT (R397): Verifies the staged object and writes it to flash under the journal. -/
  | fwCommit (cmd : Cmd)
  /-- ERRLOG_READ (R380): Copies error-log entries to the PF. -/
  | errlogRead (cmd : Cmd)
  /-- UNKNOWN_COMMAND (R357): A command with an unassigned OPC completes with INVAL. -/
  | unknownCommand (cmd : Cmd)
  /-- FUNCTION_LEVEL_RESET (R371): Ends the tenant's launches, purges its packets and resets the VF. -/
  | functionLevelReset (vf : Nat)
  /-- PACKAGE_RESET (R393): PERST# held low or PWRGD low holds the package in reset. -/
  | packageReset
  /-- BOOT (R394): On PERST# release the ROM verifies, measures and starts the firmware. -/
  | boot (src : BitVec 2)
  /-- DOMAIN_ADMISSION (R390): Internal ports reach their configured peers and the package is admitted. -/
  | domainAdmission (peers : List Peer)
  /-- HOST_MODULE_TRAINING (R387): UCIe modules finish training and the port runs on those that trained. -/
  | hostModuleTraining (trained : Nat)
  /-- LINK_FAILURE (R391): An internal link fails and its traffic moves to the remaining ports. -/
  | linkFailure (port : Nat)
  /-- FLIT_RESEND (R388): A corrupt flit is re-sent from the replay buffer. -/
  | flitResend (port : Nat)
  /-- ROUTE_TIMEOUT (R391): No route returns to a package within 10 ms and waiting launches end TORN. -/
  | routeTimeout (pkg : Nat)
  /-- THERMAL_TRIP (R392): At 115 °C every die stops and THERMTRIP# asserts. -/
  | thermalTrip
  /-- THERMAL_RECOVERY (R392): Cooling below 95 °C resets the package. -/
  | thermalRecovery
  /-- ISSUE_QUANTUM (R23): After 4,096 consecutive issue cycles issue passes to another ready hart. -/
  | issueQuantum (core : Nat)
  /-- GROVE_FETCH (R401): The grove fetch port delivers a requested or merged block. -/
  | groveFetch (hart : Nat) (addr : Dword)
  /-- ALIGN_TIMEOUT (R142): The ALIGN wait bound expires and the held fetch request is made. -/
  | alignTimeout (hart : Nat)
  /-- CLASS_L_WRITEBACK (R58): A class L result is written when it completes or its window closes. -/
  | classLWriteback (hart : Nat)
  /-- READ_REQUEST (R213): A remote read reaches its target and is granted or refused. -/
  | readRequest (core : Nat) (addr : Dword) (n : Nat)
  /-- AUTO_PUBLICATION (R194): The core sends unpublished non-task records to their homes unprompted. -/
  | autoPublication (core n : Nat)
  /-- RECORD_APPLY (R188): A home checks and applies an arriving record or engine unit. -/
  | recordApply (core idx : Nat)
  /-- RECORD_ACK (R191): A home's acknowledgement reclaims a log record. -/
  | recordAck (core idx : Nat)
  /-- RECORD_RESEND (R208): A record lost in flight is re-sent from the log. -/
  | recordResend (core idx : Nat)
  /-- LOG_ERROR_DETECTED (R208): An uncorrectable error is found in a log record. -/
  | logErrorDetected (core idx : Nat)
  /-- RELEASE_COMPLETION (R195): Every record of a release's tail is applied and the release completes. -/
  | releaseCompletion (core : Nat)
  /-- ACQUIRE_REQUEST (R197): An acquire request reaches a log and is answered with a completed release. -/
  | acquireRequest (core : Nat) (stamp : Dword)
  /-- ATOMIC_APPLY (R204): An atomic is performed at its home with tag attach or return. -/
  | atomicApply (req : AtomicReq)
  /-- VIEW_BUFFER_EXPIRY (R202): A view-buffer entry ages out after 4,096 cycles. -/
  | viewBufferExpiry (core : Nat)
  /-- ACQUIRED_ENTRY_EXPIRY (R198): An acquired-set entry expires after 4,096 cycles. -/
  | acquiredEntryExpiry (core : Nat)
  /-- RELEASE_TAG_EXPIRY (R205): A release tag or eviction region expires after 4,096 cycles. -/
  | releaseTagExpiry
  /-- EGRESS_CHECK (R222): Firebreak passes or drops a write leaving for host or an external port. -/
  | egressCheck (core idx : Nat)
  /-- HOST_WRITE_REJECT (R339): The host rejects a posted write and a HOSTWR entry is written. -/
  | hostWriteReject (part : Nat) (addr : Dword)
  /-- REPLICA_COLLAPSE (R343): A write to a replicated page collapses the copies before it is applied. -/
  | replicaCollapse (part : Nat) (ia : Dword)
  /-- SHADOW_COPY (R383): A first write to a shadowed page waits while the page is copied. -/
  | shadowCopy (launch page : Nat)
  /-- STAGE2_SERVICE (R339): Understory serves an invalid stage-2 entry while the access waits. -/
  | stage2Service (part : Nat) (ia : Dword) (leaf : Option Dword)
  /-- XLINV_COMPLETION (R342): Removal of held translations finishes on every die of the partition. -/
  | xlinvCompletion (hart : Nat)
  /-- BANK_ZERO_COMPLETION (R220): A bank zeroing of 1,024 cycles finishes. -/
  | bankZeroCompletion (core : Nat)
  /-- QUEUE_MESSAGE_ARRIVAL (R231): A message is accepted into a receive queue or refused. -/
  | queueMessageArrival (core q : Nat)
  /-- QSTALL (R232): A push waits longer than QLIMIT and traps. -/
  | qstall (hart : Nat)
  /-- LEASE_GRANT (R236): The matrix array passes to a waiting hart. -/
  | leaseGrant (grove : Nat)
  /-- GRANT_PERIOD_EXPIRY (R236): A grant period ends after 65,536 cycles. -/
  | grantPeriodExpiry (grove : Nat)
  /-- MMA_START (R246): The array starts the next accepted command. -/
  | mmaStart (grove : Nat)
  /-- MMA_COMPLETION (R244): An array command writes its last element and completes. -/
  | mmaCompletion (grove : Nat)
  /-- MMA_SUSPEND (R248): An operand read faults and the command is suspended. -/
  | mmaSuspend (grove : Nat)
  /-- MSCALE_WORD (R249): The keeper sends the next group word to its peers. -/
  | mscaleWord (grove : Nat)
  /-- COPY_SEGMENT (R254): A streamer picks, translates and sends a copy segment. -/
  | copySegment (key : Nat)
  /-- COPY_UNIT_APPLY (R256): A copy unit is applied at its home or dropped. -/
  | copyUnitApply (key : Nat)
  /-- COPYRD_UNIT_APPLY (R261): A reduce unit adds its source into the destination at the home. -/
  | copyrdUnitApply (key : Nat)
  /-- COPY_COMPLETION (R257): A copy command completes, advancing MARK and mailboxes. -/
  | copyCompletion (key : Nat)
  /-- BFREE_COMBINE (R260): Routers combine BFREE messages and raise the sender's counter. -/
  | bfreeCombine (core smbox : Nat)
  /-- TASK_RELEASE (R278): A die scheduler registers, pins and queues a released task. -/
  | taskRelease (launch : Nat)
  /-- TASK_DISPATCH (R301): A free hart takes the best eligible task and starts a copy. -/
  | taskDispatch (hart : Nat) (at_ : Placement)
  /-- COMMIT_REQUEST (R286): A tile home decides a commit request. -/
  | commitRequest (hart : Nat)
  /-- COMMIT_REDECISION (R287): Parked commits are re-decided after a tile change. -/
  | commitRedecision (launch : Nat) (tile : Option Nat)
  /-- COMMIT_REPLY (R288): A commit reply reaches the hart and ends the copy. -/
  | commitReply (hart : Nat)
  /-- TASK_CANCEL (R308): A CANCEL reaches a running copy. -/
  | taskCancel (hart : Nat)
  /-- DEPSET_APPLY (R296): A DEPSET unit arms a counter or releases a task. -/
  | depsetApply (launch : Nat)
  /-- COUNTER_DECREMENT (R297): A decrement unit reaches a counter table. -/
  | counterDecrement (launch : Nat)
  /-- CANOPY_CHECK (R305): Every 4,096 cycles Canopy finds stragglers. -/
  | canopyCheck (die : Nat)
  /-- BACKUP_START (R307): A backup copy starts on its reserved hart. -/
  | backupStart (launch reg : Nat) (at_ : Placement)
  /-- CONTEXT_ROTATION (R334): At a slice boundary a context is swapped on a hart. -/
  | contextRotation (hart : Nat)
  /-- SUPERVISOR_INTERRUPT (R316): A pending enabled interrupt is taken at an instruction boundary. -/
  | supervisorInterrupt
  /-- EVENT_ENTRY (R327): A queued asynchronous event is taken. -/
  | eventEntry
  /-- USER_INTERRUPT (R329): A pending copy completion enters the user-level handler. -/
  | userInterrupt
  /-- IDLE_WAKE (R347): An idle hart becomes ready again. -/
  | idleWake (hart : Nat)
  /-- BUDGET_PERIOD (R366): A new token period refills budgets. -/
  | budgetPeriod
  /-- ENERGY_TICK (R369): A grove's energy increment is charged to launches. -/
  | energyTick (grove microjoule : Nat)
  /-- SCRUB_SECTOR (R379): The scrubber reads and corrects a sector. -/
  | scrubSector (level : Nat) (sector : Nat) (found : Found)
  /-- CHECKER_MISMATCH (R374): The checker finds a mismatch and replays. -/
  | checkerMismatch (hart : Nat) (found : Mismatch)
  /-- UNPINNABLE_ERROR (R378): An error not pinned to a task ends or replays its launch. -/
  | unpinnableError (launch level : Nat)
  /-- SPARE_SUBSTITUTION (R365): At a quiesce a spare takes over a lasting unit. -/
  | spareSubstitution (core : Nat)
  /-- RESERVED_ENCODING (R55): A word with major 0x00 or 0x29 to 0x3F, or a reserved code or non-zero zero field, raises ILLEGAL when the hart would issue it. -/
  | reservedEncoding (w : IWord)
  /-- GROVE_FLAG_ARRIVAL (R90): A flag set by a hart or the matrix array arrives in GFFLAGS within 64 cycles and stays set even against a W1C in the same cycle. -/
  | groveFlagArrival (grove : Nat)
  /-- ROUTE_RETURN (R391): A route to an unreachable package returns, and the accesses, records, commits and copy units waiting for it proceed in their publisher's order. -/
  | routeReturn (pkg port : Nat)
  /-- ISSUE_GATING (R392): A die that would pass its share of the power limit, or the 105 °C junction limit, gates issue on its cores, and releases the gate when back within them. -/
  | issueGating (die : Nat) (on : Bool)
  /-- FLR_COMPLETION (R371): A function-level reset completes within 10 ms, after which PF commands naming the tenant's partitions are no longer refused with BUSY. -/
  | flrCompletion (vf : Nat)
  /-- FW_COMMIT_COMPLETION (R397): The journalled flash write and read-back of a committed image or configuration finish, and FW_COMMIT completes. -/
  | fwCommitCompletion
  /-- SUBSTITUTION_COMPLETION (R365): A spare substitution begun at a quiesce finishes within 2 ms, and a LAUNCH waiting for it may start. -/
  | substitutionCompletion (core : Nat)
  deriving DecidableEq, Repr

end Sys2Proof
end

