-- ==== Sys2Proof/Machine/State.lean ====
section
/-!
DEFINITION. The state of one CZ-9 package as plain data, and the state after package reset. Every
structure names the rules that give it its fields. Units are kept in association lists keyed by their
number; a unit that is not listed is as after reset (`Hart.fresh`, `Core.fresh`, ...). The acting hart
and its core stand in fields of their own; `Sys2Proof.Machine.focus` changes which they are.
-/

namespace Sys2Proof.Machine

/-- The machine never stops with a fault: every cause the spec names is a trap it takes
(17 R322), and an address the spec says does not exist raises ADDR, or the page fault of its
translation (notes/assumptions/25.md). Safe: there is no constructor. -/
inductive Fault
  deriving DecidableEq, Repr

/-- Why an instruction has no meaning. -/
inductive Refusal
  /-- Raised by the dispatcher for an instruction that has no meaning yet. Safe: the model stops. -/
  | notModelled (mnemonic : String)
  deriving DecidableEq, Repr

/-- Privilege modes, codes 0 to 2 (17 R314). -/
inductive Mode
  | user | supervisor | machine
  deriving DecidableEq, Repr

/-- Why a hart is or is not running (01 R21, 17 R347). -/
inductive RunState
  | unloaded | running | idle | halted
  deriving DecidableEq, Repr

/-- The trap causes of 17 R315, codes 0 to 26 in this order. -/
inductive Cause
  | illegal | frame | addr | align | fetch | ldpage | stpage | perm | win | label | egress | logerr
  | qstall | mfault | mfmt | lease | depunder | taskctx | codebound | diecross | scall | mcall | brk
  | trapi | ecc | check | priv
  deriving DecidableEq, Repr

/-- A cause with its STVAL (17 R315). -/
structure Trap where
  cause : Cause
  val : Dword
  deriving DecidableEq, Repr

/-- The binding of a q register (13 R230). -/
inductive Binding
  | none
  | send (num : BitVec 4) (core : BitVec 20)
  | recv (num : BitVec 4)
  | port (num : BitVec 3)
  deriving DecidableEq, Repr

/-- A bound z register: its ZBIND word and its label (13 R242, R243). -/
structure Tile where
  word : Dword
  lsid : Lsid
  deriving DecidableEq, Repr

/-- The sequencer: captured words, iteration count, steps, iteration, position, and the address of
the REPF (03 R61, R62). -/
structure Frame where
  words : List IWord
  iters : Nat
  sd : BitVec 3
  sa : BitVec 3
  sb : BitVec 3
  sc : BitVec 3
  iter : Nat
  pos : Nat
  base : Dword
  deriving DecidableEq, Repr

/-- The destination of an open class L window (03 R58). `lease` and `drain` write no register: MLEASE
completes when granted, MDRAIN when the hart's commands have completed (13 R250). `pop` is a QPOP or
QPOPV whose message has not arrived (13 R234): binding, q register, destination, and whether it is a v
register. -/
inductive Dest
  | none
  | x (r : Reg) (val : Dword)
  | v (r : Reg) (val : VReg)
  | lease
  | drain
  | pop (b : Binding) (q : BitVec 4) (r : Reg) (wide : Bool)
  deriving DecidableEq, Repr

/-- Where an instruction stands: its address, and, when it is one a REPF frame repeats, the word it
executes in its iteration (03 R62). -/
structure Site where
  pc : Dword
  word : Option IWord
  deriving DecidableEq, Repr

/-- A class L instruction that has issued and whose result is not yet written (03 R58, 17 R323):
issue number, lookahead, place, destination and value, whether its result is outstanding (01 R21), flags
to set, whether it is a floating instruction (05 R89), and its fault, if it faulted. -/
structure Pending where
  seq : Nat
  la : Nat
  site : Site
  out : Bool
  dest : Dest
  flags : Flags
  fp : Bool
  fault : Option Trap
  deriving DecidableEq, Repr

/-- One of the two trap register sets (17 R317, R318, R321, R323), its frame slot (R322), and the places of the
faulting instruction and of the window instructions recorded for REDO (notes/assumptions/9.md). -/
structure TrapRegs where
  status : Dword
  tvec : Dword
  epc : Dword
  cause : Dword
  tval : Dword
  lacount : Dword
  xpc : Dword
  slot : Option Frame
  path : List Site
  deriving DecidableEq, Repr

/-- A command accepted into a matrix array's queue (13 R244 to R250). The descriptors are the ones kept
at issue; a scale keeper's command carries its peers and queue number. -/
inductive ArrayOp
  | mma (z : BitVec 3) (a b : BitVec 256)
  | zero (z : BitVec 3)
  | scale (a b : BitVec 256) (peers : List (BitVec 20)) (q : BitVec 4)
  deriving DecidableEq, Repr

/-- An array command with its issuer, its progress (13 R248): next row, chunk or group, and words of
the current group already sent to peers, whose word is `word`. `tile` is the tile register as it stood at
issue; `bfmt` the bank formats of the two operands at issue (13 R240); `sess` the lease session it was
issued in; `rel` the release its .acq waits for (11 R214). -/
structure ArrayCmd where
  hart : Nat
  launch : Nat
  lidx : Nat
  op : ArrayOp
  tile : Dword
  root : Dword
  user : Bool
  task : Bool
  bfmt : List Dword
  chunk : Nat
  row : Nat
  sent : Nat
  word : Option (Dword × Mask)
  sess : Option Nat
  rel : Option Dword
  deriving DecidableEq, Repr

/-- A lease session and its status (13 R236, R247, R248); `id` tells it from other sessions. -/
structure Lease where
  id : Nat
  flags : Flags
  iov : Bool
  mref : Bool
  satc : Nat
  susp : Option (ArrayCmd × Trap)
  deriving DecidableEq, Repr

/-- A copy channel of a hart (13 R257, R258, R264). `live` lists the identities outstanding, oldest
first, so MARK is its head or NEXT. -/
structure Channel where
  next : BitVec 32
  live : List (BitVec 32)
  stat : Dword
  armed : Option (BitVec 32)
  due : Bool
  deriving DecidableEq, Repr

/-- A deferred act of a task (15 R283). -/
inductive Deferred
  | spawn (desc : Dword)
  | depset (counter : BitVec 32) (count : BitVec 16) (desc : Dword)
  | depdec (counter : BitVec 32)
  deriving DecidableEq, Repr

/-- A reply to a commit request (15 R286, R288, R290). -/
inductive Reply
  | accept | abort | cancel | parked
  | fault (t : Trap)
  deriving DecidableEq, Repr

/-- The task copy a hart runs (15 R279 to R284, R303): registration, run of it, tag, output slot and
its size, deferred list, and RWC and CYCLE at the start. `waiting` is set from COMMIT's issue to the
first reply (R288), `reply` once the home has decided. -/
structure TaskCopy where
  reg : Nat
  run : Nat
  tag : BitVec 16
  out : Option (Dword × Nat)
  deferred : List Deferred
  startRwc : Dword
  startCycle : Nat
  waiting : Bool
  reply : Option Reply
  deriving DecidableEq, Repr

/-- A queued asynchronous event (17 R327). `resume` names the launch, registration and run to
re-release when the handler of a parked commit's FAULT returns (15 R310). -/
structure Event where
  trap : Trap
  resume : Option (Nat × Nat × Nat)
  deriving DecidableEq, Repr

/-- A 64-byte block in a hart's instruction buffer with the fault or error met in each of its sectors when
it was fetched (01 R24, 17 R330, R331). -/
structure FetchBlock where
  addr : Dword
  root : Dword
  launch : Nat
  bytes : VReg
  faultLo : Option Cause
  faultHi : Option Cause
  deriving DecidableEq, Repr

/-- A fetch request of a hart for a block its buffer does not hold (01 R24, R401): block, translation
context, and, while ALIGN holds the request, the cycle at which the hold ends (R25, 07 R142). -/
structure FetchReq where
  addr : Dword
  root : Dword
  launch : Nat
  hold : Option Nat
  deriving DecidableEq, Repr

/-- A hart: the state of 03 R33 with its system registers, windows, channels and launch context. `inv` is an XLINV
whose removal is in progress (17 R348): its address, none for every entry, whether it is stage 2, and whether the
removal is done. `reserved` is the launch, registration and run of the backup that is to start on the hart (15 R307),
`since` the cycle at which its resident context became resident (17 R334), `slice` the SLICE of the rotation round in
progress (19 R365), `tasks` says that the hart last served tasks, whose channels and counts go on to the next (15
R279), `era` tells a use of the hart's channels from other uses, `fromEvents` holds, for each handler entered and not
returned from, what its event is to release again (15 R310), `waitRoute` the unreachable package its current access
waits for (21 R391), `tickMark` its count of issued instructions at the last energy increment (19 R369), `microjoule`
the energy charged to its context that is yet no whole mJ (19 R372). `near` marks an access whose data came from the
own slice, until its class L instruction has issued (01 R21), `fetch` is the fetch request in progress, `keepBlock`
the block the last BRC asked to keep, until it has been kept (07 R137), `bAt` the number of instructions issued when
each b register was last written and `redirect` the cycle in which the instruction after a transfer is delivered
(R136), `replayWord` the frame word that a return executes again (17 R324), `parked` the array commands that wait with
a saved or suspended context (13 R266). -/
structure Hart where
  x : Vector Dword 32
  shadow : Vector Dword 8
  v : Vector VReg 32
  m : Vector Dword 8
  b : Vector Dword 4
  bAt : Vector Nat 4
  redirect : Nat
  q : Vector Binding 16
  z : Vector (Option Tile) 8
  pc : Dword
  mode : Mode
  run : RunState
  frm : BitVec 3
  fflags : Flags
  vt : Dword
  hla : Lsid
  rwc : Dword
  uivec : Dword
  uien : Dword
  uicause : Dword
  uiepc : Dword
  uih : Bool
  ovfptr : Dword
  spillbase : Dword
  spillsize : Dword
  s1base : Dword
  sup : TrapRegs
  mach : TrapRegs
  sien : BitVec 4
  soft : Bool
  stimecmp : Dword
  frame : Option Frame
  iword : IWord
  pend : List Pending
  issued : Nat
  hist : List Site
  replay : List (Site × Bool)
  replayEnd : Option Dword
  replayWord : Option IWord
  near : Bool
  fetch : Option FetchReq
  keepBlock : Option Dword
  ibuf : List FetchBlock
  alignHold : Option Nat
  lease : Option Lease
  parked : List ArrayCmd
  chans : Vector Channel 8
  macRem : Nat
  task : Option TaskCopy
  launch : Option Nat
  lidx : Nat
  initRun : Bool
  codeBase : Dword
  codeSize : Nat
  events : List Event
  commandFaults : List Event
  fromEvents : List (Option (Nat × Nat × Nat))
  cancelled : Option (Nat × Nat × Nat)
  pendingTrap : Option (Trap × Dword × List Site)
  waitSince : Option Nat
  waitStamp : Option Dword
  sendWait : Option (Nat × BitVec 4)
  inv : Option (Option Dword × Bool × Bool)
  waitRoute : Option Nat
  stall : Option Nat
  reserved : Option (Nat × Nat × Nat)
  since : Nat
  slice : Nat
  tasks : Bool
  era : Nat
  tickMark : Nat
  microjoule : Nat
  perf : Vector Dword 16
  deriving DecidableEq, Repr

/-- A sapwood log record (11 R190) with the PC of its store, and what the core keeps to send it: its place in the log
region (R185; notes/assumptions/58.md), the address as issued, the translation root and mode of the store, whether it
has been applied, and whether the log's copy holds an error found after it was sent (R208). `lidx` is the launch hart
index of its owner (17 R334). -/
structure Record where
  rid : Nat
  slot : Nat
  addr : Dword
  mask : BitVec 32
  data : Sector
  tag : BitVec 16
  lsid : Lsid
  hart : BitVec 2
  lidx : Nat
  task : Bool
  stk : Bool
  pubd : Bool
  resub : Bool
  applied : Bool
  bad : Bool
  pc : Dword
  root : Dword
  user : Bool
  deriving DecidableEq, Repr

/-- A record lost to an error in the log, not yet reported (11 R208): its hart and launch hart index, its
sector address, and the PC of its store. -/
structure LogLoss where
  hart : BitVec 2
  lidx : Nat
  addr : Dword
  pc : Dword
  deriving DecidableEq, Repr

/-- An entry of an acquired set (11 R198): a pair, or a region with its scope code and anchor. -/
inductive Acquired
  | pair (core : Nat) (stamp : Dword)
  | region (scope : Nat) (anchor : Nat)
  | homeRegion (scope : Nat) (key : Nat)
  deriving DecidableEq, Repr

/-- A release (11 R195): its stamp, the identity of the last record of its tail, the acquired set at
its formation, and, once it has completed, the sectors its log has written up to its tail (R197). -/
structure Release where
  stamp : Dword
  bound : Nat
  set : List (Acquired × Nat)
  sectors : List Nat
  deriving DecidableEq, Repr

/-- A sector held in a view buffer and the cycle it was filled (11 R202). -/
structure ViewEntry where
  key : Nat
  data : Sector
  filled : Nat
  deriving DecidableEq, Repr

/-- A queue message: 8 or 64 bytes and the sender's label (13 R229, R233). `error` marks an
uncorrectable error in it; `keeper` an MSCALE word (R249), whose command ran in the session `sess`; `launch` and `lidx`
are the launch and the launch hart index of its sender (R231, 17 R334). -/
structure Message where
  data : VReg
  wide : Bool
  label : Mask
  hart : Nat
  qreg : BitVec 4
  error : Bool
  keeper : Bool
  sess : Option Nat
  launch : Option Nat
  lidx : Nat
  deriving DecidableEq, Repr

/-- A multicast group at its sender (13 R260). -/
structure Group where
  smbox : Nat
  members : List Nat
  rounds : List Nat
  freed : List Nat
  counted : Nat
  deriving DecidableEq, Repr

/-- The context that issued a command to an engine: its hart, launch and launch hart index, and the era of its hart's
channels (13 R257, 17 R334). -/
structure ContextRef where
  hart : Nat
  launch : Option Nat
  lidx : Nat
  era : Nat
  deriving DecidableEq, Repr

/-- How issue stands at a core (01 R22, R23): with the issuing hart, past it since it stopped being ready,
or past it by SPIN. -/
inductive Pass
  | keep | stopped | spun
  deriving DecidableEq, Repr

/-- A core: the state shared by its four harts (01 R7). `owner` is the launch last placed on it, `zeroing` the bank
being zeroed, the cycle in which that began and the hart whose write it is (11 R220), `frees` the BFREE messages on
their way to its counters (13 R260), `lasting` and `laneLasting` whether the core or a vector lane of it is lasting
(19 R375). -/
structure Core where
  log : List Record
  nextRid : Nat
  held : Option (Nat × Trap)
  logerr : List LogLoss
  logbase : Dword
  logsize : Dword
  lclk : Nat
  acqMax : Nat
  forming : List Release
  done : List Release
  written : List Nat
  acquired : List (Acquired × Nat)
  view : List ViewEntry
  win : Vector Dword 4
  qlimit : Dword
  bfmt : Vector Dword 12
  blbl : Vector Dword 12
  queues : Vector (List Message) 16
  senders : Vector (List Message) 16
  mailbox : Vector (BitVec 32) 8
  groups : List Group
  frees : List (Nat × ContextRef)
  issuer : BitVec 2
  issueRun : Nat
  pass : Pass
  zeroing : Option (BitVec 4 × Nat × Nat)
  lasting : Bool
  laneLasting : Bool
  nextTag : Nat
  owner : Option Nat
  deriving DecidableEq, Repr

/-- A grove's shared state (01 R7): GFFLAGS and flags on their way to it (05 R90), the matrix array (13 R236, R246),
the ready queue of (launch, registration) pairs (15 R299), the energy counter with the contexts and cycles of leases,
and of contexts that left their harts, that ended since its last increment (19 R369), the position the fetch port
served last (01 R24), and whether the array is lasting (19 R375). -/
structure Grove where
  gfflags : BitVec 13
  flight : List (BitVec 13 × Nat)
  holder : Option Nat
  periodStart : Nat
  periodCmds : Nat
  waiters : List Nat
  lastHolder : Nat
  queue : List ArrayCmd
  running : Bool
  ready : List (Nat × Nat)
  energy : Nat
  lent : List (ContextRef × Nat)
  port : Nat
  lasting : Bool
  deriving DecidableEq, Repr

/-- A leaf held in a cache slice of a die: slice, partition, root, page base, page size bits, entry
(17 R341, R342). -/
structure HeldLeaf where
  slice : Nat
  part : Nat
  root : Dword
  page : Nat
  bits : Nat
  leaf : Dword
  deriving DecidableEq, Repr

/-- A die's shared state (01 R7): stacked die (R19), HBM (21 R385), groves in service (01 R15), leaves
held by its cache slices (17 R342), the die pool of (grove, launch, registration) (15 R270), the issue gate
(21 R392), lasting SRAM rows, the corrected errors of SRAM rows with their cycles, lasting HBM channels, spare
cores and spare groves (19 R375, 01 R14), the cycle of the last Canopy check (15 R305), and the dependency counters
allocated to launches (15 R275, R295). -/
structure Die where
  stacked : Bool
  hbm : Bool
  groves : BitVec 32
  held1 : List HeldLeaf
  held2 : List HeldLeaf
  pool : List (Nat × Nat × Nat)
  gated : Bool
  lasting : List Nat
  rowErrs : List (Nat × Nat)
  channels : List Nat
  spares : Nat
  spareGroves : Nat
  checked : Nat
  counters : List (Nat × Nat)
  deriving DecidableEq, Repr

/-- An error-queue entry (19 R381): type, cause or level, partition, address, detail, CYCLE, count. -/
structure ErrEntry where
  type : Nat
  code : Nat
  count : Nat
  part : Nat
  addr : Dword
  detail : Dword
  cycle : Dword
  deriving DecidableEq, Repr

/-- A granted partition (19 R363 to R365, 17 R320, 11 R216). -/
structure Partition where
  handle : Nat
  tenant : Nat
  labels : List (Nat × Mask)
  s2root : Option Nat
  s1base : Dword
  slice : Nat
  stvec : Option Dword
  notes : List Dword
  errors : List ErrEntry
  ovf : Bool
  rtload : Option (Cmd × Nat)
  deriving DecidableEq, Repr

/-- An entry of a launch's tile table with its home state (15 R268 to R270). -/
structure TileState where
  base : Dword
  size : Nat
  slots : Nat
  ro : Bool
  stride : Nat
  home : Nat
  version : Nat
  ts : Nat
  accepted : List Nat
  deriving DecidableEq, Repr

/-- What a registration waits for (15 R278, R286, R291, R310); `kept` is one whose copies a pre-emption
cancelled (R311). -/
inductive RegState
  | queued | running | won | ended | faulted | kept
  deriving DecidableEq, Repr

/-- A copy of a registration and where its commit stands (15 R285 to R288). -/
inductive CopyState
  | running | committing | parked | cancelled
  deriving DecidableEq, Repr

/-- One copy of a registered task. `work` is the work it did, once it has issued COMMIT (15 R303). -/
structure RunCopy where
  hart : Nat
  tag : BitVec 16
  run : Nat
  backup : Bool
  state : CopyState
  deferred : List Deferred
  startCycle : Nat
  work : Nat
  deriving DecidableEq, Repr

/-- A registration (15 R278, R284, R286, R292): `inAddr` are the addresses of the pinned slots of its
inputs, `prio` the class it is queued under (R301), `tokenWait` the cycle since which its start waits for a
token (19 R366), `lost` the work of copies of this run that were cancelled while no copy had won (19 R372),
`avoid` the core on which an error of 19 R377 last hit a copy, `assisted` says that its backup runs on an assist
partition (15 R306). -/
structure TaskReg where
  id : Nat
  descAddr : Dword
  desc : BitVec 512
  succ : List (BitVec 32)
  base : Nat
  run : Nat
  state : RegState
  pins : List (Nat × Nat)
  tpins : List (Nat × Nat)
  inAddr : List Dword
  prio : Nat
  budget : Nat
  logfulls : Nat
  die : Nat
  copies : List RunCopy
  logfull : Bool
  tokenWait : Option Nat
  lost : List Nat
  avoid : Option Nat
  assisted : Bool
  deriving DecidableEq, Repr

/-- A dependency counter (15 R295); the key is its counter identity. -/
structure Counter where
  key : Nat
  count : Nat
  armed : Bool
  desc : Dword
  deriving DecidableEq, Repr

/-- A class-table entry and its histogram (15 R272, R304). -/
structure TaskClass where
  quant : Nat
  scope : Nat
  minage : Nat
  expwork : Nat
  hist : List Nat
  deriving DecidableEq, Repr

/-- A unit on its way to a counter table or scheduler (15 R289, R296, R297): the deferred act, the die, the
number and the cycle of the accepting home's accept, the identity of the accepting task and its hart. -/
structure TaskUnit where
  act : Deferred
  die : Nat
  home : Nat
  cycle : Nat
  who : Nat
  hart : Option Nat
  deriving DecidableEq, Repr

/-- Life of a launch (19 R357, R360). `stopping` is a launch being stopped for PREEMPT, waiting for its
last copies (15 R311); `surviving` one that outlived a thermal trip and waits to be replayed (21 R392). -/
inductive LaunchState
  | queued | running | stopping | preempted | surviving
  deriving DecidableEq, Repr

/-- A launch (01 R26 to R30, 15 R268 to R275, 17 R332 to R335, 19 R369, R382, R383). `contexts` are the saved contexts
that are not resident, by the hardware hart they are assigned to; `saved` the cores, and `bytes` the slices of a
pre-empted launch; `saveArea` is its save area: the context block of each launch hart index saved there (R335);
`block` is the launch block as LAUNCH read it; `stopAt` the cycle at which a stop's 20 µs end (15 R311); `place` the
placement chosen for each slice capacity (11 R403); `waitsAt` the grove of each ready task of a pre-empted task
launch, whether it was in the die's pool, and the registration (15 R311); `orphans` the registrations, with their
runs, whose FAULT events can no longer be delivered (15 R310). -/
structure Launch where
  key : Nat
  lid : Nat
  part : Nat
  cmd : Cmd
  state : LaunchState
  isTask : Bool
  cores : Bool
  replay : Bool
  prio : Nat
  count : Nat
  codeBase : Dword
  codeSize : Nat
  entry : Nat
  param : Dword
  spill : Nat
  logPages : Nat
  lbase : Lsid
  energy : Nat
  charged : Nat
  spent : Bool
  started : Nat
  halted : List Nat
  contexts : List (Nat × Hart)
  saveArea : List (Nat × List Byte)
  saved : List (Nat × Core)
  bytes : List Host.Cell
  place : List (Nat × Placement)
  waitsAt : List (Nat × Bool × Nat)
  root : Dword
  budget : Nat
  ctrn : Nat
  maxout : Nat
  classes : List TaskClass
  tiles : List TileState
  counters : List Counter
  regs : List TaskReg
  nextReg : Nat
  units : List TaskUnit
  releases : List (Dword × Nat × Option Nat)
  noneAccepted : List (Nat × Nat)
  assists : List Nat
  stopCmd : Option Cmd
  stopAt : Nat
  status : Option (Nat × Dword)
  replays : Nat
  shadowed : List (Nat × Nat × List Host.Cell)
  shadowing : Bool
  block : List Byte
  kept : List Byte
  orphans : List (Nat × Nat)
  deriving DecidableEq, Repr

/-- The shadow of a queue control block (19 R353, R354). -/
structure Queue where
  base : Dword
  entries : Nat
  head : Nat
  tail : Nat
  deriving DecidableEq, Repr

/-- A host function: 0 the PF, v the VF v (19 R349 to R361). `vectors` is its MSI-X table by doubleword (R361,
21 R386; notes/assumptions/64.md), `notes` the notifies that wait for EN (R371). -/
structure Function where
  num : Nat
  ed25519 : List Byte
  mldsa : List Byte
  en : Bool
  rdy : Bool
  fatal : Bool
  tdisp : Tdisp
  qcbaddr : Dword
  queues : List Queue
  cqbase : Dword
  cqent : Nat
  eqbase : Dword
  eqent : Nat
  cqtail : Nat
  eqtail : Nat
  phase : Bool
  vec : Nat
  weight : Nat
  waiting : List (BitVec 128)
  lastErr : Option ErrEntry
  errs : Nat
  vectors : List (Nat × Dword)
  notes : List (Nat × Dword)
  resetting : Bool
  deriving DecidableEq, Repr

/-- A Firebreak policy (11 R223). -/
structure Policy where
  index : Nat
  set : Mask
  dest : BitVec 32
  serial : Dword
  deriving DecidableEq, Repr

/-- A tenant's budgets and counters (19 R366 to R368, R372), and the errors found in its partitions by level
(R360). -/
structure Tenant where
  num : Nat
  refill : Nat
  hedge : Nat
  weight : Nat
  nextRefill : Nat
  nextHedge : Nat
  nextWeight : Nat
  balance : Nat
  debt : Nat
  hedgeLeft : Nat
  chargedNow : Bool
  chargedLast : Bool
  counters : Vector Dword 16
  corrected : List Nat
  uncorrected : List Nat
  deriving DecidableEq, Repr

/-- One write unit of a copy command (13 R254, R256): destination as issued, sector mask and data,
label, the receiver's index for COPYM, and why the unit is dropped, if its source could not be read. -/
structure CopyUnit where
  addr : Dword
  mask : BitVec 32
  data : Sector
  label : Mask
  recv : Nat
  fail : Option Cause
  deriving DecidableEq, Repr

/-- Which copy instruction issued a command (13 R263). -/
inductive CopyKind
  | copy | multicast | reduce
  deriving DecidableEq, Repr

/-- A copy command in flight (13 R252 to R261): issuer, channel and identity, the descriptor kept at issue, the label
of the issuer, the era of its hart's channels, bytes of the source already sent, units sent and not applied. `task` is
the registration and run of the issuing task, `rel` the release its .acq waits for, `parked` the cycle since which it
waits for tokens, `paid` says that the next segment has been charged (19 R366), `image` holds the source bytes at
issue where source and destination overlap, `arrived` its place in the order of arrival at the streamer of its next
segment (R262). -/
structure CopyCmd where
  key : Nat
  hart : Nat
  launch : Option Nat
  lidx : Nat
  era : Nat
  part : Nat
  ch : Nat
  id : BitVec 32
  kind : CopyKind
  desc : BitVec 512
  recvs : List (BitVec 20)
  label : Mask
  root : Dword
  user : Bool
  prio : Nat
  task : Option (Nat × Nat)
  rel : Option Dword
  sfmt : Nat
  dfmt : Nat
  soff : Nat
  doff : Nat
  pos : Nat
  units : List CopyUnit
  held : Option Trap
  reported : Bool
  parked : Option Nat
  paid : Bool
  mboxDone : Bool
  image : List (Option Byte)
  arrived : Nat
  deriving DecidableEq, Repr

/-- A release tag of a location (11 R205): the location's key, the tag, and the cycle attached. -/
structure ReleaseTag where
  key : Nat
  tag : Acquired
  attached : Nat
  deriving DecidableEq, Repr

/-- An entry of an error log (19 R380). -/
structure LogEntry where
  level : Nat
  kind : Nat
  unit : Nat
  place : Nat
  addr : Nat
  tenant : Nat
  cycle : Nat
  deriving DecidableEq, Repr

/-- The role and state of a Brynlet Link port (21 R388, R389, R391). -/
structure Port where
  role : Nat
  peerPkg : Nat
  peerPort : Nat
  up : Bool
  resent : Nat
  deriving DecidableEq, Repr

/-- Where the ROM and Understory stand (21 R394, R398). -/
inductive BootState
  | inReset | recovery | up
  deriving DecidableEq, Repr

/-- The sideband inputs whose level the package reads at any time (21 R393). -/
inductive Pin
  | flashWp | pwrgd
  deriving DecidableEq, Repr

/-- A change of a sideband input, still to come: the pin, its new level, and its cycle (21 R393;
notes/assumptions/97.md). -/
structure PinChange where
  pin : Pin
  high : Bool
  due : Nat
  deriving DecidableEq, Repr

/-- Understory, Firebreak, the I/O die and the attachment: the package's own state (01 R7, 19, 21). `flashWp` says
that FLASH_WP# is low, `straps` is BOOTSRC as sampled at the last release of PERST#, none while it is low (21 R393),
`stagedKind` the kind of the staged object, `recImage` a recovery image being written (21 R397, R398). `asks` are the
stage-2 entries that an access found invalid: partition, 64 KiB page of the IA, and whether Understory has found it
unmapped (17 R339); `lostAt` the cycle since which each unreachable package has been so (21 R391), `judged` says that
admission to the domain has been decided since the package reset (21 R390). -/
structure Package where
  boot : BootState
  pkg : Nat
  domsz : Nat
  parts : List Partition
  launches : List Launch
  nextLaunch : Nat
  functions : List Function
  policies : List Policy
  tenants : List Tenant
  period : Nat
  copies : List CopyCmd
  nextCopy : Nat
  tags : List ReleaseTag
  evicted : List (Nat × Acquired × Nat)
  marked : List Nat
  replicas : List (Nat × Nat × List Nat)
  scrub : List Nat
  errlog : List (List LogEntry)
  errlogged : List Nat
  errlost : List Nat
  corrected : List Nat
  uncorrected : List Nat
  msix : List (Nat × Nat)
  version : Dword
  image : List Byte
  flashImage : List Byte
  flashConfig : List Byte
  config : List Byte
  staging : List (Nat × Byte)
  staged : Nat
  stagedKind : Nat
  commit : Option Cmd
  journalOpen : Bool
  flashWp : Bool
  pwrgd : Bool
  straps : Option (BitVec 2)
  pins : List PinChange
  fusedSvn : Nat
  resynced : Bool
  recaddr : Dword
  reclen : Dword
  recErr : Bool
  recBusy : Bool
  recImage : Option (List Byte)
  spdm : Nat
  spdmTranscript : List Byte
  doe : List Byte
  ports : List Port
  routes : List (Nat × List Nat)
  domain : Dword
  unreachable : List Nat
  lostAt : List (Nat × Nat)
  modules : Nat
  cmds : List Cmd
  tripped : Bool
  substituting : List Nat
  asks : List (Nat × Nat × Bool)
  judged : Bool
  deriving DecidableEq, Repr

/-- What a step in progress has met that it must wait for: an unreachable package (21 R391), or Understory's
service of an invalid stage-2 entry, named by partition and 64 KiB page of the IA (17 R339). -/
inductive Away
  | route (pkg : Nat)
  | service (handle page : Nat)
  deriving DecidableEq, Repr

/-- A write of host memory by the host or another agent, still to come (11 R400): the function whose
memory it is, its address, its bytes, which lie in one aligned 16-byte granule, and its cycle. -/
structure HostWrite where
  fn : Nat
  addr : Nat
  bytes : List Byte
  due : Nat
  deriving DecidableEq, Repr

/-- The state of the model: the acting hart and its core, the other units, the package, memory, time,
the writes that host memory is to take from others, and the model's own fields `tick`, `work`, `agenda`,
`turns` (notes/assumptions/4.md, 6.md, 11.md) and `away` (notes/assumptions/40.md). -/
structure State where
  hgid : Nat
  hart : Hart
  core : Core
  harts : List (Nat × Hart)
  cores : List (Nat × Core)
  groves : List (Nat × Grove)
  dies : List (Nat × Die)
  pk : Package
  mem : List Host.Cell
  cycle : Nat
  tick : Nat
  work : Nat
  agenda : List Instr
  turns : List Nat
  away : Option Away
  hostWrites : List HostWrite
  deriving DecidableEq, Repr

/-- A trap register set at hart start (17 R317, R318, R321). -/
def TrapRegs.fresh : TrapRegs :=
  { status := 0, tvec := 0, epc := 0, cause := 0, tval := 0, lacount := 0, xpc := 0, slot := none,
    path := [] }

/-- A copy channel at hart start (13 R257, R264). -/
def Channel.fresh : Channel := { next := 0, live := [], stat := 0, armed := none, due := false }

/-- A hart with no launch. Registers hold the values of R28 and of the Reset columns; the spill area is
the one R403 gives hart h at a partition grant (notes/assumptions/1.md). -/
def Hart.fresh (h : Nat) : Hart :=
  { x := Vector.replicate 32 0, shadow := Vector.replicate 8 0, v := Vector.replicate 32 0,
    m := Vector.replicate 8 0, b := Vector.replicate 4 0,
    bAt := Vector.replicate 4 0, redirect := 0, q := Vector.replicate 16 .none,
    z := Vector.replicate 8 none, pc := 0, mode := .user, run := .unloaded, frm := 0, fflags := 0,
    vt := 0, hla := 0, rwc := 0, uivec := 0, uien := 0, uicause := 0, uiepc := 0, uih := false,
    ovfptr := 0, spillbase := 0x1000 + 0x1000 * BitVec.ofNat 64 (h % 4), spillsize := 4096,
    s1base := 0, sup := TrapRegs.fresh, mach := TrapRegs.fresh, sien := 0, soft := false,
    stimecmp := BitVec.allOnes 64, frame := none, iword := 0, pend := [], issued := 0, hist := [],
    replay := [], replayEnd := none, replayWord := none, near := false, fetch := none,
    keepBlock := none, ibuf := [], alignHold := none, lease := none, parked := [],
    chans := Vector.replicate 8 Channel.fresh, macRem := 0, task := none, launch := none, lidx := 0,
    initRun := false, codeBase := 0, codeSize := 0, events := [], commandFaults := [],
    fromEvents := [], cancelled := none, pendingTrap := none, waitSince := none, waitStamp := none,
    sendWait := none, inv := none, waitRoute := none, stall := none, reserved := none,
    since := 0, slice := 1000, tasks := false, era := 0, tickMark := 0, microjoule := 0, perf := Vector.replicate 16 0 }

/-- A core after package reset: LCLK 0 (11 R196), windows, formats, labels and QLIMIT as at a grant
(R211, R220, 13 R232, R240), the log where R403 puts it at a grant (notes/assumptions/1.md). -/
def Core.fresh : Core :=
  { log := [], nextRid := 0, held := none, logerr := [], logbase := 0x54000, logsize := 0xC000,
    lclk := 0, acqMax := 0, forming := [], done := [], written := [], acquired := [], view := [],
    win := Vector.replicate 4 0, qlimit := 0x100000, bfmt := Vector.replicate 12 0,
    blbl := Vector.replicate 12 0, queues := Vector.replicate 16 [],
    senders := Vector.replicate 16 [], mailbox := Vector.replicate 8 0, groups := [], frees := [],
    issuer := 0, issueRun := 0, pass := .keep, zeroing := none, lasting := false, laneLasting := false,
    nextTag := 1, owner := none }

/-- A grove after package reset. -/
def Grove.fresh : Grove :=
  { gfflags := 0, flight := [], holder := none, periodStart := 0, periodCmds := 0, waiters := [],
    lastHolder := 0, queue := [], running := false, ready := [], energy := 0, lent := [], port := 15,
    lasting := false }

/-- A die with nothing fused off (01 R14, R19, 21 R385; notes/assumptions/1.md). -/
def Die.fresh : Die :=
  { stacked := true, hbm := true, groves := BitVec.allOnes 32, held1 := [], held2 := [], pool := [],
    gated := false, lasting := [], rowErrs := [], channels := [], spares := 0, spareGroves := 0, checked := 0,
    counters := [] }

/-- A function that no VF_CREATE has made, with the Reset column of 19 R352. -/
def Function.fresh (n : Nat) : Function :=
  { num := n, ed25519 := [], mldsa := [], en := false, rdy := false, fatal := false,
    tdisp := .unlocked, qcbaddr := 0, queues := [], cqbase := 0, cqent := 0, eqbase := 0, eqent := 0,
    cqtail := 0, eqtail := 0, phase := true, vec := 0, weight := 8, waiting := [], lastErr := none,
    errs := 0, vectors := [], notes := [], resetting := false }

/-- A tenant before any BUDGET_SET: WEIGHT 8 (19 R368), not metered, no backups
(notes/assumptions/1.md). -/
def Tenant.fresh (n : Nat) : Tenant :=
  { num := n, refill := 0, hedge := 0, weight := 8, nextRefill := 0, nextHedge := 0, nextWeight := 8,
    balance := 0, debt := 0, hedgeLeft := 0, chargedNow := false, chargedLast := false,
    counters := Vector.replicate 16 0, corrected := [0, 0, 0, 0, 0], uncorrected := [0, 0, 0, 0, 0] }

/-- A port before admission (21 R390). -/
def Port.fresh : Port := { role := 0, peerPkg := 0, peerPort := 0, up := false, resent := 0 }

/-- The package held in reset: nothing booted, package number 0 (01 R13), scrub intervals at their
defaults (19 R379), every list empty (notes/assumptions/1.md). -/
def Package.reset : Package :=
  { boot := .inReset, pkg := 0, domsz := 0, parts := [], launches := [], nextLaunch := 1,
    functions := [Function.fresh 0], policies := [], tenants := [], period := 0, copies := [],
    nextCopy := 1, tags := [], evicted := [], marked := [], replicas := [],
    scrub := [100, 100, 200, 60000, 10], errlog := [[], [], [], [], []], errlogged := [0, 0, 0, 0, 0],
    errlost := [0, 0, 0, 0, 0],
    corrected := [0, 0, 0, 0, 0], uncorrected := [0, 0, 0, 0, 0], msix := [], version := 0,
    image := [], flashImage := [], flashConfig := [], config := [], staging := [], staged := 0, stagedKind := 0,
    commit := none, journalOpen := false, flashWp := false, pwrgd := true, straps := none, pins := [], fusedSvn := 0, resynced := false,
    recaddr := 0, reclen := 0, recErr := false, recBusy := false, recImage := none, spdm := 0, spdmTranscript := [], doe := [],
    ports := List.replicate 18 Port.fresh, routes := [], domain := 0, unreachable := [], lostAt := [],
    modules := 0, cmds := [], tripped := false, substituting := [], asks := [], judged := false }

/-- The machine right after package reset: no hart is loaded, CYCLE is 0 (03 R45). -/
def State.reset : State :=
  { hgid := 0, hart := Hart.fresh 0, core := Core.fresh, harts := [], cores := [], groves := [],
    dies := [], pk := Package.reset, mem := [], cycle := 0, tick := 0, work := 0, agenda := [],
    turns := [], away := none, hostWrites := [] }

end Sys2Proof.Machine
end

