-- ==== Sys2Proof/Machine/Float.lean ====
section
/-!
DEFINITION. Floating-point values and their arithmetic (05 R78 to R94): a value is decoded to an exact
sign, significand and power of two, every operation is exact, and one rounding function delivers the
result and its flags.
-/

namespace Sys2Proof.Machine

/-- Rounding modes (05 R85). -/
inductive RMode
  | rne | rdn | rup | rtz | rmm
  deriving DecidableEq, Repr

/-- The mode of a code 0 to 4 (03 R54). Codes 5 to 7 never reach here. -/
def RMode.ofCode : Nat → RMode
  | 1 => .rdn
  | 2 => .rup
  | 3 => .rtz
  | 4 => .rmm
  | _ => .rne

/-- How a type spends its top exponent (05 R78). -/
inductive FKind
  | ieee | e4m3 | e2m1
  deriving DecidableEq, Repr

/-- A floating-point type: width, exponent and fraction bits, bias (05 R78). -/
structure Fmt where
  w : Nat
  e : Nat
  f : Nat
  bias : Nat
  kind : FKind
  deriving DecidableEq, Repr

def Fmt.f64 : Fmt := ⟨64, 11, 52, 1023, .ieee⟩
def Fmt.f32 : Fmt := ⟨32, 8, 23, 127, .ieee⟩
def Fmt.f16 : Fmt := ⟨16, 5, 10, 15, .ieee⟩
def Fmt.b16 : Fmt := ⟨16, 8, 7, 127, .ieee⟩
def Fmt.f8e5 : Fmt := ⟨8, 5, 2, 15, .ieee⟩
def Fmt.f8e4 : Fmt := ⟨8, 4, 3, 7, .e4m3⟩
def Fmt.e2m1 : Fmt := ⟨4, 2, 1, 1, .e2m1⟩

/-- The type of an element code 8 to 13 (03 R65). -/
def Fmt.ofElem : Nat → Fmt
  | 8 => .f16
  | 9 => .b16
  | 10 => .f32
  | 11 => .f64
  | 12 => .f8e4
  | _ => .f8e5

/-- The type of a ty field (03 R54). -/
def Fmt.ofTy (t : BitVec 2) : Fmt :=
  match t.toNat with
  | 0 => .f32
  | 1 => .f64
  | 2 => .f16
  | _ => .b16

/-- A decoded value: NaN (signalling or not), infinity, or (−1)^neg × m × 2^e. -/
inductive FVal
  | nan (signalling : Bool)
  | inf (neg : Bool)
  | fin (neg : Bool) (m : Nat) (e : Int)
  deriving DecidableEq, Repr

/-- Flag bits of FFLAGS (03 R42). -/
def flagNV : Flags := 1
def flagDZ : Flags := 2
def flagOF : Flags := 4
def flagUF : Flags := 8
def flagNX : Flags := 16

/-- The exponent of the least significant bit of a subnormal. -/
def Fmt.emin (t : Fmt) : Int := 1 - t.bias - t.f

/-- The magnitude code of the largest finite value (05 R78). -/
def Fmt.maxCode (t : Fmt) : Nat :=
  match t.kind with
  | .ieee => (2 ^ t.e - 1) * 2 ^ t.f - 1
  | .e4m3 => 0x7E
  | .e2m1 => 7

/-- The magnitude code of infinity, for types that have one. -/
def Fmt.infCode (t : Fmt) : Nat := (2 ^ t.e - 1) * 2 ^ t.f

/-- The canonical NaN (05 R82); E2M1 has none and takes +0 (R91). -/
def Fmt.nan (t : Fmt) : Nat :=
  match t.kind with
  | .ieee => (2 ^ t.e - 1) * 2 ^ t.f + 2 ^ (t.f - 1)
  | .e4m3 => 0x7F
  | .e2m1 => 0

/-- A code with a sign. -/
def Fmt.signed (t : Fmt) (neg : Bool) (code : Nat) : Nat := if neg then 2 ^ (t.w - 1) + code else code

/-- The sign bit of a code. -/
def Fmt.neg (t : Fmt) (v : Nat) : Bool := v / 2 ^ (t.w - 1) % 2 = 1

/-- The value of a code (05 R78, R83). -/
def Fmt.val (t : Fmt) (v : Nat) : FVal :=
  let mag := v % 2 ^ (t.w - 1)
  let ex := mag / 2 ^ t.f
  let fr := mag % 2 ^ t.f
  let neg := t.neg v
  if mag > t.maxCode then
    if t.kind = .ieee ∧ fr = 0 then .inf neg
    else .nan (decide (t.w ≠ 8 ∧ fr < 2 ^ (t.f - 1)))
  else if ex = 0 then .fin neg fr t.emin
  else .fin neg (2 ^ t.f + fr) (t.emin + (ex - 1))

/-- Number of bits of a significand. -/
def bitLen (m : Nat) : Nat := if m = 0 then 0 else Nat.log2 m + 1

/-- Whether a remainder rounds the magnitude up (05 R85): odd quotient, remainder against half,
inexact. -/
def roundsUp (mode : RMode) (neg odd : Bool) (half : Ordering) (inexact : Bool) : Bool :=
  match mode with
  | .rne => half == .gt || (half == .eq && odd)
  | .rmm => half != .lt
  | .rtz => false
  | .rdn => neg && inexact
  | .rup => !neg && inexact

/-- The integer nearest (m + ε) × 2^e / 2^q by the mode, where ε lies strictly between 0 and 1 if
`sticky`, else is 0; and whether it is inexact. -/
def roundAt (mode : RMode) (neg : Bool) (m : Nat) (e q : Int) (sticky : Bool) : Nat × Bool :=
  if q ≤ e then (m * 2 ^ (e - q).toNat, sticky)
  else
    let k := (q - e).toNat
    let n := m / 2 ^ k
    let r := m % 2 ^ k
    let inexact := r != 0 || sticky
    let half :=
      if 2 * r < 2 ^ k then Ordering.lt
      else if 2 * r = 2 ^ k ∧ !sticky then .eq else .gt
    (if roundsUp mode neg (n % 2 = 1) half inexact then n + 1 else n, inexact)

/-- The magnitude code of a non-zero exact value rounded to a type as though it had no largest exponent,
with whether it is inexact and whether it is tiny (05 R85 to R87). -/
def roundCode (t : Fmt) (mode : RMode) (neg : Bool) (m : Nat) (e : Int) (sticky : Bool) :
    Nat × Bool × Bool :=
  let q0 := e + bitLen m - (t.f + 1)
  let q := if q0 < t.emin then t.emin else q0
  let (n, inexact) := roundAt mode neg m e q sticky
  let (n0, _) := roundAt mode neg m e q0 sticky
  let tiny := q0 + 1 < t.emin || (q0 < t.emin && (decide (q0 + 1 = t.emin) && decide (n0 < 2 ^ (t.f + 1))))
  ((q - t.emin).toNat * 2 ^ t.f + n, inexact, tiny)

/-- Overflow of a type that has infinities (05 R86). -/
def overflowCode (t : Fmt) (mode : RMode) (neg : Bool) : Nat :=
  match mode, neg with
  | .rtz, _ => t.maxCode
  | .rdn, false => t.maxCode
  | .rup, true => t.maxCode
  | _, _ => t.infCode

/-- The delivered result of an exact value and its flags (05 R85 to R88). A zero keeps its sign. -/
def deliver (t : Fmt) (mode : RMode) (neg : Bool) (m : Nat) (e : Int) (sticky : Bool) : Nat × Flags :=
  if m = 0 ∧ !sticky then (t.signed neg 0, 0)
  else
    let (code, inexact, tiny) := roundCode t mode neg m e sticky
    if code > t.maxCode then
      match t.kind with
      | .ieee => (t.signed neg (overflowCode t mode neg), flagOF ||| flagNX)
      | _ => (t.nan, flagNV)
    else
      (t.signed neg code,
        (if inexact then flagNX else 0) ||| (if tiny && inexact then flagUF else 0))

/-- The delivered result of an exact value in the saturating form (05 R91): one that overflows, judged
after rounding as R86 says (06_arithmetic_notes.md, the f8e4 table), is the largest finite value, with OF
and NX; the last result says so. -/
def deliverSat (t : Fmt) (mode : RMode) (neg : Bool) (m : Nat) (e : Int) : Nat × Flags × Bool :=
  if m ≠ 0 ∧ (roundCode t mode neg m e false).1 > t.maxCode then
    (t.signed neg t.maxCode, flagOF ||| flagNX, true)
  else
    let (c, f) := deliver t mode neg m e false
    (c, f, false)

/-- Flags of a NaN operand (05 R83). -/
def nanFlags : FVal → Flags
  | .nan true => flagNV
  | _ => 0

/-- Whether a value is a NaN. -/
def FVal.isNan : FVal → Bool
  | .nan _ => true
  | _ => false

/-- The opposite value. -/
def FVal.negate : FVal → FVal
  | .nan s => .nan s
  | .inf n => .inf !n
  | .fin n m e => .fin (!n) m e

/-- A term of an exact sum, as an integer multiple of 2^q. -/
def scaleTo (q : Int) (neg : Bool) (m : Nat) (e : Int) : Int :=
  let v : Int := (m * 2 ^ (e - q).toNat : Nat)
  if neg then -v else v

/-- The least exponent of a list of terms. -/
def minExp : List (Bool × Nat × Int) → Int
  | [] => 0
  | [(_, _, e)] => e
  | (_, _, e) :: l => min e (minExp l)

/-- The exact sum of terms: an integer and its exponent. -/
def sumTerms (l : List (Bool × Nat × Int)) : Int × Int :=
  let q := minExp l
  (l.foldl (fun acc (n, m, e) => acc + scaleTo q n m e) 0, q)

/-- The sign of an exact zero sum (05 R85, 09 R164). -/
def zeroSign (mode : RMode) (l : List (Bool × Nat × Int)) : Bool :=
  if l.all (fun t => t.1) then true
  else if l.all (fun t => !t.1) then false
  else decide (mode = .rdn)

/-- Round the exact sum of finite terms once. -/
def roundSum (t : Fmt) (mode : RMode) (l : List (Bool × Nat × Int)) : Nat × Flags :=
  let (v, q) := sumTerms l
  if v = 0 then (t.signed (zeroSign mode l) 0, 0)
  else deliver t mode (v < 0) v.natAbs q false

/-- The finite terms of a list of values. -/
def finTerms : List FVal → List (Bool × Nat × Int)
  | [] => []
  | .fin n m e :: l => (n, m, e) :: finTerms l
  | _ :: l => finTerms l

/-- The sum of values rounded once, with the invalid cases of 05 R83. `bad` marks an invalid product
among them. -/
def addVals (t : Fmt) (mode : RMode) (bad : Bool) (l : List FVal) : Nat × Flags :=
  let sig : Flags := if bad || l.any (fun v => v == .nan true) then flagNV else 0
  let pos := l.any (fun v => v == .inf false)
  let neg := l.any (fun v => v == .inf true)
  if bad || l.any FVal.isNan then (t.nan, sig)
  else if pos && neg then (t.nan, flagNV)
  else if pos then (t.signed false t.infCode, 0)
  else if neg then (t.signed true t.infCode, 0)
  else roundSum t mode (finTerms l)

/-- The exact product, and whether it is the invalid 0 × ∞ (05 R83). -/
def mulVals (a b : FVal) : FVal × Bool :=
  match a, b with
  | .nan s, .nan s' => (.nan (s || s'), false)
  | .nan s, _ => (.nan s, false)
  | _, .nan s => (.nan s, false)
  | .inf n, .inf n' => (.inf (n != n'), false)
  | .inf n, .fin n' m _ => if m = 0 then (.nan false, true) else (.inf (n != n'), false)
  | .fin n m _, .inf n' => if m = 0 then (.nan false, true) else (.inf (n != n'), false)
  | .fin n m e, .fin n' m' e' => (.fin (n != n') (m * m') (e + e'), false)

/-- a + b rounded (07 R115). -/
def fAdd (t : Fmt) (mode : RMode) (a b : Nat) : Nat × Flags := addVals t mode false [t.val a, t.val b]

/-- a − b rounded (07 R115). -/
def fSub (t : Fmt) (mode : RMode) (a b : Nat) : Nat × Flags :=
  addVals t mode false [t.val a, (t.val b).negate]

/-- a × b rounded (07 R115). -/
def fMul (t : Fmt) (mode : RMode) (a b : Nat) : Nat × Flags :=
  match mulVals (t.val a) (t.val b) with
  | (_, true) => (t.nan, flagNV)
  | (.nan s, _) => (t.nan, if s then flagNV else 0)
  | (.inf n, _) => (t.signed n t.infCode, 0)
  | (.fin n m e, _) => deliver t mode n m e false

/-- ±(a × b) ± c rounded once (07 R119): `np` negates the product, `nc` the addend. -/
def fMulAdd (t : Fmt) (mode : RMode) (np nc : Bool) (a b c : Nat) : Nat × Flags :=
  let (p, bad) := mulVals (t.val a) (t.val b)
  let p := if np then p.negate else p
  let c := if nc then (t.val c).negate else t.val c
  if bad then (t.nan, flagNV) else addVals t mode false [p, c]

/-- a / b rounded (07 R118). -/
def fDiv (t : Fmt) (mode : RMode) (a b : Nat) : Nat × Flags :=
  match t.val a, t.val b with
  | .nan s, .nan s' => (t.nan, if s || s' then flagNV else 0)
  | .nan s, _ => (t.nan, if s then flagNV else 0)
  | _, .nan s => (t.nan, if s then flagNV else 0)
  | .inf _, .inf _ => (t.nan, flagNV)
  | .inf n, .fin n' _ _ => (t.signed (n != n') t.infCode, 0)
  | .fin n _ _, .inf n' => (t.signed (n != n') 0, 0)
  | .fin n m e, .fin n' m' e' =>
    if m' = 0 then
      if m = 0 then (t.nan, flagNV) else (t.signed (n != n') t.infCode, flagDZ)
    else if m = 0 then (t.signed (n != n') 0, 0)
    else
      let k := t.f + 4 + bitLen m'
      let q := m * 2 ^ k / m'
      deliver t mode (n != n') q (e - e' - k) (m * 2 ^ k % m' != 0)

/-- The integer square root, bit by bit from 2^k down. -/
def isqrtBits (n : Nat) : Nat → Nat → Nat
  | 0, r => r
  | k + 1, r => let r' := r + 2 ^ k; isqrtBits n k (if r' * r' ≤ n then r' else r)

/-- The integer square root. -/
def isqrt (n : Nat) : Nat := isqrtBits n (bitLen n / 2 + 1) 0

/-- √a rounded (07 R118). -/
def fSqrt (t : Fmt) (mode : RMode) (a : Nat) : Nat × Flags :=
  match t.val a with
  | .nan s => (t.nan, if s then flagNV else 0)
  | .inf false => (t.signed false t.infCode, 0)
  | .inf true => (t.nan, flagNV)
  | .fin n m e =>
    if m = 0 then (t.signed n 0, 0)
    else if n then (t.nan, flagNV)
    else
      let k0 := 2 * (t.f + 4)
      let k := if (e - k0) % 2 = 0 then k0 else k0 + 1
      let v := m * 2 ^ k
      let r := isqrt v
      deliver t mode false r ((e - k) / 2) (r * r != v)

/-- The order of two values that are no NaN. -/
def cmpVals : FVal → FVal → Ordering
  | .inf true, .inf true => .eq
  | .inf true, _ => .lt
  | _, .inf true => .gt
  | .inf false, .inf false => .eq
  | .inf false, _ => .gt
  | _, .inf false => .lt
  | .fin n m e, .fin n' m' e' => compare (sumTerms [(n, m, e), (!n', m', e')]).1 0
  | _, _ => .eq

/-- FEQ (07 R115, 05 R83). -/
def fEq (t : Fmt) (a b : Nat) : Bool × Flags :=
  let x := t.val a; let y := t.val b
  if x.isNan || y.isNan then (false, nanFlags x ||| nanFlags y) else (cmpVals x y == .eq, 0)

/-- FLT and FLE (07 R115, 05 R83). -/
def fLess (t : Fmt) (orEq : Bool) (a b : Nat) : Bool × Flags :=
  let x := t.val a; let y := t.val b
  if x.isNan || y.isNan then (false, flagNV)
  else (cmpVals x y == .lt || (orEq && cmpVals x y == .eq), 0)

/-- Minimum and maximum (05 R84): `mx` for maximum, `number` for the kind that ignores a quiet NaN. -/
def fMinMax (t : Fmt) (mx number : Bool) (a b : Nat) : Nat × Flags :=
  let x := t.val a; let y := t.val b
  let fl := nanFlags x ||| nanFlags y
  if x.isNan && y.isNan then (t.nan, fl)
  else if x.isNan then (if number then b else t.nan, fl)
  else if y.isNan then (if number then a else t.nan, fl)
  else
    let o := cmpVals x y
    let below := o == .lt || (o == .eq && (t.neg a && !t.neg b))
    (if below != mx then a else b, fl)

/-- Sign copy (0), invert (1) and exclusive-or (2) (07 R115). -/
def fSign (t : Fmt) (kind : Nat) (a b : Nat) : Nat :=
  let mag := a % 2 ^ (t.w - 1)
  let n := match kind with
    | 0 => t.neg b
    | 1 => !t.neg b
    | _ => t.neg a != t.neg b
  t.signed n mag

/-- The class code (07 R116). -/
def fClass (t : Fmt) (a : Nat) : Nat :=
  let kind := match t.val a with
    | .nan true => 5
    | .nan false => 4
    | .inf _ => 3
    | .fin _ m _ => if m = 0 then 0 else if m < 2 ^ t.f then 1 else 2
  kind + if t.neg a then 8 else 0

/-- The value rounded to an integer, and whether it is inexact (05 R92). -/
def roundInt (mode : RMode) (neg : Bool) (m : Nat) (e : Int) : Int × Bool :=
  let (n, inexact) := roundAt mode neg m e 0 false
  (if neg then -(n : Int) else n, inexact)

/-- The range of an integer type of n bits (05 R77). -/
def intMin (signed : Bool) (n : Nat) : Int := if signed then -(2 ^ (n - 1) : Nat) else 0
def intMax (signed : Bool) (n : Nat) : Int := if signed then (2 ^ (n - 1) : Nat) - 1 else (2 ^ n : Nat) - 1

/-- sat(v, t) (05 R77). -/
def satInt (signed : Bool) (n : Nat) (v : Int) : Int :=
  if v < intMin signed n then intMin signed n
  else if v > intMax signed n then intMax signed n else v

/-- A floating value converted to an integer type (05 R92). -/
def fToInt (v : FVal) (mode : RMode) (signed : Bool) (n : Nat) : Int × Flags :=
  match v with
  | .nan _ => (0, flagNV)
  | .inf neg => (if neg then intMin signed n else intMax signed n, flagNV)
  | .fin neg m e =>
    let (k, inexact) := roundInt mode neg m e
    if intMin signed n ≤ k ∧ k ≤ intMax signed n then (k, if inexact then flagNX else 0)
    else (satInt signed n k, flagNV)

/-- An integer converted to a floating type (05 R92). -/
def intToF (t : Fmt) (mode : RMode) (v : Int) : Nat × Flags := deliver t mode (v < 0) v.natAbs 0 false

/-- A value converted to a floating type, non-saturating form (05 R91). A signalling NaN sets NV into a wider type
too, as R83 has it (DESIGN CHOICE: notes/assumptions/95.md). -/
def fToF (t : Fmt) (mode : RMode) (v : FVal) : Nat × Flags :=
  match v with
  | .nan s => (t.nan, if s then flagNV else 0)
  | .inf n => if t.kind = .ieee then (t.signed n t.infCode, 0) else (t.nan, flagNV)
  | .fin n m e => deliver t mode n m e false

/-- A value converted to a floating type in the saturating form, with whether it saturated
(05 R91). -/
def fToFSat (t : Fmt) (mode : RMode) (v : FVal) : Nat × Flags × Bool :=
  match v with
  | .nan s => (t.nan, if s || t.kind = .e2m1 then flagNV else 0, false)
  | .inf n => (t.signed n t.maxCode, flagNX, true)
  | .fin n m e => deliverSat t mode n m e

/-- q_encode of 05 R93: value, scale, zero point, code width. The last result says it was clamped. -/
def qEncode (v s : FVal) (z w : Nat) : Nat × Flags × Bool :=
  match v, s with
  | .nan _, _ => (z, flagNV, false)
  | _, .nan _ => (z, flagNV, false)
  | v, .inf _ =>
    match v with
    | .fin _ m _ => (z, if m = 0 then 0 else flagNX, false)
    | _ => (z, flagNX, false)
  | .inf n, .fin n' m' _ =>
    if m' = 0 then (z, flagNV, false)
    else (if n != n' then 0 else 2 ^ w - 1, flagOF ||| flagNX, true)
  | .fin n m e, .fin n' m' e' =>
    if m' = 0 then (z, flagNV, false)
    else
      let num := if e ≥ e' then m * 2 ^ (e - e').toNat else m
      let den := if e ≥ e' then m' else m' * 2 ^ (e' - e).toNat
      let q := num / den
      let r := num % den
      let q := if 2 * r > den ∨ (2 * r = den ∧ q % 2 = 1) then q + 1 else q
      let c : Int := (if n != n' then -(q : Int) else q) + z
      let nx : Flags := if r = 0 then 0 else flagNX
      if c < 0 then (0, flagOF ||| flagNX, true)
      else if c > (2 ^ w : Nat) - 1 then (2 ^ w - 1, flagOF ||| flagNX, true)
      else (c.toNat, nx, false)

/-- q_decode of 05 R93 as an exact value. The rule gives the real value only; the sign of the zero that
c = z gives is the product's: the sign of the scale (DESIGN CHOICE: notes/assumptions/43.md). -/
def qDecode (c : Nat) (s : FVal) (z : Nat) : FVal × Bool :=
  let d : Int := (c : Int) - z
  mulVals s (.fin (d < 0) d.natAbs 0)

end Sys2Proof.Machine
end

