-- ==== Sys2Proof/Machine/Bits.lean ====
section
/-!
DEFINITION. Small helpers: association lists, bit fields, coordinates of cores, groves and scopes
(01 R10 to R12), and access to the units of the state. Cores are keyed by die and logical number
inside the package (die × 512 + number), harts by that key × 4 + hart, groves by die × 32 + grove.
-/

namespace Sys2Proof.Machine

/-- The value listed for a key. -/
def assocGet {α : Type} : List (Nat × α) → Nat → Option α
  | [], _ => none
  | (k', v) :: l, k => if k' = k then some v else assocGet l k

/-- The list with a key's value replaced, or added at the end. -/
def assocSet {α : Type} : List (Nat × α) → Nat → α → List (Nat × α)
  | [], k, v => [(k, v)]
  | (k', v') :: l, k, v => if k' = k then (k, v) :: l else (k', v') :: assocSet l k v

/-- Bits [lo + n - 1 : lo] of a doubleword as a number. -/
def bits (v : Dword) (lo n : Nat) : Nat := v.toNat / 2 ^ lo % 2 ^ n

/-- One bit of a doubleword. -/
def bit (v : Dword) (i : Nat) : Bool := v.getLsbD i

/-- A doubleword from a number, modulo 2^64 (00 R6). -/
abbrev dw (n : Nat) : Dword := BitVec.ofNat 64 n

/-- 1 for true, 0 for false, as an x register value. -/
def dbool (b : Bool) : Dword := if b then 1 else 0

/-- The floor of the base-2 logarithm, 0 for 0; `fuel` bounds the result. -/
def log2Fuel : Nat → Nat → Nat
  | 0, _ => 0
  | fuel + 1, n => if n < 2 then 0 else log2Fuel fuel (n / 2) + 1

/-- A run of slice bytes: first offset and length. -/
abbrev Run := Nat × Nat

/-- Rows of a tile (13 R242). -/
def tileRows (w : Dword) : Nat := (bits w 20 3 + 1) * 16
/-- Columns of a tile. -/
def tileCols (w : Dword) : Nat := (bits w 23 3 + 1) * 16
/-- Slice offset of a tile. -/
def tileOff (w : Dword) : Nat := bits w 0 19
/-- Whether a tile holds s32 accumulators. -/
def tileInt (w : Dword) : Bool := bit w 26

/-- The storage of a tile (13 R242). -/
def tileRun (w : Dword) : Run := (tileOff w, tileRows w * tileCols w * 4)

/-- Update one element of a list. -/
def modifyAt {α : Type} (f : α → α) : List α → Nat → List α
  | [], _ => []
  | a :: l, 0 => f a :: l
  | a :: l, n + 1 => a :: modifyAt f l n

/-- The die of a core key (01 R12). -/
def dieOf (core : Nat) : Nat := core / 512
/-- The row of a core key (01 R10). -/
def rowOf (core : Nat) : Nat := core % 512 / 32
/-- The column of a core key (01 R10). -/
def colOf (core : Nat) : Nat := core % 32
/-- The grove of a core key within its die (01 R11). -/
def groveInDie (core : Nat) : Nat := rowOf core / 4 * 8 + colOf core / 4
/-- The grove key of a core (01 R11). -/
def groveOf (core : Nat) : Nat := dieOf core * 32 + groveInDie core
/-- A core's position within its grove (01 R11). -/
def posInGrove (core : Nat) : Nat := rowOf core % 4 * 4 + colOf core % 4
/-- The core keys of a grove in ascending position (01 R11). -/
def groveCores (grove : Nat) : List Nat :=
  (List.range 16).map fun p =>
    grove / 32 * 512 + (grove % 32 / 8 * 4 + p / 4) * 32 + grove % 8 * 4 + p % 4

/-- Whether core `c` lies within scope `sc` of core `a` (03 R64: core, grove, die, package, domain). -/
def inScope (sc a c : Nat) : Bool :=
  match sc with
  | 0 => a == c
  | 1 => groveOf a == groveOf c
  | 2 => dieOf a == dieOf c
  | _ => true

/-- The smallest scope of core `a` that contains every core of a list (11 R198). -/
def smallestScope (a : Nat) (cs : List Nat) : Nat :=
  if cs.all (inScope 0 a) then 0
  else if cs.all (inScope 1 a) then 1
  else if cs.all (inScope 2 a) then 2
  else 3

/-- The key of the acting core. -/
def State.cid (s : State) : Nat := s.hgid / 4

/-- A core's global identity, 20 bits (01 R12). -/
def cgidOf (s : State) (core : Nat) : BitVec 20 := BitVec.ofNat 20 (s.pk.pkg * 4096 + core)

/-- The core key of a CGID of this package (01 R12). -/
def localCore (s : State) (c : BitVec 20) : Option Nat :=
  if c.toNat / 4096 = s.pk.pkg then some (c.toNat % 4096) else none

/-- A hart by key. -/
def getHart (s : State) (h : Nat) : Hart :=
  if h = s.hgid then s.hart else (assocGet s.harts h).getD (Hart.fresh h)

/-- Replace a hart. -/
def setHart (s : State) (h : Nat) (v : Hart) : State :=
  if h = s.hgid then { s with hart := v } else { s with harts := assocSet s.harts h v }

/-- A core by key. -/
def getCore (s : State) (c : Nat) : Core :=
  if c = s.cid then s.core else (assocGet s.cores c).getD Core.fresh

/-- Replace a core. -/
def setCore (s : State) (c : Nat) (v : Core) : State :=
  if c = s.cid then { s with core := v } else { s with cores := assocSet s.cores c v }

/-- A grove by key. -/
def getGrove (s : State) (g : Nat) : Grove := (assocGet s.groves g).getD Grove.fresh

/-- Replace a grove. -/
def setGrove (s : State) (g : Nat) (v : Grove) : State := { s with groves := assocSet s.groves g v }

/-- A die by number. -/
def getDie (s : State) (d : Nat) : Die := (assocGet s.dies d).getD Die.fresh

/-- Replace a die. -/
def setDie (s : State) (d : Nat) (v : Die) : State := { s with dies := assocSet s.dies d v }

/-- Make hart `h` the acting hart. -/
def focus (s : State) (h : Nat) : State :=
  if h = s.hgid then s
  else
    { s with
      hgid := h
      hart := getHart s h
      core := getCore s (h / 4)
      harts := assocSet s.harts s.hgid s.hart
      cores := assocSet s.cores s.cid s.core }

/-- Every core key the state lists, the acting core first. -/
def knownCores (s : State) : List Nat :=
  s.cid :: (s.cores.map Prod.fst).filter (fun c => c != s.cid)

/-- Every hart key the state lists, the acting hart first. -/
def knownHarts (s : State) : List Nat :=
  s.hgid :: (s.harts.map Prod.fst).filter (fun h => h != s.hgid)

/-- The slice capacity in bytes of a core (01 R18, R19). -/
def capacity (s : State) (core : Nat) : Nat :=
  if (getDie s (dieOf core)).stacked then 0x60000 else 0x30000

/-- Whether a core's grove is in service (01 R15). -/
def inService (s : State) (core : Nat) : Bool :=
  (getDie s (dieOf core)).groves.getLsbD (groveInDie core)

/-- A number that no other draw of the model has used: the state's tick (notes/assumptions/6.md). -/
def draw (s : State) : Nat × State := (s.tick, { s with tick := s.tick + 1 })

/-- The hart is not ready until something else has happened (01 R21; notes/assumptions/11.md). -/
def pause (s : State) : State := { s with hart := { s.hart with stall := some s.work } }

/-- The instruction that has issued cannot go on: the hart is not ready, and the wait counts from the first
cycle of it. -/
def stall (s : State) : State :=
  pause { s with hart := { s.hart with waitSince := s.hart.waitSince.or (some s.cycle) } }

/-- Bits [lo + n - 1 : lo] of a descriptor. -/
def dbits {w : Nat} (d : BitVec w) (lo n : Nat) : Nat := d.toNat / 2 ^ lo % 2 ^ n

end Sys2Proof.Machine
end

