-- ==== Sys2Proof/Machine/Operands.lean ====
section
/-!
DEFINITION. Operands: the register files of a hart with their special registers (03 R33 to R37), the
element types and VT (03 R43, R65), lanes and the active set (09 R145 to R149).
-/

namespace Sys2Proof.Machine

/-- Read an x register: x0 is zero (03 R33), and x24 to x31 name the shadow bank while a user-level
handler runs (R35). -/
def Hart.rx (h : Hart) (r : Reg) : Dword :=
  if r = 0 then 0
  else if h.uih ∧ 24 ≤ r.toNat then (h.shadow[r.toNat - 24]?).getD 0
  else (h.x[r.toNat]?).getD 0

/-- Write an x register: a write to x0 is discarded (03 R33), and x24 to x31 name the shadow bank while
a user-level handler runs (R35). -/
def Hart.wx (h : Hart) (r : Reg) (v : Dword) : Hart :=
  if r = 0 then h
  else if h.uih ∧ 24 ≤ r.toNat then { h with shadow := h.shadow.setIfInBounds (r.toNat - 24) v }
  else { h with x := h.x.setIfInBounds r.toNat v }

/-- Read a vector register. -/
def Hart.rv (h : Hart) (r : Reg) : VReg := (h.v[r.toNat]?).getD 0

/-- Write a vector register. -/
def Hart.wv (h : Hart) (r : Reg) (v : VReg) : Hart := { h with v := h.v.setIfInBounds r.toNat v }

/-- Read a mask register (03 R36). -/
def Hart.rm (h : Hart) (r : BitVec 3) : Dword := (h.m[r.toNat]?).getD 0

/-- Write a mask register. -/
def Hart.wm (h : Hart) (r : BitVec 3) (v : Dword) : Hart := { h with m := h.m.setIfInBounds r.toNat v }

/-- Read a branch register. -/
def Hart.rb (h : Hart) (r : BitVec 2) : Dword := (h.b[r.toNat]?).getD 0

/-- Write a branch register; its bits [1:0] stay zero (03 R33, 07 R130). -/
def Hart.wb (h : Hart) (r : BitVec 2) (v : Dword) : Hart :=
  { h with
    b := h.b.setIfInBounds r.toNat (v &&& ~~~3)
    bAt := h.bAt.setIfInBounds r.toNat (h.issued + 1) }

/-- The mask register a compare's vd names: vd mod 8 (03 R36). -/
def maskDest (d : Reg) : BitVec 3 := BitVec.ofNat 3 d.toNat

/-- The width in bits of an element type code (03 R65). -/
def elemWidth : Nat → Nat
  | 0 => 8 | 1 => 16 | 2 => 32 | 3 => 64
  | 4 => 8 | 5 => 16 | 6 => 32 | 7 => 64
  | 8 => 16 | 9 => 16 | 10 => 32 | 11 => 64
  | 12 => 8 | 13 => 8 | 14 => 8 | _ => 4

/-- Whether an element type is a signed integer (03 R65). -/
def elemSigned (et : Nat) : Bool := et < 4

/-- VT.ET (03 R43). -/
def Hart.et (h : Hart) : Nat := bits h.vt 0 4
/-- VT.VL. -/
def Hart.vl (h : Hart) : Nat := bits h.vt 8 7
/-- VT.TP. -/
def Hart.tp (h : Hart) : Bool := bit h.vt 15
/-- VT.MP. -/
def Hart.mp (h : Hart) : Bool := bit h.vt 16

/-- The lane count of an element type (03 R43). -/
def laneCount (et : Nat) : Nat := 512 / elemWidth et

/-- The active length (03 R43). -/
def Hart.al (h : Hart) : Nat :=
  let l := laneCount h.et
  if h.vl = 0 ∨ l ≤ h.vl then l else h.vl

/-- Lane i of a register at width w (05 R76). -/
def lane (v : VReg) (w i : Nat) : Nat := v.toNat / 2 ^ (w * i) % 2 ^ w

/-- A register from its lanes, lane 0 first. -/
def packLanes (w : Nat) : List Nat → Nat
  | [] => 0
  | a :: l => a % 2 ^ w + 2 ^ w * packLanes w l

/-- A value of width w read as two's complement (07 R107). -/
def sval (w v : Nat) : Int := if 2 ^ (w - 1) ≤ v % 2 ^ w then (v % 2 ^ w : Nat) - (2 ^ w : Nat) else (v % 2 ^ w : Nat)

/-- An integer reduced modulo 2^w (00 R6). -/
def wrapInt (w : Nat) (v : Int) : Nat := (v % (2 ^ w : Nat)).toNat

/-- Whether the mask bit of lane i is set; mask field 0 reads no mask register, and a q4 mask bit
governs two lanes (03 R36, 09 R146). -/
def Hart.mbit (h : Hart) (vm : BitVec 3) (et i : Nat) : Bool :=
  vm = 0 ∨ bit (h.rm vm) (if et = 15 then i / 2 else i)

/-- Whether lane i is active (09 R146). -/
def Hart.active (h : Hart) (vm : BitVec 3) (i : Nat) : Bool := decide (i < h.al) && h.mbit vm h.et i

/-- Write `l` lanes of width w over an old value by the policies of 09 R146: `act` the active lanes,
`body` the lanes below the active length, `zm` and `tp` the zeroing policies. -/
def mergeLanes (w l : Nat) (act body : Nat → Bool) (zm tp : Bool) (old : VReg) (f : Nat → Nat) : VReg :=
  BitVec.ofNat 512 (packLanes w ((List.range l).map fun i =>
    if act i then f i
    else if body i then (if zm then 0 else lane old w i)
    else if tp then 0 else lane old w i))

/-- Write the lanes of vd under the hart's VT, mask and the zeroing bit of the instruction (09 R146,
R149). -/
def Hart.writeLanes (h : Hart) (vd : Reg) (vm : BitVec 3) (z : Bool) (f : Nat → Nat) : Hart :=
  h.wv vd (mergeLanes (elemWidth h.et) (laneCount h.et) (h.active vm) (fun i => decide (i < h.al))
    (h.mp || z) h.tp (h.rv vd) f)

/-- A mask built bit by bit over an old value (09 R147): bits at or above l are zero. -/
def mergeMask (l : Nat) (act body : Nat → Bool) (zm tp : Bool) (old : Dword) (f : Nat → Bool) : Dword :=
  dw (packLanes 1 ((List.range l).map fun i =>
    if act i then (f i).toNat
    else if body i then (if zm then 0 else (bit old i).toNat)
    else if tp then 0 else (bit old i).toNat))

/-- Write the mask of a compare (09 R147). -/
def Hart.writeMask (h : Hart) (vd : Reg) (vm : BitVec 3) (z : Bool) (f : Nat → Bool) : Hart :=
  let d := maskDest vd
  h.wm d (mergeMask (laneCount h.et) (h.active vm) (fun i => decide (i < h.al)) (h.mp || z) h.tp
    (h.rm d) f)

/-- Operand b of a lane: the vector register's lane, or the scalar in the vector and scalar form
(09 R148). -/
def Hart.laneB (h : Hart) (vs : BitVec 1) (b : Reg) (i : Nat) : Nat :=
  if vs = 1 then (h.rx b).toNat % 2 ^ elemWidth h.et else lane (h.rv b) (elemWidth h.et) i

/-- Operand of a lane from a vector register. -/
def Hart.laneA (h : Hart) (a : Reg) (i : Nat) : Nat := lane (h.rv a) (elemWidth h.et) i

/-- The classes of element types of 09 R145. -/
def classI (et : Nat) : Bool := et < 8
def classF (et : Nat) : Bool := 8 ≤ et && et < 12
def classA4 (et : Nat) : Bool := et < 15

end Sys2Proof.Machine
end

