-- ==== Sys2Proof/Machine/Flags.lean ====
section
/-!
DEFINITION. Exception flags: the union over lanes (05 R89), setting FFLAGS (R88), and their way to the
grove's sticky union GFFLAGS (R90). GFFLAGS of a hart's flag is set at the latest 64 cycles after; until
then it is on its way (`Grove.flight`).
-/

namespace Sys2Proof.Machine

/-- The union of a list of flags (05 R89). -/
def unionFlags : List Flags → Flags
  | [] => 0
  | f :: l => f ||| unionFlags l

/-- The union of the flags of the active lanes (05 R89). -/
def laneFlags (l : Nat) (act : Nat → Bool) (f : Nat → Flags) : Flags :=
  unionFlags ((List.range l).map fun i => if act i then f i else 0)

/-- Set flags in a hart (05 R88): flags are never cleared here. -/
def Hart.raise (h : Hart) (f : Flags) : Hart := { h with fflags := h.fflags ||| f }

/-- Send set flags towards the grove's GFFLAGS (05 R90). Nothing travels when no flag is set. -/
def flagsToGrove (s : State) (grove : Nat) (f : BitVec 13) : State :=
  if f = 0 then s
  else
    let g := getGrove s grove
    setGrove s grove { g with flight := g.flight ++ [(f, s.cycle)] }

/-- A hart's flags in the layout of GFFLAGS (05 R90). -/
def hartFlags (f : Flags) : BitVec 13 := f.setWidth 13

/-- The array's flags in the layout of GFFLAGS: MIOV, MNV, MOF, MUF, MNX (05 R90). -/
def arrayFlags (f : Flags) (iov : Bool) : BitVec 13 :=
  (if iov then 0x1000 else 0) ||| (if f &&& flagNV = 0 then 0 else 0x800) |||
    (if f &&& flagOF = 0 then 0 else 0x400) ||| (if f &&& flagUF = 0 then 0 else 0x200) |||
    (if f &&& flagNX = 0 then 0 else 0x100)

/-- Set flags of the acting hart and start them towards its grove. -/
def raiseFlags (s : State) (f : Flags) : State :=
  flagsToGrove { s with hart := s.hart.raise f } (groveOf s.cid) (hartFlags f)

/-- Flags on their way for 64 cycles or more are in GFFLAGS (05 R90). -/
def arriveFlags (now : Nat) (g : Grove) : Grove :=
  let due := g.flight.filter fun (_, t) => t + 64 ≤ now
  { g with
    gfflags := due.foldl (fun acc (f, _) => acc ||| f) g.gfflags
    flight := g.flight.filter fun (_, t) => now < t + 64 }

end Sys2Proof.Machine
end

