-- ==== Sys2Proof/Machine/Memory.lean ====
section
/-!
DEFINITION. Memory as cells in canonical form: addresses strictly rising and no listed byte equal to
what an unlisted address reads as, which is 0 (notes/assumptions/2.md). Cells are keyed by place: the
slices of the package's cores, HBM by device physical address, and host memory by function
(11 R183, R187, 17 R336).
-/

namespace Sys2Proof.Machine

/-- What an unlisted address reads as (notes/assumptions/2.md). -/
def memDefault : Byte := 0

/-- The byte at a key. -/
def memGet : List Host.Cell → Nat → Byte
  | [], _ => memDefault
  | (k', b) :: m, k => if k' = k then b else memGet m k

/-- Write a byte, keeping the canonical form. -/
def memSet : List Host.Cell → Nat → Byte → List Host.Cell
  | [], k, b => if b = memDefault then [] else [(k, b)]
  | (k', b') :: m, k, b =>
    if k' < k then (k', b') :: memSet m k b
    else if k' = k then (if b = memDefault then m else (k, b) :: m)
    else if b = memDefault then (k', b') :: m
    else (k, b) :: (k', b') :: m

/-- The canonical form: keys strictly rising and no listed byte equal to the default. -/
def Memory.wf : List Host.Cell → Bool
  | [] => true
  | [(_, b)] => b != memDefault
  | (k, b) :: (k', b') :: m => b != memDefault && decide (k < k') && Memory.wf ((k', b') :: m)

/-- The n bytes at a key, little-endian (00 R2). -/
def memRead (m : List Host.Cell) (k : Nat) : Nat → Nat
  | 0 => 0
  | n + 1 => (memGet m k).toNat + 256 * memRead m (k + 1) n

/-- Write n bytes, little-endian (00 R2). -/
def memWrite (m : List Host.Cell) (k : Nat) : Nat → Nat → List Host.Cell
  | 0, _ => m
  | n + 1, v => memWrite (memSet m k (BitVec.ofNat 8 v)) (k + 1) n (v / 256)

/-- Write a list of bytes. -/
def memWriteBytes (m : List Host.Cell) (k : Nat) : List Byte → List Host.Cell
  | [] => m
  | b :: l => memWriteBytes (memSet m k b) (k + 1) l

/-- The list of n bytes at a key. -/
def memBytes (m : List Host.Cell) (k n : Nat) : List Byte := (List.range n).map fun i => memGet m (k + i)

/-- The sector at a key (11 R186). -/
def memSector (m : List Host.Cell) (k : Nat) : Sector := BitVec.ofNat 256 (memRead m k 32)

/-- Byte k of a sector. -/
def sectorByte (d : Sector) (k : Nat) : Byte := BitVec.ofNat 8 (d.toNat / 2 ^ (8 * k))

/-- Write the bytes of a sector whose mask bit is set, from byte i on. -/
def writeMaskedFrom (m : List Host.Cell) (key : Nat) (mask : BitVec 32) (d : Sector) :
    Nat → List Host.Cell
  | 0 => m
  | n + 1 =>
    let i := 31 - n
    let m := if mask.getLsbD i then memSet m (key + i) (sectorByte d i) else m
    writeMaskedFrom m key mask d n

/-- Apply the masked bytes of a unit to a sector (11 R188). -/
def writeMasked (m : List Host.Cell) (key : Nat) (mask : BitVec 32) (d : Sector) : List Host.Cell :=
  writeMaskedFrom m key mask d 32

/-- Clear the cells of keys lo to hi - 1. -/
def memZero (m : List Host.Cell) (lo hi : Nat) : List Host.Cell :=
  m.filter fun (k, _) => k < lo || hi ≤ k

/-- The cells of keys lo to hi - 1. -/
def memRange (m : List Host.Cell) (lo hi : Nat) : List Host.Cell :=
  m.filter fun (k, _) => lo ≤ k && k < hi

/-- Put saved cells back. -/
def memRestore (m : List Host.Cell) : List Host.Cell → List Host.Cell
  | [] => m
  | (k, b) :: l => memRestore (memSet m k b) l

/-- The key of a slice byte (11 R183). -/
def sliceKey (core off : Nat) : Nat := 2 ^ 63 + core * 2 ^ 19 + off

/-- The key of a byte of HBM by device physical address (17 R336): the package's own HBM by offset,
another package's by package and offset. -/
def hbmKey (s : State) (pa : Nat) : Nat :=
  if pa / 2 ^ 40 % 256 = s.pk.pkg then pa % 2 ^ 40 else 2 ^ 48 + pa % 2 ^ 48

/-- The key of a byte of host memory as function fn addresses it (17 R336). -/
def hostKey (fn addr : Nat) : Nat := (fn + 1) * 2 ^ 64 + addr

/-- Whether a key lies in host memory. -/
def isHostKey (k : Nat) : Bool := 2 ^ 64 ≤ k

/-- Whether a key lies in a core slice. -/
def isSliceKey (k : Nat) : Bool := 2 ^ 63 ≤ k && k < 2 ^ 64

/-- The core of a slice key. -/
def sliceCore (k : Nat) : Nat := (k - 2 ^ 63) / 2 ^ 19

/-- The offset of a slice key. -/
def sliceOff (k : Nat) : Nat := (k - 2 ^ 63) % 2 ^ 19

/-- The die whose base dies hold an HBM key of the package (21 R384). -/
def hbmDie (k : Nat) : Nat := k / 2 ^ 36 / 2

end Sys2Proof.Machine
end

