-- ==== Sys2Proof/Machine/Ops.lean ====
section
/-!
DEFINITION. The operations every instruction shares: retiring (03 R58, R61, R62), class L windows (R58,
R59), taking a trap and returning from one (17 R314 to R328), raising a fault, and the partition and
launch of a hart (19 R363).
-/

namespace Sys2Proof.Machine

/-- The outcome of an instruction that goes on to a state. -/
abbrev ok (s : State) : Host.Outcome State Fault Refusal := .next s

/-- The code of a cause (17 R315). -/
def Cause.code : Cause → Nat
  | .illegal => 0 | .frame => 1 | .addr => 2 | .align => 3 | .fetch => 4 | .ldpage => 5 | .stpage => 6
  | .perm => 7 | .win => 8 | .label => 9 | .egress => 10 | .logerr => 11 | .qstall => 12
  | .mfault => 13 | .mfmt => 14 | .lease => 15 | .depunder => 16 | .taskctx => 17 | .codebound => 18
  | .diecross => 19 | .scall => 20 | .mcall => 21 | .brk => 22 | .trapi => 23 | .ecc => 24
  | .check => 25 | .priv => 26

/-- The code of a mode (17 R314). -/
def Mode.code : Mode → Nat
  | .user => 0 | .supervisor => 1 | .machine => 2

/-- The mode of a code; code 3 names none and is never stored (17 R317, R321). -/
def Mode.ofCode : Nat → Mode
  | 0 => .user | 1 => .supervisor | _ => .machine

/-! ### Partitions and launches -/

/-- The buddy-tree leaf of a core (19 R363). -/
def leafOf (core : Nat) : Nat := dieOf core * 8 + groveInDie core / 4

/-- The level of a partition handle (19 R363). -/
def handleLevel (h : Nat) : Nat := h / 4096 % 8
/-- The node index of a partition handle. -/
def handleIndex (h : Nat) : Nat := h % 4096

/-- Whether a partition's node covers a core (19 R363). -/
def covers (handle core : Nat) : Bool := leafOf core / 2 ^ handleLevel handle == handleIndex handle

/-- The partition of a core. -/
def partOf (s : State) (core : Nat) : Option Partition := s.pk.parts.find? fun p => covers p.handle core

/-- The partition of a core, an empty one when the core is in none (notes/assumptions/28.md). -/
def partOrNone (s : State) (core : Nat) : Partition :=
  (partOf s core).getD
    { handle := 0, tenant := 255, labels := [(0, 0)], s2root := none, s1base := 0, slice := 1000,
      stvec := none, notes := [], errors := [], ovf := false, rtload := none }

/-- A partition by handle. -/
def getPart (s : State) (handle : Nat) : Option Partition := s.pk.parts.find? fun p => p.handle == handle

/-- Replace a partition that has the same handle. -/
def setPart (s : State) (p : Partition) : State :=
  { s with pk := { s.pk with parts := s.pk.parts.map fun q => if q.handle = p.handle then p else q } }

/-- The cores of a partition in ascending order. -/
def partCores (handle : Nat) : List Nat := (List.range 4096).filter (covers handle)

/-- The tenant of a core, if a partition holds it. -/
def tenantOf (s : State) (core : Nat) : Option Nat := (partOf s core).map (·.tenant)

/-- A launch by key. -/
def getLaunch (s : State) (key : Nat) : Option Launch := s.pk.launches.find? fun l => l.key == key

/-- Replace a launch that has the same key. -/
def setLaunch (s : State) (l : Launch) : State :=
  { s with pk := { s.pk with launches := s.pk.launches.map fun m => if m.key = l.key then l else m } }

/-- Replace a registration of a launch. -/
def setReg (l : Launch) (r : TaskReg) : Launch :=
  { l with regs := l.regs.map fun q => if q.id = r.id then r else q }

/-! ### Retiring -/

/-- Add one to a performance count. -/
def bump (perf : Vector Dword 16) (i : Nat) (n : Nat) : Vector Dword 16 :=
  perf.setIfInBounds i ((perf[i]?).getD 0 + dw n)

/-- The faults and errors of a list of buffered blocks are dropped unreported: the blocks are to be fetched again, and
that is counted (17 R330, 19 R372 counter 15). -/
def Hart.dropFaults (h : Hart) (bs : List FetchBlock) : Hart :=
  { h with perf := bump h.perf 15 (bs.filter fun o => o.faultLo.isSome || o.faultHi.isSome).length }

/-- A hart's instruction buffer is emptied (11 R227). -/
def Hart.dropBlocks (h : Hart) : Hart := { h.dropFaults h.ibuf with ibuf := [] }

/-- Where execution goes after the current instruction: the next redone window instruction while RETS
replays (17 R324), the next word of a frame (03 R61), or the next word. -/
def Hart.advance (h : Hart) : Hart :=
  match h.replayEnd with
  | some e =>
    match h.replay.dropWhile (fun p => !p.2) with
    | (at_, _) :: rest => { h with pc := at_.pc, replayWord := at_.word, replay := rest }
    | [] => { h with pc := e, replay := [], replayEnd := none, replayWord := none }
  | none =>
    match h.frame with
    | none => { h with pc := h.pc + 4 }
    | some f =>
      if f.pos + 1 < f.words.length then
        { h with pc := h.pc + 4, frame := some { f with pos := f.pos + 1 } }
      else if f.iter + 1 < f.iters then
        { h with pc := f.base + 4, frame := some { f with pos := 0, iter := f.iter + 1 } }
      else { h with pc := f.base + dw (4 * (f.words.length + 1)), frame := none }

/-- Where the current instruction stands. -/
def Hart.site (h : Hart) : Site :=
  { pc := h.pc
    word := if h.replayEnd.isSome then h.replayWord else if h.frame.isSome then some h.iword else none }

/-- Count an instruction that has issued (17 R323) and end any wait it was in. -/
def Hart.issue (h : Hart) : Hart :=
  { h with
    issued := h.issued + 1
    hist := (h.site :: h.hist).take 16
    near := false, stall := none, waitSince := none, waitStamp := none, sendWait := none, inv := none
    waitRoute := none }

/-- Count a retired instruction (15 R303). -/
def Hart.count (h : Hart) : Hart := { h.issue with rwc := h.rwc + 1, perf := bump h.perf 3 1 }

/-- Retire the current instruction and go to the next. -/
def Hart.retire (h : Hart) : Hart := h.count.advance

/-- Retire a transfer to a target. It leaves a replay, in which no transfer belongs (17 R324). -/
def Hart.jump (h : Hart) (target : Dword) : Hart :=
  { h.count with pc := target, replay := [], replayEnd := none, replayWord := none }

/-- An instruction whose whole effect is on the acting hart. -/
def onHart (s : State) (f : Hart → Hart) : State := { s with hart := f s.hart }

/-! ### Class L windows -/

/-- The register a destination writes, a v register where the first part says so. -/
def Dest.register : Dest → Option (Bool × Reg)
  | .x r _ => some (false, r)
  | .v r _ => some (true, r)
  | .pop _ _ r wide => some (wide, r)
  | _ => Option.none

/-- Whether two destinations name one register (03 R59). -/
def sameDest (a b : Dest) : Bool := a.register.isSome && a.register == b.register

/-- A destination that a later instruction has taken: nothing is written, and a pop still takes its
message (03 R59). -/
def Dest.voided : Dest → Dest
  | .pop b q _ _ => .pop b q 0 false
  | _ => .none

/-- Write a class L result; an older window with the same destination then writes nothing (03 R59). -/
def Hart.complete (h : Hart) (p : Pending) : Hart :=
  let h := match p.dest with
    | .x r v => h.wx r v
    | .v r v => h.wv r v
    | _ => h
  { h with
    pend := (h.pend.filter fun q => q.seq != p.seq).map fun q =>
      if q.seq < p.seq && sameDest q.dest p.dest then { q with dest := q.dest.voided } else q }

/-- Whether MDRAIN's commands are done: the acting hart has none in the array. A suspended command, behind
which the others stay (13 R248), ends the wait too (DESIGN CHOICE: notes/assumptions/47.md). -/
def drained (s : State) : Bool :=
  s.hart.lease.any (fun l => l.susp.isSome) ||
    !((getGrove s (groveOf s.cid)).queue.any fun c => c.hart == s.hgid) && s.hart.parked.isEmpty

/-- Whether a class L instruction has completed, so that its result can be written: a result that is
outstanding arrives with CLASS_L_WRITEBACK, a pop with its message; MLEASE waits for the grant, MDRAIN for
the hart's commands (13 R250). -/
def pendReady (s : State) (p : Pending) : Bool :=
  match p.dest with
  | .lease => (getGrove s (groveOf s.cid)).holder == some s.hgid || s.hart.lease.isNone
  | .drain => drained s
  | .pop .. => false
  | _ => !p.out

/-- Whether a class L instruction that has not faulted has yet to complete. -/
def windowsWait (s : State) : Bool := s.hart.pend.any fun p => p.fault.isNone && !pendReady s p

/-- Whether a class L instruction has faulted. -/
def windowsFault (s : State) : Bool := s.hart.pend.any fun p => p.fault.isSome

/-- Whether a window has no instruction left (03 R58). -/
def windowOver (h : Hart) (p : Pending) : Bool := p.seq + 1 + p.la ≤ h.issued

/-- The lookahead that applies: none while RETS replays a window (17 R324). -/
def Hart.lookahead (h : Hart) (la : BitVec 4) : Nat := if h.replayEnd.isSome then 0 else la.toNat

/-- Whether a destination receives a result that is outstanding when its class L instruction has issued:
not data of the own slice (01 R21, R23). -/
def Hart.outstanding (h : Hart) (dest : Dest) : Bool :=
  match dest with
  | .x .. => !h.near
  | .v .. => !h.near
  | _ => false

/-- The window that a class L instruction of the hart opens as it issues (03 R58, 17 R323). -/
def Hart.window (h : Hart) (la : BitVec 4) (dest : Dest) (flags : Flags) (fp : Bool) (fault : Option Trap) : Pending :=
  { seq := h.issued, la := h.lookahead la, site := h.site, out := h.outstanding dest, dest := dest, flags := flags
    fp := fp, fault := fault }

/-- A class L instruction issues and faults: its window opens, and it has not retired (15 R303). -/
def Hart.fault (h : Hart) (p : Pending) : Hart := { h with pend := h.pend ++ [p] }.issue.advance

/-- Complete one window of the acting hart: write the result and set the flags (03 R58, 05 R89). -/
def completeOne (s : State) (p : Pending) : State :=
  raiseFlags { s with hart := s.hart.complete p } p.flags

/-- Complete a list of windows in order. -/
def completeAll (s : State) : List Pending → State
  | [] => s
  | p :: l => completeAll (completeOne s p) l

/-! ### Taking a trap -/

/-- The target mode of a cause (17 R315). -/
def trapTarget (mode : Mode) (c : Cause) : Mode :=
  if mode = .machine ∨ c = .mcall ∨ c = .check then .machine else .supervisor

/-- XSTATUS after entry (17 R322). -/
def entryStatus (h : Hart) (old : Dword) (tcan : Bool) : Dword :=
  (old &&& ~~~(0xCF1 : Dword)) ||| dw (h.mode.code * 16) |||
    (if bit old 0 then 0x40 else 0) ||| (if h.uih then 0x80 else 0) |||
    (if h.frame.isSome then 0x400 else 0) ||| (if tcan then 0x800 else 0)

/-- What a trap saves (17 R322, R323): the return address, the cause register's top bits, LACOUNT, the
PC of a deferred store, and the places of the faulting instruction and its window; `resume` is what the return
from this handler releases again (15 R310). -/
structure Entry where
  trap : Trap
  epc : Dword
  int : Bool
  async : Bool
  lacount : Dword
  xpc : Option Dword
  path : List Site
  tcan : Bool
  resume : Option (Nat × Nat × Nat) := none
  deriving DecidableEq, Repr

/-- The trap register set after entry (17 R318, R322, R325). -/
def TrapRegs.enter (r : TrapRegs) (h : Hart) (e : Entry) : TrapRegs :=
  { r with
    status := entryStatus h r.status e.tcan
    epc := e.epc &&& ~~~3
    cause := (if e.int then 0x8000000000000000 else 0) ||| (if e.async then 0x4000000000000000 else 0)
      ||| dw e.trap.cause.code
    tval := e.trap.val
    lacount := e.lacount
    xpc := (e.xpc.getD 0) &&& ~~~3
    slot := h.frame
    path := e.path }

/-- Take a trap into a mode (17 R322): save, leave the handler and frame, and go to the vector. -/
def Hart.enter (h : Hart) (t : Mode) (e : Entry) : Hart :=
  let h' := { h with
    mode := t, uih := false, frame := none, replay := [], replayEnd := none, replayWord := none, near := false
    fetch := none, stall := none, waitSince := none, waitStamp := none, sendWait := none, inv := none, waitRoute := none
    run := .running, fromEvents := e.resume :: h.fromEvents }
  match t with
  | .machine => { h' with mach := h.mach.enter h e, pc := h.mach.tvec }
  | _ => { h' with sup := h.sup.enter h e, pc := h.sup.tvec }

/-- LACOUNT from its fields (17 R323). -/
def laCount (skip : Nat) (redo : List Bool) : Dword :=
  dw (min skip 15 + packLanes 1 (redo.map Bool.toNat) * 2 ^ 16)

/-- The causes of a task's load that cancel the copy (15 R310). -/
def cancelsTask (c : Cause) : Bool :=
  match c with
  | .ldpage | .stpage | .perm | .win | .label | .ecc => true
  | _ => false

/-- Whether the fault of a window is one of a task's own load (15 R310; notes/assumptions/30.md). -/
def Hart.taskFault (h : Hart) (c : Cause) : Bool := h.task.isSome && h.mode == .user && cancelsTask c

/-- The entry of a fault at the issue of a class L instruction (17 R323): nothing of its window has issued,
and, when a return executes a window again, what is still to be executed again is saved anew. -/
def faultEntry (h : Hart) (t : Trap) : Entry :=
  { trap := t, epc := h.pc, int := false, async := false, xpc := none, tcan := h.taskFault t.cause
    lacount := if h.replayEnd.isSome then laCount h.replay.length (h.replay.map Prod.snd) else 0
    path := match h.replayEnd with
      | some e => h.site :: h.replay.map Prod.fst ++ [⟨e, none⟩]
      | none => [] }

/-- The entry of the oldest faulted window (17 R323): SKIP counts the window instructions that issued,
REDO marks those that faulted, and the path holds their places. -/
def windowEntry (h : Hart) (p : Pending) (t : Trap) (faulted : List Pending) : Entry :=
  let n := h.issued - (p.seq + 1)
  let idx := List.range n
  { trap := t, epc := p.site.pc, int := false, async := false,
    lacount := laCount n (idx.map fun i => faulted.any fun q => q.seq == p.seq + 1 + i), xpc := none,
    path := p.site :: (idx.map fun i => (h.hist[n - 1 - i]?).getD ⟨0, none⟩) ++ [⟨h.pc, none⟩],
    tcan := h.taskFault t.cause }

/-- The context a hart holds, as the issuer of a command or the user of a unit. -/
def Hart.contextRef (h : Hart) (hart : Nat) : ContextRef :=
  { hart := hart, launch := h.launch, lidx := h.lidx, era := h.era }

/-- The holder of an array leaves it (13 R236): the cycles it held the array are counted (19 R372) and charged to
its launch with the grove's next increment (R369). -/
def endHold (s : State) (grove : Nat) : State :=
  let g := getGrove s grove
  match g.holder with
  | none => s
  | some p =>
    let h := getHart s p
    let n := s.cycle - g.periodStart
    let s := setHart s p { h with perf := bump h.perf 0 n }
    setGrove s grove { g with
      holder := none
      lent := if h.launch.isSome then g.lent ++ [(h.contextRef p, min 1300 n)] else g.lent }

/-- Issue cycles of a hart since the last increment of its grove (19 R369). -/
def issuesSince (h : Hart) : Nat := if h.tickMark ≤ h.issued then h.issued - h.tickMark else h.issued

/-- A context leaves its hart: its issue cycles since the grove's last increment are charged with the next one
(19 R369). -/
def noteIssues (s : State) (hart : Nat) : State :=
  let h := getHart s hart
  if h.launch.isNone then s
  else
    let k := groveOf (hart / 4)
    let g := getGrove s k
    let s := setGrove s k
      { g with lent := if issuesSince h = 0 then g.lent else g.lent ++ [(h.contextRef hart, issuesSince h)] }
    setHart s hart { h with tickMark := h.issued }

/-- A hart gives up the array: the grant, if it has it, and its place among the waiters. -/
def leaveWaiters (s : State) (hart : Nat) : State :=
  let k := groveOf (hart / 4)
  let s := if (getGrove s k).holder = some hart then endHold s k else s
  let g := getGrove s k
  setGrove s k { g with waiters := g.waiters.filter fun w => w != hart }

/-- Close a lease session: the grant passes on, and commands already accepted stay; a suspended one is
discarded with its queued successors (13 R248, R250). -/
def closeLease (s : State) (hart : Nat) : State :=
  match (getHart s hart).lease with
  | none => s
  | some l =>
    let s := leaveWaiters s hart
    let h := getHart s hart
    let s := setHart s hart { h with lease := none, parked := if l.susp.isSome then [] else h.parked }
    let k := groveOf (hart / 4)
    let g := getGrove s k
    setGrove s k
      { g with queue := if l.susp.isSome then g.queue.filter fun c => c.hart != hart else g.queue }

/-- Record a failure in a channel's status: only the first since the last read (13 R264). -/
def Channel.fail (ch : Channel) (c : Cause) (id : BitVec 32) : Channel :=
  if bit ch.stat 63 then ch
  else { ch with stat := ch.stat ||| dw (2 ^ 63 + c.code * 2 ^ 56 + id.toNat) }

/-- Change one copy channel of a hart. -/
def Hart.withChan (h : Hart) (i : Nat) (f : Channel → Channel) : Hart :=
  { h with chans := h.chans.setIfInBounds i (f ((h.chans[i]?).getD Channel.fresh)) }

/-- The held copy commands of a task on a hart, in their channels' status (13 R265). -/
def failHeld (h : Hart) (which : CopyCmd → Bool) : List CopyCmd → Hart
  | [] => h
  | c :: l =>
    match c.held with
    | some t => failHeld (if which c then h.withChan c.ch (Channel.fail · t.cause c.id) else h) which l
    | none => failHeld h which l

/-- The commands that work on a tile among those a hart has in the array, kept aside or suspended. -/
def tileCommands (s : State) (hart : Nat) : List ArrayCmd :=
  let h := getHart s hart
  let all := ((getGrove s (groveOf (hart / 4))).queue.filter fun c => c.hart == hart) ++ h.parked ++
    (h.lease.bind (·.susp)).toList.map Prod.fst
  all.filter fun c => match c.op with
    | .scale .. => false
    | _ => true

/-- A tile of a core whose contents are left unspecified: each byte of its storage is a free value (13 R265;
notes/assumptions/18.md). -/
def spoilTile (core : Nat) (s : State) (w : Dword) : State :=
  let r := tileRun w
  { s with
    mem := memWriteBytes s.mem (sliceKey core r.1) ((List.range r.2).map (Config.freeByte s.tick))
    tick := s.tick + 1 }

/-- Discard the work of the copy a hart runs: its records, deferred list, array commands and lease, and the held
segments of its copies, with what they and its records had yet to report. -/
def dropWork (s : State) (hart : Nat) (t : TaskCopy) : State :=
  let core := getCore s (hart / 4)
  let s := setCore s (hart / 4)
    { core with log := core.log.filter fun r => !(r.task && r.tag == t.tag) }
  let gk := groveOf (hart / 4)
  let g := getGrove s gk
  let hit := g.queue.head?.any fun c => c.hart == hart
  let s := setGrove s gk
    { g with queue := g.queue.filter fun c => c.hart != hart, running := g.running && !hit }
  let s := closeLease s hart
  let which := fun (c : CopyCmd) => c.hart == hart && c.task == some (t.reg, t.run) && c.held.isSome
  let h := failHeld (getHart s hart) which s.pk.copies
  let s := setHart s hart { h with
    task := none, parked := [], commandFaults := []
    pendingTrap := h.pendingTrap.filter fun p => p.1.cause != .logerr }
  { s with
    pk := { s.pk with
      copies := s.pk.copies.map fun c => if which c then { c with pos := 2 ^ 32, held := none } else c } }

/-- End a running copy on its hart (15 R308, 13 R265): its work is discarded, and the tiles its commands named
hold unspecified bytes. -/
def dropCopy (s : State) (hart : Nat) : State :=
  match (getHart s hart).task with
  | none => s
  | some t => ((tileCommands s hart).map (·.tile)).foldl (spoilTile (hart / 4)) (dropWork s hart t)

/-- Work that was counted as retired and is hedge waste instead (19 R372 counters 3 and 4). -/
def wasteWork (perf : Vector Dword 16) (work : Nat) : Vector Dword 16 :=
  bump (bump perf 4 work) 3 (2 ^ 64 - work % 2 ^ 64)

/-- Count a copy that is cancelled on its hart: hedge waste when another copy of its registration won, a
cancel otherwise (19 R372). -/
def Hart.countLost (h : Hart) (won : Bool) (start : Dword) : Hart :=
  { h with perf := if won then wasteWork h.perf (h.rwc - start).toNat else bump h.perf 11 1 }

/-- A registration without a copy that was cancelled; its work stays noted while no copy has won (19 R372). -/
def TaskReg.lose (r : TaskReg) (hart : Nat) (tag : BitVec 16) (work : Nat) : TaskReg :=
  { r with
    copies := r.copies.filter fun c => !(c.hart == hart && c.tag == tag)
    lost := if r.state = .won then r.lost else work :: r.lost }

/-- Whether the registration of the acting hart's task has been won (15 R286). -/
def taskWon (s : State) (t : TaskCopy) : Bool :=
  (s.hart.launch.bind (getLaunch s)).any fun l => l.regs.any fun r => r.id == t.reg && r.state == .won

/-- Cancel the running copy for a fault of 15 R310: the hart remembers the registration, which is
released again when the handler returns (17 R324, R328). -/
def cancelForFault (s : State) : State :=
  match s.hart.task, s.hart.launch with
  | some t, some l =>
    let s := { s with hart := s.hart.countLost (taskWon s t) t.startRwc }
    let s := dropCopy s s.hgid
    let s := { s with hart := { s.hart with cancelled := some (l, t.reg, t.run) } }
    match getLaunch s l with
    | some la =>
      setLaunch s { la with regs := la.regs.map fun r =>
        if r.id = t.reg then r.lose s.hgid t.tag (s.hart.rwc - t.startRwc).toNat else r }
    | none => s
  | _, _ => s

/-- A push that waits at the sender is withdrawn when the hart leaves the instruction; the return
re-executes it (13 R232). -/
def withdrawSend (s : State) : State :=
  match s.hart.sendWait with
  | none => s
  | some (t, _) =>
    let c := getCore s (t / 16)
    let q := ((c.senders[t % 16]?).getD []).filter fun m => m.hart != s.hgid || m.keeper
    let s := setCore s (t / 16) { c with senders := c.senders.setIfInBounds (t % 16) q }
    { s with hart := { s.hart with sendWait := none } }

/-- Take a trap, interrupt or event at an instruction boundary (17 R322). If a window's wait is not over
the hart waits first. Windows that have not faulted complete; if any has faulted, the trap is the fault
of the oldest of them. XXPC is overwritten by every trap; where no store is named its value is free
(R325; notes/assumptions/48.md). -/
def takeTrap (s : State) (e : Entry) : State :=
  if windowsWait s then pause s
  else
    let faulted := s.hart.pend.filter fun p => p.fault.isSome
    let s := completeAll s (s.hart.pend.filter fun p => p.fault.isNone)
    let e := match faulted with
      | p :: _ => match p.fault with
        | some t => windowEntry s.hart p t faulted
        | none => e
      | [] => e
    let s := { s with hart := { s.hart with pend := [] } }
    let s := if e.tcan then cancelForFault s else s
    let s := withdrawSend s
    let e := { e with xpc := e.xpc.or (some (Config.freeXpc s.tick)) }
    { s with hart := s.hart.enter (trapTarget s.hart.mode e.trap.cause) e }

/-- A fault at point I: the address of the instruction is saved and nothing else changes (17 R315). -/
def raise (s : State) (c : Cause) (v : Dword) : State :=
  takeTrap s
    { trap := ⟨c, v⟩, epc := s.hart.pc, int := false, async := false, lacount := 0, xpc := none,
      path := [], tcan := false }

/-- A fault at the issue of a class L instruction without a window (17 R323). In the window of an older one that has
faulted the trap is the older one's: this one has issued, counts in SKIP and has its REDO bit. -/
def raiseL (s : State) (c : Cause) (v : Dword) : State :=
  let t : Trap := ⟨c, v⟩
  takeTrap (if windowsFault s && !windowsWait s then onHart s fun h => h.fault (h.window 0 .none 0 false (some t)) else s)
    (faultEntry s.hart t)

/-- The fault of the oldest class L instruction that has faulted (17 R322). -/
def raiseWindow (s : State) : State := takeTrap s (faultEntry s.hart ⟨.illegal, 0⟩)

/-- A trap at point N: the address of the next instruction is saved, and the instruction has retired
(17 R315). While a class L instruction is outstanding the instruction waits, and the fault of one is taken in
its place (R322). -/
def raiseNext (s : State) (c : Cause) (v : Dword) : State :=
  if windowsWait s then stall s
  else if windowsFault s then raiseWindow s
  else
    let s := onHart s Hart.retire
    takeTrap s
      { trap := ⟨c, v⟩, epc := s.hart.pc, int := false, async := false, lacount := 0, xpc := none,
        path := [], tcan := false }

/-- A deferred fault at point S: SXPC holds the store's PC (17 R318, R326). -/
def raiseDeferred (s : State) (t : Trap) (storePc : Dword) : State :=
  takeTrap s
    { trap := t, epc := s.hart.pc, int := false, async := false, lacount := 0, xpc := some storePc,
      path := [], tcan := false }

/-- ILLEGAL with the instruction word (17 R315). -/
def illegal (s : State) : State := raise s .illegal (s.hart.iword.setWidth 64)

/-- PRIV with the instruction word (17 R315). -/
def privFault (s : State) : State := raise s .priv (s.hart.iword.setWidth 64)

/-! ### Issuing class L instructions -/

/-- Close the windows that have no instruction left, oldest first (03 R58); a faulted one traps. -/
def closeWindows (s : State) : State :=
  let due := s.hart.pend.filter (windowOver s.hart)
  if due.any fun p => p.fault.isSome then raiseWindow s else completeAll s due

/-- Close every window (03 R58, 11 R210). -/
def closeAllWindows (s : State) : State :=
  if windowsFault s then raiseWindow s else completeAll s s.hart.pend

/-- Issue a class L instruction: its result is known now and written when its window closes and it has
completed (03 R58; notes/assumptions/7.md). With no window, a result that is not outstanding is written at
once, and a fault is raised at once. A faulted instruction has issued but not retired (15 R303). -/
def issueL (s : State) (la : BitVec 4) (dest : Dest) (flags : Flags) (fp : Bool) (fault : Option Trap) :
    State :=
  let h := s.hart
  let p := h.window la dest flags fp fault
  match fault with
  | some t =>
    if h.lookahead la = 0 then raiseL s t.cause t.val
    else { s with hart := h.fault p }
  | none =>
    if h.lookahead la = 0 ∧ p.out = false then
      let s := completeOne s p
      { s with hart := s.hart.retire }
    else { s with hart := { h with pend := h.pend ++ [p] }.retire }

/-! ### Returning from a trap -/

/-- XSTATUS after RETS or RETM: EN takes ENS (17 R324). -/
def returnStatus (v : Dword) : Dword := (v &&& ~~~(1 : Dword)) ||| (if bit v 6 then 1 else 0)

/-- Place i of the window of a fault, counted from 0: the recorded one, or the word that many words
after the faulting instruction (notes/assumptions/9.md). -/
def pathAt (r : TrapRegs) (i : Nat) : Site := (r.path[i + 1]?).getD ⟨r.epc + dw (4 * (i + 1)), none⟩

/-- The frame word that a return executes again: that of the faulting instruction, where the return goes to
it (03 R62; notes/assumptions/9.md). -/
def redoWord (r : TrapRegs) : Option IWord :=
  (r.path.head?.filter fun p => p.pc == r.epc).bind (·.word)

/-- The instruction-level part of a return (17 R324): mode, EN, handler state, frame, PC and the window
to replay. The b registers count as written by the return itself (07 R136). -/
def Hart.leave (h : Hart) (r : TrapRegs) : Hart :=
  let skip := bits r.lacount 0 4
  let redo := (List.range skip).map fun i => (pathAt r i, bit r.lacount (16 + i))
  let again := r.lacount != 0 || (redoWord r).isSome
  { h.count with
    mode := Mode.ofCode (bits r.status 4 2)
    uih := bit r.status 7
    frame := if bit r.status 10 then r.slot else none
    pc := r.epc
    bAt := Vector.replicate 4 (h.issued + 1)
    replay := if again then redo else []
    replayEnd := if again then some (pathAt r skip).pc else none
    replayWord := redoWord r }

end Sys2Proof.Machine
end

