-- ==== Sys2Proof/Machine/Tables.lean ====
section
/-!
DEFINITION. Translation tables (17 R337, R338): validity of entries, the walk of a stage-2 table in HBM,
and the leaves of a whole table.
-/

namespace Sys2Proof.Machine

/-- Index shifts of the four levels (17 R337). -/
def levelShifts : List Nat := [46, 36, 26, 16]

/-- Whether an HBM byte exists: the die has its stacks (21 R385), or the package is another one of the
domain (01 R17). -/
def hbmPresent (s : State) (pa : Nat) : Bool :=
  if pa / 2 ^ 40 % 256 = s.pk.pkg then (getDie s (hbmDie (pa % 2 ^ 40))).hbm
  else decide (pa / 2 ^ 40 ≤ s.pk.domsz)

/-- V of an entry. -/
def entV (e : Dword) : Bool := bit e 0
/-- LEAF of an entry. -/
def entLeaf (e : Dword) : Bool := bit e 1
/-- HOST of a stage-2 leaf; U of a stage-1 leaf. -/
def entU (e : Dword) : Bool := bit e 5
/-- AB of a stage-2 leaf. -/
def entAb (e : Dword) : Bool := bit e 6
/-- REPL of a stage-2 leaf. -/
def entRepl (e : Dword) : Bool := bit e 7
/-- SHAD of a stage-2 leaf. -/
def entShad (e : Dword) : Bool := bit e 8
/-- LSID of a stage-2 leaf. -/
def entLsid (e : Dword) : Lsid := BitVec.ofNat 10 (bits e 52 10)
/-- The address of a stage-1 entry. -/
def entAddr1 (e : Dword) : Nat := bits e 13 43 * 2 ^ 13
/-- The address of a stage-2 entry. -/
def entAddr2 (e : Dword) : Nat := bits e 13 39 * 2 ^ 13

/-- Whether a stage-1 entry at a level counts as valid (17 R338). -/
def valid1 (shift : Nat) (e : Dword) : Bool :=
  entV e && bits e 56 8 == 0 && bits e 6 7 == 0 &&
    (!entLeaf e || (shift != 46 && entAddr1 e % 2 ^ shift == 0))

/-- Whether a stage-2 entry at a level counts as valid (17 R338). -/
def valid2 (shift : Nat) (e : Dword) : Bool :=
  entV e && bits e 62 2 == 0 && bits e 9 4 == 0 &&
    (!entLeaf e || (shift != 46 && entAddr2 e % 2 ^ shift == 0))

/-- Role codes of a port: 0 off, 1 internal, 2 external (21 R389; notes/assumptions/38.md). -/
def internalRole : Nat := 1
/-- The role code of an external port. -/
def externalRole : Nat := 2

/-- Whether a device physical address lies beyond the load-store domain (11 R222). -/
def beyondDomain (s : State) (pa : Nat) : Bool := decide (s.pk.domsz < pa / 2 ^ 40) && pa / 2 ^ 40 != s.pk.pkg

/-- The port through which a write leaves the domain: the lowest external one that is up (11 R222, 21 R389;
which of several is DESIGN CHOICE, notes/assumptions/56.md). -/
def egressPort (s : State) : Option Nat :=
  (List.range s.pk.ports.length).find? fun i =>
    (s.pk.ports[i]?).any fun p => p.up && p.role == externalRole

/-- Whether a stage-2 leaf names memory that exists, or, by an external port, a place beyond the domain; one
that does not is never installed (11 R222, 21 R385; notes/assumptions/25.md). -/
def leafPresent (s : State) (e : Dword) : Bool :=
  entU e || hbmPresent s (entAddr2 e) || beyondDomain s (entAddr2 e) && (egressPort s).isSome

/-- The device physical address of the entry of an IA in a table. -/
def entryPa (table shift ia : Nat) : Nat := table + 8 * (ia / 2 ^ shift % 1024)

/-- Walk a stage-2 table: the physical address of the leaf entry, the entry and its page size in bits. -/
def walk2 (s : State) (ia : Nat) : List Nat → Nat → Option (Nat × Dword × Nat)
  | [], _ => none
  | sh :: rest, table =>
    let pa := entryPa table sh ia
    if !hbmPresent s pa then none
    else
      let e := dw (memRead s.mem (hbmKey s pa) 8)
      if !valid2 sh e then none
      else if entLeaf e then (if leafPresent s e then some (pa, e, sh) else none)
      else walk2 s ia rest (entAddr2 e)

/-- The package of a key in another package's HBM (17 R336, 21 R384). -/
def keyPackage (k : Nat) : Option Nat :=
  if 2 ^ 48 ≤ k ∧ k < 2 ^ 63 then some ((k - 2 ^ 48) / 2 ^ 40 % 256) else none

/-- Note that the step in progress is bound for an unreachable package, if it is: it then waits
(21 R391; notes/assumptions/40.md). -/
def reach (s : State) (k : Nat) : State :=
  match keyPackage k with
  | some p => if s.pk.unreachable.contains p then { s with away := s.away.or (some (.route p)) } else s
  | none => s

/-- The keys of the entries that the walk of a stage-2 table reads. -/
def walkKeys (s : State) (ia : Nat) : List Nat → Nat → List Nat
  | [], _ => []
  | sh :: rest, table =>
    let pa := entryPa table sh ia
    let e := dw (memRead s.mem (hbmKey s pa) 8)
    if !hbmPresent s pa then []
    else hbmKey s pa :: if valid2 sh e && !entLeaf e then walkKeys s ia rest (entAddr2 e) else []

/-- Whether the walk of a stage-2 table meets an entry in a sector that holds an uncorrectable error: walks
read as plain reads do (11 R399, 17 R337). -/
def marked2 (s : State) (ia : Nat) : List Nat → Nat → Bool
  | [], _ => false
  | sh :: rest, table =>
    let pa := entryPa table sh ia
    let k := hbmKey s pa
    let e := dw (memRead s.mem k 8)
    hbmPresent s pa && (s.pk.marked.contains (k / 32 * 32) ||
      valid2 sh e && !entLeaf e && marked2 s ia rest (entAddr2 e))

/-- The valid leaves under a stage-2 table: physical address of the entry, entry, size in bits, and the
IA base of the page. -/
def leaves2 (s : State) : List Nat → Nat → Nat → List (Nat × Dword × Nat × Nat)
  | [], _, _ => []
  | sh :: rest, table, ia =>
    (List.range 1024).flatMap fun i =>
      let pa := table + 8 * i
      let e := dw (memRead s.mem (hbmKey s pa) 8)
      if !hbmPresent s pa || !valid2 sh e then []
      else if entLeaf e then [(pa, e, sh, ia + i * 2 ^ sh)]
      else leaves2 s rest (entAddr2 e) (ia + i * 2 ^ sh)

/-- The valid stage-2 leaves of a partition. -/
def partLeaves (s : State) (p : Partition) : List (Nat × Dword × Nat × Nat) :=
  match p.s2root with
  | some t => leaves2 s levelShifts t 0
  | none => []

/-- Store an 8-byte table entry in HBM. -/
def writeEntry (s : State) (pa : Nat) (e : Dword) : State :=
  { s with mem := memWrite s.mem (hbmKey s pa) 8 e.toNat }

/-- Store a list of entries. -/
def writeEntries (s : State) : List (Nat × Dword) → State
  | [] => s
  | (pa, e) :: l => writeEntries (writeEntry s pa e) l

end Sys2Proof.Machine
end

