-- ==== Sys2Proof/Machine/Host.lean ====
section
/-!
DEFINITION. The host side every unit reaches: functions and host memory (19 R349, R352, R353), completion
entries (R355), error-queue entries (R381, 17 R320), counters (19 R372), and the end of a launch
(19 R357, R359).
-/

namespace Sys2Proof.Machine

/-- The function of a tenant: VF v serves tenant v - 1 (19 R349). -/
def fnOfTenant (t : Nat) : Nat := t + 1

/-- A function of the package; one that was never created has the Reset column of R352. -/
def getFn (s : State) (n : Nat) : Function :=
  (s.pk.functions.find? fun f => f.num == n).getD (Function.fresh n)

/-- Whether a function exists (19 R349). -/
def fnExists (s : State) (n : Nat) : Bool := s.pk.functions.any fun f => f.num == n

/-- Replace a function that has the same number. -/
def setFn (s : State) (f : Function) : State :=
  { s with pk := { s.pk with functions := s.pk.functions.map fun g => if g.num = f.num then f else g } }

/-- Write bytes of host memory as function `fn` addresses it. -/
def writeHost (s : State) (fn addr : Nat) (bs : List Byte) : State :=
  { s with mem := memWriteBytes s.mem (hostKey fn addr) bs }

/-- A doubleword of host memory. -/
def readHost (s : State) (fn addr : Nat) : Dword := dw (memRead s.mem (hostKey fn addr) 8)

/-- The n bytes of a number, little-endian (00 R2). -/
def bytesOf : Nat → Nat → List Byte
  | 0, _ => []
  | n + 1, v => BitVec.ofNat 8 v :: bytesOf n (v / 256)

/-- The number of a list of bytes, little-endian. -/
def ofBytes : List Byte → Nat
  | [] => 0
  | b :: l => b.toNat + 256 * ofBytes l

/-- Bytes [off + n - 1 : off] of a command entry as a number (19 R355). -/
def cmdAt (c : Cmd) (off n : Nat) : Nat := c.entry.toNat / 2 ^ (8 * off) % 2 ^ (8 * n)

/-- CID of a command. -/
def cmdCid (c : Cmd) : Nat := cmdAt c 2 2
/-- Partition handle operand of a command. -/
def cmdHandle (c : Cmd) : Nat := cmdAt c 8 8

/-- The next index of a ring. -/
def ringNext (i n : Nat) : Nat := if i + 1 < n then i + 1 else 0

/-- Write a completion entry with the current phase, the tail in the QCB, and the MSI-X message
(19 R353, R355). The QCB is where QCBADDR points now, also when that was rewritten while the queues are live (DESIGN
CHOICE: notes/assumptions/111.md). -/
def putCompletion (s : State) (fn : Nat) (e : BitVec 128) : State :=
  let f := getFn s fn
  let e := if f.phase then e ||| (1 <<< 63) else e
  let s := writeHost s fn (f.cqbase.toNat + 16 * f.cqtail) (bytesOf 16 e.toNat)
  let t := ringNext f.cqtail f.cqent
  let s := writeHost s fn (f.qcbaddr.toNat + 88) (bytesOf 2 t)
  let s := setFn s { f with cqtail := t, phase := if t = 0 then !f.phase else f.phase }
  { s with pk := { s.pk with msix := s.pk.msix ++ [(fn, f.vec)] } }

/-- Complete a command: the entry is held while the function's queues are not live (19 R353). -/
def complete (s : State) (c : Cmd) (status : Nat) (value : Dword) : State :=
  let f := getFn s c.fn
  let head := ((f.queues[c.sq]?).map (·.head)).getD 0
  let e : BitVec 128 := BitVec.ofNat 128
    (cmdCid c + c.sq % 8 * 2 ^ 16 + status * 2 ^ 24 + head % 2 ^ 16 * 2 ^ 32 + value.toNat * 2 ^ 64)
  if f.rdy then putCompletion s c.fn e else setFn s { f with waiting := f.waiting ++ [e] }

/-- Whether two error entries are identical but for repeat count and time (19 R381). -/
def ErrEntry.same (a b : ErrEntry) : Bool :=
  a.type == b.type && a.code == b.code && a.part == b.part && a.addr == b.addr && a.detail == b.detail

/-- The 32 bytes of an error entry (19 R381). -/
def ErrEntry.bytes (e : ErrEntry) : List Byte :=
  bytesOf 1 e.type ++ bytesOf 1 e.code ++ bytesOf 2 e.count ++ bytesOf 4 e.part ++
    bytesOf 8 e.addr.toNat ++ bytesOf 8 e.detail.toNat ++ bytesOf 8 e.cycle.toNat

/-- Append an entry to a partition's supervisor error queue, or set OVF (17 R320). An entry identical to
the newest one merges into it (19 R381). -/
def Partition.post (p : Partition) (e : ErrEntry) : Partition :=
  match p.errors.getLast? with
  | some l =>
    if l.same e then { p with errors := p.errors.dropLast ++ [{ l with count := l.count + 1 }] }
    else if p.errors.length < 16 then { p with errors := p.errors ++ [e] }
    else { p with ovf := true }
  | none => { p with errors := [e] }

/-- Write an entry to a VF's error queue (19 R381), and its tail where QCBADDR points now (notes/assumptions/111.md).
Nothing is written while the queues are not live (notes/assumptions/33.md). -/
def putError (s : State) (fn : Nat) (e : ErrEntry) : State :=
  let f := getFn s fn
  if !f.rdy || f.eqent = 0 then s
  else
    match f.lastErr with
    | some l =>
      if l.same e then
        let l := { l with count := l.count + 1 }
        let i := if f.eqtail = 0 then f.eqent - 1 else f.eqtail - 1
        setFn (writeHost s fn (f.eqbase.toNat + 32 * i) l.bytes) { f with lastErr := some l }
      else putNew f
    | none => putNew f
where
  putNew (f : Function) : State :=
    let s := writeHost s fn (f.eqbase.toNat + 32 * f.eqtail) e.bytes
    let t := ringNext f.eqtail f.eqent
    let s := writeHost s fn (f.qcbaddr.toNat + 90) (bytesOf 2 t)
    let s := setFn s { f with eqtail := t, lastErr := some e, errs := f.errs + 1 }
    { s with pk := { s.pk with msix := s.pk.msix ++ [(fn, f.vec)] } }

/-- Post an entry to the guest error queue of a partition's tenant and to the partition's supervisor
(19 R381). -/
def postError (s : State) (handle type code : Nat) (addr detail : Dword) : State :=
  match getPart s handle with
  | none => s
  | some p =>
    let e : ErrEntry :=
      { type := type, code := code, count := 1, part := handle, addr := addr, detail := detail,
        cycle := dw s.cycle }
    putError (setPart s (p.post e)) (fnOfTenant p.tenant) e

/-- A tenant's budgets and counters. -/
def getTenant (s : State) (t : Nat) : Tenant :=
  (s.pk.tenants.find? fun x => x.num == t).getD (Tenant.fresh t)

/-- Replace a tenant's entry, or add it. -/
def setTenant (s : State) (x : Tenant) : State :=
  { s with pk := { s.pk with
    tenants := if s.pk.tenants.any (fun y => y.num == x.num)
      then s.pk.tenants.map fun y => if y.num = x.num then x else y
      else s.pk.tenants ++ [x] } }

/-- Add to counter i of a tenant (19 R372). -/
def countTenant (s : State) (t i n : Nat) : State :=
  let x := getTenant s t
  setTenant s { x with counters := bump x.counters i n }

/-- Add the counts of a context to its tenant when the context ends (19 R372). -/
def addCounts (a b : Vector Dword 16) : Vector Dword 16 := Vector.zipWith (fun x y => x + y) a b

/-- Count a window refusal at a target core (11 R213, 19 R372 counter 8). -/
def countRefusal (s : State) (core : Nat) : State :=
  match tenantOf s core with
  | some t => countTenant s t 8 1
  | none => s

/-! ### Ready queues (15 R299) -/

/-- The identity of a registration's task (15 R276). -/
def TaskReg.ident (r : TaskReg) : Nat := dbits r.desc 0 48
/-- Its timestamp. -/
def TaskReg.ts (r : TaskReg) : Nat := dbits r.desc 64 64

/-- Whether (ts, id) of a registration is below another's. -/
def TaskReg.before (a b : TaskReg) : Bool := decide (a.ts < b.ts) || (a.ts == b.ts && decide (a.ident < b.ident))

/-- A registration of a launch. -/
def regOf (l : Launch) (id : Nat) : Option TaskReg := l.regs.find? fun r => r.id == id

/-- Whether a ready task goes before another: priority class, TS, identity (15 R299), and among tasks of different
launches that agree in these the older launch (notes/assumptions/94.md). -/
def readyBefore (a b : Launch × TaskReg) : Bool :=
  decide (a.2.prio < b.2.prio) || (a.2.prio == b.2.prio && (a.2.before b.2 ||
    (a.2.ts == b.2.ts && a.2.ident == b.2.ident && decide (a.1.key < b.1.key))))

/-- The ready tasks that a list of queue entries names. -/
def entryTasks (s : State) (es : List (Nat × Nat)) : List (Launch × TaskReg) :=
  es.filterMap fun e => (getLaunch s e.1).bind fun l => (regOf l e.2).map fun r => (l, r)

/-- The first of a list of ready tasks. -/
def bestTask : List (Launch × TaskReg) → Option (Launch × TaskReg)
  | [] => none
  | a :: l =>
    match bestTask l with
    | some b => if readyBefore b a then some b else some a
    | none => some a

/-- Move the best pool task bound for a grove into its queue while the queue has room (15 R299). -/
def refillReady (s : State) (gk : Nat) : State :=
  let g := getGrove s gk
  let d := getDie s (gk / 32)
  if 64 ≤ g.ready.length then s
  else
    match bestTask (entryTasks s ((d.pool.filter fun p => p.1 == gk).map Prod.snd)) with
    | some (l, r) =>
      let s := setGrove s gk { g with ready := g.ready ++ [(l.key, r.id)] }
      setDie s (gk / 32) { d with pool := d.pool.filter fun p => p.2 != (l.key, r.id) }
    | none => s

/-- Fill a grove's ready queue from its die's pool, as far as its 64 entries allow. -/
def refillGrove (gk : Nat) : Nat → State → State
  | 0, s => s
  | n + 1, s => refillGrove gk n (refillReady s gk)

/-- Fill the ready queues of the listed groves. -/
def refillAll (s : State) : State := (s.groves.map Prod.fst).foldl (fun s gk => refillGrove gk 64 s) s

/-! ### Commands that are discarded (13 R257, R265) -/

/-- MARK (13 R257). -/
def Channel.mark (c : Channel) : BitVec 32 := c.live.head?.getD c.next

/-- Whether an identity is covered (13 R257). -/
def Channel.covered (c : Channel) (id : BitVec 32) : Bool :=
  decide ((c.next - c.mark).toNat ≤ (id - c.mark).toNat)

/-- Fire an armed identity that has become covered (13 R258). -/
def Channel.fire (c : Channel) : Channel :=
  match c.armed with
  | some id => if c.covered id then { c with armed := none, due := true } else c
  | none => c

/-- Whether a hart's channels are still those of an issuer. -/
def ContextRef.current (o : ContextRef) (h : Hart) : Bool := h.era == o.era && h.lidx == o.lidx

/-- Whether a saved context of a launch is an issuer's (17 R334). -/
def ContextRef.savedIn (o : ContextRef) (l : Launch) : Bool := l.contexts.any fun e => e.1 == o.hart && o.current e.2

/-- Change an issuer's context: its hart, or the saved context while another is resident (17 R334). Nothing is
changed where neither is left. -/
def onContext (s : State) (o : ContextRef) (f : Hart → Hart) : State :=
  let h := getHart s o.hart
  if o.current h then setHart s o.hart (f h)
  else
    match o.launch.bind (getLaunch s) with
    | some l => setLaunch s { l with
        contexts := l.contexts.map fun e => if e.1 = o.hart ∧ o.current e.2 then (e.1, f e.2) else e }
    | none => s

/-- The issuer of a copy command. -/
def CopyCmd.context (c : CopyCmd) : ContextRef := { hart := c.hart, launch := c.launch, lidx := c.lidx, era := c.era }

/-- Whether a hart's channels are still those a command was issued on. -/
def CopyCmd.current (c : CopyCmd) (h : Hart) : Bool := c.context.current h

/-- Whether a saved context of a launch is the one a command was issued in (17 R334). -/
def CopyCmd.savedIn (c : CopyCmd) (l : Launch) : Bool := c.context.savedIn l

/-- Change the context a command was issued in. -/
def onOwner (s : State) (c : CopyCmd) (f : Hart → Hart) : State := onContext s c.context f

/-- Add to counter i of the context a command was issued in, while it is resident, which its tenant's total includes
(17 R334), or else of the tenant (19 R372; notes/assumptions/89.md). -/
def countOwner (s : State) (c : CopyCmd) (i n : Nat) : State :=
  let h := getHart s c.hart
  if c.current h then setHart s c.hart { h with perf := bump h.perf i n }
  else
    match tenantOf s (c.hart / 4) with
    | some t => countTenant s t i n
    | none => s

/-- Change the channel of a command, if its context's channels are still those it was issued on. -/
def onChan (s : State) (c : CopyCmd) (f : Channel → Channel) : State := onOwner s c fun h => h.withChan c.ch f

/-- A command is over: its identity is covered once every earlier one is, and an armed interrupt may fire
(13 R257, R258). -/
def coverCopy (s : State) (c : CopyCmd) : State :=
  onChan s c fun k => { k with live := k.live.filter fun i => i != c.id }.fire

/-- Discard copy commands; their identities count as complete. -/
def discardCopies (s : State) (which : CopyCmd → Bool) : State :=
  let t := (s.pk.copies.filter which).foldl coverCopy s
  { t with pk := { t.pk with copies := t.pk.copies.filter fun c => !which c } }

/-! ### The end of a launch -/

/-- What the return from an event's handler would have released again, though the handler no longer runs on a hart:
it is released at once, by the schedulers of its launch (15 R310; notes/assumptions/66.md). What is of the launch
`own` is not: that launch leaves the hart itself. -/
def orphan (own : Option Nat) (s : State) (which : Option (Nat × Nat × Nat)) : State :=
  match which with
  | none => s
  | some (key, reg, run) =>
    if own = some key then s
    else
      match getLaunch s key with
      | some l => setLaunch s { l with orphans := l.orphans ++ [(reg, run)] }
      | none => s

/-- An event of another launch that can no longer be delivered on a hart: it goes to the guest error queue as
undelivered, and its registration is released again at once (15 R310, 17 R327; notes/assumptions/66.md). -/
def orphanEvent (own : Option Nat) (s : State) (e : Event) : State :=
  match e.resume.bind fun w => getLaunch s w.1 with
  | some l =>
    if own = some l.key then s
    else orphan own (postError s l.part 3 e.trap.cause.code e.trap.val (dw (2 ^ 63))) e.resume
  | none => s

/-- The events queued at a hart that ends, and those whose handlers it has not returned from. -/
def orphanAll (s : State) (hart : Nat) : State :=
  let h := getHart s hart
  h.fromEvents.foldl (orphan h.launch) (h.events.foldl (orphanEvent h.launch) s)

/-- Unload a hart: its context ends, its counts go to the tenant (19 R372) and its issue cycles to its grove (R369).
The channels of one that ran tasks go on to its next task (15 R279). -/
def unloadHart (s : State) (hart : Nat) : State :=
  let s := orphanAll (noteIssues s hart) hart
  let h := (getHart s hart).dropBlocks
  let tasks := (h.launch.bind (getLaunch s)).any (·.isTask)
  let s := match tenantOf s (hart / 4) with
    | some t =>
      let x := getTenant s t
      setTenant s { x with counters := addCounts x.counters h.perf }
    | none => s
  setHart s hart
    { h with
      run := .unloaded, launch := none, initRun := false, task := none, pend := [], frame := none
      replay := [], replayEnd := none, replayWord := none, fetch := none, alignHold := none, events := []
      commandFaults := [], fromEvents := [], cancelled := none, pendingTrap := none, waitSince := none
      waitStamp := none, sendWait := none, inv := none, waitRoute := none, stall := none, reserved := none
      perf := Vector.replicate 16 0, microjoule := 0, lease := none, parked := []
      era := if tasks then h.era else s.pk.nextCopy
      chans := if tasks then h.chans else Vector.replicate 8 Channel.fresh }

/-- A hart that holds a context of another launch, between its tasks, gives way to a new context; what is queued at
the hart stays queued there, for the handler to run over whatever the hart then runs (15 R310, 17 R327). -/
def vacate (s : State) (hart : Nat) : State :=
  let old := getHart s hart
  if old.launch.isNone then s
  else
    let t := unloadHart (setHart s hart { old with events := [] }) hart
    setHart t hart { getHart t hart with events := old.events }

/-- Apply a function to every listed unit. -/
def mapUnits {α : Type} (f : α → α) (l : List (Nat × α)) : List (Nat × α) :=
  l.map fun (k, a) => (k, f a)

/-- A core's senders without the messages of a launch (13 R231). -/
def Core.withdraw (c : Core) (launch : Option Nat) : Core :=
  { c with senders := c.senders.map fun q => q.filter fun m => m.launch != launch }

/-- The harts that hold a context or a task of a launch. -/
def launchHarts (s : State) (key : Nat) : List Nat :=
  (knownHarts s).filter fun h => (getHart s h).launch == some key

/-- Stop the harts of a launch. One that is ended discards their records, array commands and copies
(notes/assumptions/31.md); one that completed has published its logs, and its accepted commands and
outstanding copies go on (17 R347, 13 R250). -/
def dropHarts (s : State) (done : Bool) : List Nat → State
  | [] => s
  | h :: l =>
    if done then dropHarts (unloadHart s h) done l else
    let s := dropCopy s h
    let c := getCore s (h / 4)
    let s := setCore s (h / 4)
      { c with
        log := c.log.filter fun r => r.hart.toNat != h % 4
        held := if c.held.any (fun p => (c.log.any fun r => r.rid == p.1 && r.hart.toNat == h % 4))
          then none else c.held
        logerr := c.logerr.filter fun e => e.hart.toNat != h % 4 }
    let of := (getHart s h).launch
    let s := { s with
      core := s.core.withdraw of
      cores := mapUnits (Core.withdraw · of) s.cores }
    let gk := groveOf (h / 4)
    let g := getGrove s gk
    let hit := g.queue.head?.any fun c => c.hart == h
    let s := setGrove s gk
      { g with queue := g.queue.filter fun c => c.hart != h, running := g.running && !hit }
    let s := closeLease s h
    let s := discardCopies s fun c => c.hart == h
    dropHarts (unloadHart s h) done l

/-- Clear SHAD in every stage-2 leaf of a partition (19 R383). -/
def clearShad (s : State) (handle : Nat) : State :=
  match getPart s handle with
  | some p =>
    writeEntries s ((partLeaves s p).filterMap fun e =>
      if entShad e.2.1 then some (e.1, e.2.1 &&& ~~~(0x100 : Dword)) else none)
  | none => s

/-- A grove's ready queue without the tasks of a launch. -/
def Grove.without (key : Nat) (g : Grove) : Grove :=
  { g with ready := g.ready.filter fun r => r.1 != key }

/-- A die pool without the tasks of a launch. -/
def Die.without (key : Nat) (d : Die) : Die := { d with pool := d.pool.filter fun r => r.2.1 != key }

/-- The tasks of a launch leave the ready queues and pools, and tasks of others move up (15 R299). -/
def leaveQueues (s : State) (key : Nat) : State :=
  refillAll { s with
    groves := mapUnits (Grove.without key) s.groves
    dies := mapUnits (Die.without key) s.dies }

/-- A die without the dependency counters of a launch (15 R275, R295). -/
def Die.freeCounters (key : Nat) (d : Die) : Die := { d with counters := d.counters.filter fun c => c.1 != key }

/-- The counts of a launch's saved contexts go to their tenant (19 R372). -/
def countContexts (s : State) (l : Launch) : State :=
  match getPart s l.part with
  | some p =>
    let x := getTenant s p.tenant
    setTenant s { x with counters := (l.contexts.map fun c => c.2.perf).foldl addCounts x.counters }
  | none => s

/-- Remove a launch with everything that waits for it; no completion is written. -/
def removeLaunch (s : State) (key : Nat) (done : Bool) : State :=
  let s := leaveQueues (dropHarts s done (launchHarts s key)) key
  let s := { s with dies := mapUnits (Die.freeCounters key) s.dies }
  let s := match getLaunch s key with
    | some l => countContexts s l
    | none => s
  let s := if done then s else discardCopies s fun c => c.launch == some key
  { s with pk := { s.pk with launches := s.pk.launches.filter fun l => l.key != key } }

/-- End a launch with a completion (19 R356, R359). A PREEMPT that waits for the launch completes with it, and a
RESUME that waits with ENDED, as its launch will not run again (notes/assumptions/65.md). -/
def finishLaunch (s : State) (key status : Nat) (value : Dword) : State :=
  match getLaunch s key with
  | none => s
  | some l =>
    let s := match l.stopCmd with
      | some c => complete s c (if l.state = .queued then 12 else 0) 0
      | none => s
    let s := complete (removeLaunch s key (status == 0)) l.cmd status value
    if !l.kept.isEmpty && !(s.pk.launches.any fun o => o.part == l.part && !o.kept.isEmpty) then
      clearShad s l.part
    else s

end Sys2Proof.Machine
end

