-- ==== Sys2Proof/Machine/Labels.lean ====
section
/-!
DEFINITION. Label sets (11 R216 to R221): the partition's table, interning, unions, and the labels of
harts and banks.
-/

namespace Sys2Proof.Machine

/-- The set of an LSID, if it is allocated (11 R216). -/
def maskOf (p : Partition) (l : Lsid) : Option Mask := assocGet p.labels l.toNat

/-- The set of an LSID in the partition of a core; an unallocated one names the empty set. -/
def maskAt (s : State) (core : Nat) (l : Lsid) : Mask := (maskOf (partOrNone s core) l).getD 0

/-- Whether a set is within another. -/
def subMask (a b : Mask) : Bool := a &&& b == a

/-- The LSID of a set that the table holds. -/
def findLabel (p : Partition) (m : Mask) : Option Nat := (p.labels.find? fun e => e.2 == m).map Prod.fst

/-- The LSIDs a core names: its banks, its records, and the sets of its messages (11 R221). -/
def coreLsids (p : Partition) (co : Core) : List Nat :=
  co.blbl.toList.map (fun d => bits d 0 10) ++ co.log.map (fun r => r.lsid.toNat) ++
    (co.queues.toList ++ co.senders.toList).flatten.filterMap fun m => findLabel p m.label

/-- The LSIDs a hart names: HLA and its tiles (11 R221). -/
def hartLsids (h : Hart) : List Nat :=
  h.hla.toNat :: h.z.toList.filterMap fun t => t.map fun x => x.lsid.toNat

/-- Every LSID that a page, bank, tile register, HLA, record, queue message or policy names
(11 R221). -/
def namedLsids (s : State) (p : Partition) : List Nat :=
  0 :: ((partLeaves s p).map fun e => (entLsid e.2.1).toNat) ++
    ((knownCores s).filter (covers p.handle)).flatMap (fun k => coreLsids p (getCore s k)) ++
    ((knownHarts s).filter fun h => covers p.handle (h / 4)).flatMap (fun h => hartLsids (getHart s h)) ++
    ((s.pk.launches.filter fun l => l.part == p.handle).flatMap fun l =>
      l.contexts.flatMap (fun c => hartLsids c.2) ++ l.saved.flatMap fun c => coreLsids p c.2) ++
    s.pk.policies.filterMap fun q => findLabel p q.set

/-- The free LSIDs of a table (11 R216). -/
def freeLsids (labels : List (Nat × Mask)) : List Nat :=
  (List.range 1024).filter fun i => !(labels.any fun e => e.1 == i)

/-- Intern a set: its LSID, a free one (which one is left open; notes/assumptions/17.md), or, when the
table is full, one that Understory reclaims (11 R221). -/
def intern (s : State) (handle : Nat) (m : Mask) : State × Option Lsid :=
  match getPart s handle with
  | none => (s, none)
  | some p =>
    match findLabel p m with
    | some i => (s, some (BitVec.ofNat 10 i))
    | none =>
      let labels := if (freeLsids p.labels).isEmpty then
          let named := namedLsids s p
          p.labels.filter fun e => named.contains e.1
        else p.labels
      let free := freeLsids labels
      let (n, s) := draw s
      match free[Config.freeLsid n % free.length]? with
      | none => (setPart s { p with labels := labels }, none)
      | some i => (setPart s { p with labels := labels ++ [(i, m)] }, some (BitVec.ofNat 10 i))

/-- End a launch for which a union found no LSID (11 R221, 19 R381). -/
def labelFull (s : State) (handle : Nat) (launch : Option Nat) : State :=
  let s := postError s handle 8 0 0 0
  match launch with
  | some k => finishLaunch s k 8 0
  | none => s

/-- The union of an LSID with a set (11 R221); `launch` is torn down when the table is full. What is then to
become of the unit or HLA that needed the union is not stated: it keeps its LSID, and the unit is applied (DESIGN
CHOICE: notes/assumptions/57.md). -/
def unionLabel (s : State) (handle : Nat) (launch : Option Nat) (a : Lsid) (m : Mask) : State × Lsid :=
  match getPart s handle with
  | none => (s, a)
  | some p =>
    let u := (maskOf p a).getD 0 ||| m
    if u = (maskOf p a).getD 0 then (s, a)
    else
      match intern s handle u with
      | (s, some l) => (s, l)
      | (s, none) => (labelFull s handle launch, a)

/-- The handle of a core's partition, 0 when it has none. -/
def handleAt (s : State) (core : Nat) : Nat := (partOrNone s core).handle

/-- HLA of the acting hart becomes its union with a set (11 R218). -/
def widenHla (s : State) (m : Mask) : State :=
  let (s, l) := unionLabel s (handleAt s s.cid) s.hart.launch s.hart.hla m
  { s with hart := { s.hart with hla := l } }

/-- The bank of a slice offset (01 R18). -/
def bankOf (off : Nat) : Nat := off / 0x8000

/-- The label of a bank as a set (11 R220). -/
def bankMask (s : State) (core bank : Nat) : Mask :=
  maskAt s core (BitVec.ofNat 10 (bits (((getCore s core).blbl[bank]?).getD 0) 0 10))

/-- Widen a bank's label (11 R219). -/
def widenBank (s : State) (launch : Option Nat) (core bank : Nat) (m : Mask) : State :=
  let old : Lsid := BitVec.ofNat 10 (bits (((getCore s core).blbl[bank]?).getD 0) 0 10)
  let (s, l) := unionLabel s (handleAt s core) launch old m
  if l = old then s
  else
    let co := getCore s core
    setCore s core { co with blbl := co.blbl.setIfInBounds bank (l.setWidth 64) }

/-- The label of the acting hart as a set. -/
def hlaMask (s : State) : Mask := maskAt s s.cid s.hart.hla

/-- The singleton of a tenant (11 R217). -/
def tenantMask (t : Nat) : Mask := BitVec.ofNat 192 (2 ^ t)

end Sys2Proof.Machine
end

