-- ==== Sys2Proof/Machine/Address.lean ====
section
/-!
DEFINITION. Addresses before translation: forms (11 R183), the checks of R184 and R185, windows (R211,
R213), private bytes (R189), and the spill window (07 R127).
-/

namespace Sys2Proof.Machine

/-- Who makes an access: its core, the mode and stage-1 root it uses, and its launch. -/
structure Agent where
  core : Nat
  mode : Mode
  root : Dword
  launch : Option Nat
  deriving DecidableEq, Repr

/-- The acting hart as the agent of its own accesses. -/
def State.agent (s : State) : Agent :=
  { core := s.cid, mode := s.hart.mode, root := s.hart.s1base, launch := s.hart.launch }

/-- The form of an address (11 R183). -/
inductive Form
  | slice (cgid : BitVec 20) (off : Nat)
  | virt (va : Nat)
  | bad
  deriving DecidableEq, Repr

/-- The form of an address issued by a core; the alias is the S-address of its own slice (11 R183). -/
def formOf (s : State) (core : Nat) (e : Dword) : Form :=
  if bit e 63 then
    if bits e 39 24 = 0 then .slice (BitVec.ofNat 20 (bits e 19 20)) (bits e 0 19) else .bad
  else if bits e 56 7 = 0 then .virt e.toNat
  else if bits e 56 7 = 64 ∧ bits e 19 37 = 0 then .slice (cgidOf s core) (bits e 0 19)
  else .bad

/-- The S-address of a slice byte (11 R183). -/
def sAddress (cgid : BitVec 20) (off : Nat) : Dword := dw (2 ^ 63 + cgid.toNat * 2 ^ 19 + off)

/-- An address in one spelling per byte: aliases become S-addresses (11 R183). -/
def normalise (s : State) (core : Nat) (e : Dword) : Dword :=
  match formOf s core e with
  | .slice c off => sAddress c off
  | _ => e

/-- The parts of an access, one per sector, lowest first (07 R125, R126). -/
def partsFuel : Nat → Dword → Nat → List (Dword × Nat)
  | 0, _, _ => []
  | fuel + 1, e, n =>
    let k := 32 - bits e 0 5
    if n ≤ k then [(e, n)] else (e, k) :: partsFuel fuel (e + dw k) (n - k)

/-- The parts of an access of n bytes. -/
def parts (e : Dword) (n : Nat) : List (Dword × Nat) := partsFuel (n / 32 + 2) e n

/-- The slice offsets of a core's log (11 R185). -/
def inLog (co : Core) (off n : Nat) : Bool :=
  decide (co.logbase.toNat < off + n) && decide (off < co.logbase.toNat + co.logsize.toNat)

/-- Rows 1 to 6 of 11 R184 for one part. `die` requires the issuing core's die (row 3); copies only
require its package (13 R253). -/
def addrCheck (s : State) (ag : Agent) (write die : Bool) (e : Dword) (n : Nat) : Option Cause :=
  match formOf s ag.core e with
  | .bad => some .addr
  | .virt va => if 2 ^ 56 < va + n then some .addr else none
  | .slice c off =>
    let far := if die then c.toNat / 512 != (cgidOf s ag.core).toNat / 512
      else c.toNat / 4096 != s.pk.pkg
    if far then some .diecross
    else
      let t := c.toNat % 4096
      if !inService s t then some .addr
      else if capacity s t < off + n then some .addr
      else if t = ag.core ∧ off < 0x1000 ∧ ag.mode ≠ .machine then some .addr
      else if t = ag.core ∧ inLog (getCore s t) off n ∧ (write ∨ ag.mode = .user) then some .addr
      else none

/-- The first part of an access that raises ADDR or DIECROSS, as its trap (07 R126). -/
def addrFault (s : State) (ag : Agent) (write die : Bool) : List (Dword × Nat) → Option Trap
  | [] => none
  | (e, n) :: l =>
    match addrCheck s ag write die e n with
    | some c => some ⟨c, e⟩
    | none => addrFault s ag write die l

/-- Whether a core lies in the partition of another; a core in no partition reaches only itself
(11 R184 row 7; notes/assumptions/28.md). -/
def samePartition (s : State) (core t : Nat) : Bool :=
  match partOf s core with
  | some p => covers p.handle t
  | none => core == t

/-- What a window grants (11 R211). -/
structure Grants where
  en : Bool
  rd : Bool
  pb : Bool
  ch : Bool
  deriving DecidableEq, Repr

/-- Whether a window register opens a page of the slice (11 R211). -/
def winCovers (w : Dword) (page : Nat) : Bool :=
  bit w 63 && decide (bits w 12 7 ≤ page) && decide (page ≤ bits w 28 7)

/-- The grants of a core's windows at an offset; overlapping windows add up (11 R213). -/
def grantsAt (co : Core) (off : Nat) : Grants :=
  let ws := co.win.toList.filter fun w => winCovers w (off / 4096)
  { en := !ws.isEmpty, rd := ws.any (bit · 62), pb := ws.any (bit · 61), ch := ws.any (bit · 60) }

/-- Whether every byte of a part is private to a core: in its own slice outside every open window
(11 R189). A part never passes a 4 KiB page. -/
def isPrivate (s : State) (core : Nat) (e : Dword) : Bool :=
  match formOf s core e with
  | .slice c off => c == cgidOf s core && !(grantsAt (getCore s core) off).en
  | _ => false

/-- stack_address of 07 R127 for the acting hart: the address used, none for ADDR, and whether it was
redirected. -/
def stackAddress (h : Hart) (e : Dword) (n : Nat) : Option (Dword × Bool) :=
  let wlo := 2 ^ 62 + bits h.spillbase 0 19
  let d := wlo - e.toNat
  if wlo ≤ e.toNat ∨ 2 ^ 32 < d then some (e, false)
  else if wlo < e.toNat + n then none
  else if bits h.ovfptr 3 53 * 8 < d then none
  else some (dw (bits h.ovfptr 3 53 * 8 - d), true)

/-- The address used by a load or store with base register `a` (07 R121, R127). -/
def baseAddress (h : Hart) (a : Reg) (e : Dword) (n : Nat) : Option (Dword × Bool) :=
  if a = 2 then stackAddress h e n else some (e, false)

end Sys2Proof.Machine
end

