-- ==== Sys2Proof/Machine/Translate.lean ====
section
/-!
DEFINITION. Two-stage translation (17 R336 to R342) with the leaves a die's cache slices hold (R341,
R342), label widening of pages (11 R219), replicated pages (17 R343) and shadow pages (19 R383).
-/

namespace Sys2Proof.Machine

/-- What an access needs of a page: read, write, execute, and the cause of an absent entry (17 R339). -/
structure Need where
  r : Bool
  w : Bool
  x : Bool
  page : Cause
  deriving DecidableEq, Repr

/-- A load's need. -/
def needRead : Need := { r := true, w := false, x := false, page := .ldpage }
/-- A store's need. -/
def needWrite : Need := { r := false, w := true, x := false, page := .stpage }
/-- A fetch's need: every failure is FETCH (17 R339). -/
def needFetch : Need := { r := false, w := false, x := true, page := .fetch }

/-- The cause of a refused permission (17 R339). -/
def Need.refused (n : Need) : Cause := if n.x then .fetch else .perm

/-- Whether a leaf grants what is needed; R, W, X are bits 2, 3, 4 (17 R338, R339). -/
def granted (n : Need) (e : Dword) : Bool :=
  (!n.r || bit e 2) && (!n.w || bit e 3) && (!n.x || bit e 4)

/-- The cache slice of a V-address (17 R341). -/
def cacheSlice (va : Nat) : Nat :=
  let par := fun i => ((List.range 40).filter fun j => j % 3 == i && va / 2 ^ (16 + j) % 2 == 1).length % 2
  par 2 * 4 + par 1 * 2 + par 0

/-- Whether a leaf held in a slice covers an address. -/
def HeldLeaf.covers (l : HeldLeaf) (slice part : Nat) (root : Dword) (a : Nat) : Bool :=
  l.slice == slice && l.part == part && l.root == root && l.page == a / 2 ^ l.bits

/-- A list of held leaves with one added in place of those of the same page of its slice. -/
def holdLeaf (l : List HeldLeaf) (n : HeldLeaf) : List HeldLeaf :=
  n :: l.filter fun o =>
    !(o.slice == n.slice && o.part == n.part && o.root == n.root && o.page == n.page && o.bits == n.bits)

/-- Use a held leaf or not: the choice is the device's (17 R342; notes/assumptions/14.md). -/
def useHeld (s : State) (o : Option HeldLeaf) : State × Option HeldLeaf :=
  match o with
  | none => (s, none)
  | some l =>
    let (n, s) := draw s
    (s, if Config.tlbHit n then some l else none)

/-- An access whose stage-2 entry is invalid goes to Understory's service and waits; once that has found the
IA unmapped, the access faults (17 R339; notes/assumptions/59.md). -/
def askService (s : State) (handle ia : Nat) : State :=
  if s.pk.asks.contains (handle, ia / 65536, true) then
    { s with pk := { s.pk with asks := s.pk.asks.filter fun a => a != (handle, ia / 65536, true) } }
  else { s with away := s.away.or (some (.service handle (ia / 65536))) }

/-- The stage-2 leaf of an IA with its page size in bits, from the cache slice or by a walk (17 R337, R339,
R341). A walk that meets an uncorrectable error gives ECC (11 R399), and one that reads a table in an unreachable
package waits (21 R391). -/
def leaf2 (s : State) (die : Nat) (p : Partition) (slice : Nat) (n : Need) (ia : Nat) :
    State × Except Cause (Dword × Nat) :=
  match useHeld s ((getDie s die).held2.find? fun l => l.covers slice p.handle 0 ia) with
  | (s, some l) => (s, .ok (l.leaf, l.bits))
  | (s, none) =>
    match p.s2root with
    | none => (s, .error n.page)
    | some t =>
      let s := (walkKeys s ia levelShifts t).foldl reach s
      if marked2 s ia levelShifts t then (s, .error .ecc)
      else
        match walk2 s ia levelShifts t with
        | none => (askService s p.handle ia, .error n.page)
        | some (_, e, b) =>
          let d := getDie s die
          let h : HeldLeaf :=
            { slice := slice, part := p.handle, root := 0, page := ia / 2 ^ b, bits := b, leaf := e }
          (setDie s die { d with held2 := holdLeaf d.held2 h }, .ok (e, b))

/-- The key of a byte of a stage-2 page: HBM, or host memory through the tenant's function (17 R336). -/
def pageKey (s : State) (p : Partition) (e : Dword) (bits ia : Nat) : Nat :=
  let a := entAddr2 e + ia % 2 ^ bits
  if entU e then hostKey (fnOfTenant p.tenant) a else hbmKey s a

/-- Whether a stage-2 leaf leads to a byte beyond the domain, where nothing is read (11 R222). -/
def leafBeyond (s : State) (e : Dword) : Bool := !entU e && beyondDomain s (entAddr2 e)

/-- The place of a translated byte: its key, the page's stage-2 leaf and size, its IA, the handle and
tenant of the partition, and whether it is read from a copy in the reading die's HBM (17 R343). -/
structure Place where
  key : Nat
  leaf : Dword
  bits : Nat
  ia : Nat
  handle : Nat
  tenant : Nat
  copied : Bool
  deriving DecidableEq, Repr

/-- The copies of a page, if it has copies: the sectors in which they hold an uncorrectable error (17 R343). -/
def copyOf (s : State) (handle page : Nat) : Option (List Nat) :=
  (s.pk.replicas.find? fun r => r.1 == handle && r.2.1 == page).map (·.2.2)

/-- Whether an access reads a page from a copy (17 R343). -/
def readsCopy (s : State) (n : Need) (handle page : Nat) (e : Dword) : Bool :=
  entRepl e && !n.w && (copyOf s handle page).isSome

/-- A place is read or written where it lies: in an unreachable package the step waits, but for a copy, which lies in
the reading die's HBM (17 R343, 21 R391). -/
def reachPlace (s : State) (pl : Place) : State := if pl.copied then s else reach s pl.key

/-- Whether the sector of a place holds an uncorrectable error, in its home or in the copy it is read from
(11 R399, 17 R343). -/
def placeMarked (s : State) (pl : Place) : Bool :=
  let marks := if pl.copied then (copyOf s pl.handle (pl.ia / 2 ^ pl.bits)).getD [] else s.pk.marked
  marks.contains (pl.key / 32 * 32)

/-- Whether the host rejects a read of its memory: the host's choice (17 R339; notes/assumptions/60.md). -/
def hostRejects (s : State) (key : Nat) : State × Bool :=
  if isHostKey key then
    let (n, s) := draw s
    (s, Config.hostRejects n)
  else (s, false)

/-- The place of a byte of a page as an access of a partition's core reaches it (17 R336, R343). -/
def placeIn (s : State) (p : Partition) (n : Need) (ia : Nat) (leaf : Dword × Nat) : Place :=
  { key := pageKey s p leaf.1 leaf.2 ia, leaf := leaf.1, bits := leaf.2, ia := ia, handle := p.handle
    tenant := p.tenant, copied := readsCopy s n p.handle (ia / 2 ^ leaf.2) leaf.1 }

/-- Walk a stage-1 table: each table is read at an IA through stage 2 (17 R337), from a copy of its page where there
is one (R343). An entry in a sector that holds an uncorrectable error gives ECC (11 R399), and one in host memory whose
read the host rejects gives the cause of a refused permission (R339). -/
def walk1 (s : State) (die : Nat) (p : Partition) (slice : Nat) (n : Need) (va : Nat) :
    List Nat → Nat → State × Except Cause (Dword × Nat)
  | [], _ => (s, .error n.page)
  | sh :: rest, table =>
    let ia := entryPa table sh va
    match leaf2 s die p slice n ia with
    | (s, .error c) => (s, .error c)
    | (s, .ok l) =>
      let pl := placeIn s p needRead ia l
      if !granted needRead pl.leaf then (s, .error n.refused)
      else if leafBeyond s pl.leaf then (s, .error n.page)
      else if placeMarked s pl then (s, .error .ecc)
      else
        match hostRejects (reachPlace s pl) pl.key with
        | (s, true) => (s, .error n.refused)
        | (s, false) =>
          let e := dw (memRead s.mem pl.key 8)
          if !valid1 sh e then (s, .error n.page)
          else if entLeaf e then (s, .ok (e, sh))
          else walk1 s die p slice n va rest (entAddr1 e)

/-- The stage-1 leaf of a V-address, from its cache slice or by a walk (17 R340 to R342). -/
def leaf1 (s : State) (die : Nat) (p : Partition) (root : Dword) (n : Need) (va : Nat) :
    State × Except Cause (Dword × Nat) :=
  let r := dw (bits root 13 43 * 2 ^ 13)
  let slice := cacheSlice va
  match useHeld s ((getDie s die).held1.find? fun l => l.covers slice p.handle r va) with
  | (s, some l) => (s, .ok (l.leaf, l.bits))
  | (s, none) =>
    match walk1 s die p slice n va levelShifts r.toNat with
    | (s, .error c) => (s, .error c)
    | (s, .ok (e, b)) =>
      let d := getDie s die
      let h : HeldLeaf :=
        { slice := slice, part := p.handle, root := r, page := va / 2 ^ b, bits := b, leaf := e }
      (setDie s die { d with held1 := holdLeaf d.held1 h }, .ok (e, b))

/-- The place of a V-address and its stage-1 leaf, before the page's permissions are judged (17 R336). What
lies beyond the domain is only written (11 R222). -/
def placeOf (s : State) (ag : Agent) (n : Need) (va : Nat) : State × Except Cause (Dword × Place) :=
  let p := partOrNone s ag.core
  let die := dieOf ag.core
  match leaf1 s die p ag.root n va with
  | (s, .error c) => (s, .error c)
  | (s, .ok (e1, b1)) =>
    let ia := entAddr1 e1 + va % 2 ^ b1
    match leaf2 s die p (cacheSlice va) n ia with
    | (s, .error c) => (s, .error c)
    | (s, .ok l) => (s, if n.r && leafBeyond s l.1 then .error n.page else .ok (e1, placeIn s p n ia l))

/-- Whether both leaves of a place, and the mode's access to user pages, allow what is needed (17 R339). -/
def permits (n : Need) (ag : Agent) (e1 : Dword) (pl : Place) : Bool :=
  granted n e1 && granted n pl.leaf && (ag.mode != .user || entU e1)

/-- Translate a V-address for an agent (17 R336, R339). -/
def translate (s : State) (ag : Agent) (n : Need) (va : Nat) : State × Except Cause Place :=
  match placeOf s ag n va with
  | (s, .error c) => (s, .error c)
  | (s, .ok (e1, pl)) => (s, if permits n ag e1 pl then .ok pl else .error n.refused)

/-- The stage-1 leaf of a V-address by the tables as they stand: the walk where no leaf is held and the host rejects no
read. -/
def walked1 (s : State) (p : Partition) (va : Nat) : List Nat → Nat → Option (Dword × Nat)
  | [], _ => none
  | sh :: rest, table =>
    let ia := entryPa table sh va
    match p.s2root.bind fun t => walk2 s ia levelShifts t with
    | none => none
    | some (_, e2, b) =>
      let pl := placeIn s p needRead ia (e2, b)
      let e := dw (memRead s.mem pl.key 8)
      if !granted needRead e2 || leafBeyond s e2 || placeMarked s pl || !valid1 sh e then none
      else if entLeaf e then some (e, sh)
      else walked1 s p va rest (entAddr1 e)

/-- The stage-1 leaf of a V-address under a root by the tables as they stand. -/
def peek1 (s : State) (p : Partition) (root : Dword) (va : Nat) : Option (Dword × Nat) :=
  walked1 s p va levelShifts (bits root 13 43 * 2 ^ 13)

/-- The place of a V-address by the tables as they stand, none where the walk fails. It chooses no held
leaf and changes nothing. -/
def peek (s : State) (ag : Agent) (va : Nat) : Option Place :=
  let p := partOrNone s ag.core
  match peek1 s p ag.root va with
  | none => none
  | some (e1, b1) =>
    let ia := entAddr1 e1 + va % 2 ^ b1
    match p.s2root with
    | none => none
    | some t =>
      (walk2 s ia levelShifts t).map fun (_, e2, b2) =>
        { key := pageKey s p e2 b2 ia, leaf := e2, bits := b2, ia := ia, handle := p.handle,
          tenant := p.tenant, copied := false }

/-- The label of a page's bytes: the tenant's singleton for host memory, the page's LSID otherwise
(11 R217). -/
def Place.mask (s : State) (pl : Place) : Mask :=
  if entU pl.leaf then tenantMask pl.tenant
  else ((getPart s pl.handle).bind fun p => maskOf p (entLsid pl.leaf)).getD 0

/-! ### Changes of a stage-2 leaf made by the device -/

/-- Drop the held stage-2 leaves of the page that covers an IA, on every die (17 R342, R343). -/
def dropPage2 (s : State) (handle ia : Nat) : State :=
  { s with dies := mapUnits (fun d =>
    { d with held2 := d.held2.filter fun l => !(l.part == handle && l.page == ia / 2 ^ l.bits) }) s.dies }

/-- Change the stage-2 leaf of a page in the table and in every cached translation. -/
def changeLeaf (s : State) (handle ia : Nat) (f : Dword → Dword) : State :=
  let s := match getPart s handle with
    | some p =>
      match p.s2root.bind fun t => walk2 s ia levelShifts t with
      | some (pa, e, _) => writeEntry s pa (f e)
      | none => s
    | none => s
  { s with dies := mapUnits (fun d =>
    { d with held2 := d.held2.map fun l =>
        if l.part = handle ∧ l.page = ia / 2 ^ l.bits then { l with leaf := f l.leaf } else l }) s.dies }

/-- A leaf with another LSID. -/
def withLsid (e : Dword) (l : Lsid) : Dword :=
  (e &&& ~~~(0x3FF0000000000000 : Dword)) ||| dw (l.toNat * 2 ^ 52)

/-- Collapse a replicated page before a write is applied to it (17 R343): the copies go, REPL is
cleared, stage 2 is invalidated for the page, and a COLLAPSE entry is posted (19 R381). -/
def collapse (s : State) (pl : Place) : State :=
  let s := changeLeaf s pl.handle pl.ia fun e => e &&& ~~~(0x80 : Dword)
  let s := dropPage2 s pl.handle pl.ia
  let s := { s with pk := { s.pk with
    replicas := s.pk.replicas.filter fun r => !(r.1 == pl.handle && r.2.1 == pl.ia / 2 ^ pl.bits) } }
  postError s pl.handle 7 0 (dw (pl.ia / 2 ^ pl.bits * 2 ^ pl.bits)) 0

/-- Copy a shadow page before the launch's first write to it is applied (19 R383): `shadowed` keeps the
page's key, its size and its bytes. -/
def shadowPage (s : State) (launch : Nat) (pl : Place) : State :=
  match getLaunch s launch with
  | none => s
  | some l =>
    let base := pl.key - pl.ia % 2 ^ pl.bits
    if !l.shadowing || l.shadowed.any (fun e => e.1 == base) then s
    else if Config.shadowPool < (l.shadowed.map fun e => e.2.1).sum + 2 ^ pl.bits then
      postError (setLaunch s { l with shadowing := false, replay := false }) pl.handle 11 0 0 0
    else
      setLaunch s { l with
        shadowed := l.shadowed ++ [(base, 2 ^ pl.bits, memRange s.mem base (base + 2 ^ pl.bits))] }

/-- What precedes the application of a write to a page: the collapse of its copies and its shadow. -/
def openPage (s : State) (launch : Option Nat) (pl : Place) : State :=
  let s := if entRepl pl.leaf then collapse s pl else s
  match launch with
  | some k => if entShad pl.leaf && !entU pl.leaf then shadowPage s k pl else s
  | none => s

end Sys2Proof.Machine
end

