-- ==== Sys2Proof/Machine/Access.lean ====
section
/-!
DEFINITION. Reads as a core sees them: heartwood, the view buffer (11 R201, R202), log forwarding (R192),
window checks (R213), error marks (R399) and the labels read (R218).
-/

namespace Sys2Proof.Machine

/-- A sector's key. -/
def sectorKey (k : Nat) : Nat := k / 32 * 32

/-- Whether a byte's sector holds an uncorrectable error (11 R399). -/
def isMarked (s : State) (k : Nat) : Bool := s.pk.marked.contains (sectorKey k)

/-- Write the masked bytes of a sector as one unit; a unit that writes all 32 bytes clears the sector's
error mark (11 R188, R399). -/
def applyUnit (s : State) (key : Nat) (mask : BitVec 32) (d : Sector) : State :=
  let s := { s with mem := writeMasked s.mem key mask d }
  if mask = BitVec.allOnes 32 then
    { s with pk := { s.pk with marked := s.pk.marked.filter fun k => k != key } }
  else s

/-- Whether a view-buffer entry is live (11 R202). -/
def ViewEntry.live (now : Nat) (v : ViewEntry) : Bool := decide (now < v.filled + 4096)

/-- Drop entries of a core's view buffer by sector. -/
def dropView (s : State) (core : Nat) (sectors : List Nat) : State :=
  let co := getCore s core
  setCore s core { co with view := co.view.filter fun v => !sectors.contains v.key }

/-- Read a sector through a core's view buffer: a live entry may be used, which is the device's choice
(notes/assumptions/13.md); otherwise the sector is read from heartwood and held. Host memory is never
held (11 R202). -/
def viewSector (s : State) (core key : Nat) : State × Sector :=
  if isHostKey key then (s, memSector s.mem key)
  else
    let co := getCore s core
    match co.view.find? fun v => v.key == key && v.live s.cycle with
    | some v =>
      let (n, s) := draw s
      if Config.viewHit n then (s, v.data) else fill s
    | none => fill s
where
  fill (s : State) : State × Sector :=
    let d := memSector s.mem key
    let co := getCore s core
    let v : ViewEntry := { key := key, data := d, filled := s.cycle }
    (setCore s core { co with view := (v :: co.view.filter fun o => o.key != key).take 1024 }, d)

/-- A sector from its bytes. -/
def packSector (f : Nat → Byte) : Sector :=
  BitVec.ofNat 256 (packLanes 8 ((List.range 32).map fun i => (f i).toNat))

/-- The 48 bytes of a record as a number (11 R190). -/
def Record.image (r : Record) : Nat :=
  r.addr.toNat / 32 * 32 + r.mask.toNat * 2 ^ 64 + r.tag.toNat * 2 ^ 96 + r.lsid.toNat * 2 ^ 112 +
    r.hart.toNat * 2 ^ 122 + r.task.toNat * 2 ^ 124 + r.pubd.toNat * 2 ^ 125 + r.resub.toNat * 2 ^ 126 +
    r.stk.toNat * 2 ^ 127 + r.data.toNat * 2 ^ 128

/-- A byte of a core's log region, counted from LOGBASE: of the record in its place, and free where no record
stands (11 R185, R190; notes/assumptions/58.md). -/
def logByte (s : State) (co : Core) (i : Nat) : Byte :=
  match co.log.find? fun r => r.slot == i / 48 with
  | some r => BitVec.ofNat 8 (r.image / 2 ^ (8 * (i % 48)))
  | none => Config.freeByte s.tick i

/-- The sector of a core's own slice at an offset: memory, but in the log region the records as R190 lays
them out, and in the system area free bytes, as the spec gives no layout of it (11 R185;
notes/assumptions/58.md). -/
def sliceSector (s : State) (core off : Nat) : Sector :=
  let o := off / 32 * 32
  let co := getCore s core
  if o < 0x1000 then packSector fun i => Config.freeByte s.tick (o + i)
  else if inLog co o 32 then packSector fun i => logByte s co (o + i - co.logbase.toNat)
  else memSector s.mem (sliceKey core o)

/-- What a read finds below the log: the sector's key, its bytes, their label, and whether the sector read holds an
uncorrectable error. -/
structure Fetched where
  key : Nat
  data : Sector
  mask : Mask
  bad : Bool
  deriving DecidableEq, Repr

/-- Rows 7 and 8 of 11 R184 for a read of a slice byte: WIN, and whether the target counts it. -/
def readRefused (s : State) (core t off : Nat) : Option Bool :=
  if t = core then none
  else if !samePartition s core t then some false
  else if (grantsAt (getCore s t) off).rd then none
  else some true

/-- Read the sector of one part from below the log: own slice, another slice, HBM or host memory, through
the view buffer for all but the own slice. -/
def readSector (s : State) (ag : Agent) (n : Need) (e : Dword) : State × Except Trap Fetched :=
  match formOf s ag.core e with
  | .bad => (s, .error ⟨.addr, e⟩)
  | .slice c off =>
    let t := c.toNat % 4096
    match readRefused s ag.core t off with
    | some cnt => (if cnt then countRefusal s t else s, .error ⟨if n.x then .fetch else .win, e⟩)
    | none =>
      let key := sectorKey (sliceKey t off)
      let m := bankMask s t (bankOf off)
      if t = ag.core then (s, .ok { key := key, data := sliceSector s t off, mask := m, bad := isMarked s key })
      else
        let (s, d) := viewSector s ag.core key
        (s, .ok { key := key, data := d, mask := m, bad := isMarked s key })
  | .virt va =>
    match translate s ag n va with
    | (s, .error c) => (s, .error ⟨c, e⟩)
    | (s, .ok pl) =>
      let key := sectorKey pl.key
      match hostRejects s key with
      | (s, true) => (s, .error ⟨n.refused, e⟩)
      | (s, false) =>
        let (s, d) := viewSector (reachPlace s pl) ag.core key
        (s, .ok { key := key, data := d, mask := pl.mask s, bad := placeMarked s pl })

/-- Whether a record is forwarded to a hart: non-task records and the task records of its own task, until they
have been applied and heartwood holds them (11 R192, R201; notes/assumptions/12.md). -/
def Record.forwards (r : Record) (tag : Option (BitVec 16)) : Bool :=
  !r.applied && (!r.task || some r.tag == tag)

/-- A sector overlaid by the log's records for its address that are not yet applied, in append order (11 R192,
R201). Records of V-addresses are matched by address and stage-1 root (notes/assumptions/12.md). -/
def overlay (addr root : Dword) (tag : Option (BitVec 16)) : List Record → Sector → Sector
  | [], d => d
  | r :: l, d =>
    overlay addr root tag l <|
      if r.addr = addr ∧ (bit addr 63 ∨ r.root = root) ∧ r.forwards tag then
        packSector fun i => if r.mask.getLsbD i then sectorByte r.data i else sectorByte d i
      else d

/-- The tag of the task a hart runs. -/
def Hart.tag (h : Hart) : Option (BitVec 16) := h.task.map (·.tag)

/-- The bytes and label of one part as a load of the acting hart sees them (11 R192, R201). -/
def readPart (s : State) (n : Need) (e : Dword) (k : Nat) : State × Except Trap (List Byte × Mask) :=
  match readSector s s.agent n e with
  | (s, .error t) => (s, .error t)
  | (s, .ok f) =>
    if f.bad then (s, .error ⟨.ecc, e⟩)
    else
      let a := normalise s s.cid e &&& ~~~31
      let d := overlay a s.hart.s1base s.hart.tag s.core.log f.data
      (s, .ok ((List.range k).map (fun i => sectorByte d (bits e 0 5 + i)), f.mask))

/-- Read the parts of an access in order; the first that faults decides (07 R126). -/
def readParts (s : State) (n : Need) : List (Dword × Nat) → State × Except Trap (List Byte × Mask)
  | [] => (s, .ok ([], 0))
  | (e, k) :: l =>
    match readPart s n e k with
    | (s, .error t) => (s, .error t)
    | (s, .ok (b, m)) =>
      match readParts s n l with
      | (s, .error t) => (s, .error t)
      | (s, .ok (b', m')) => (s, .ok (b ++ b', m ||| m'))

/-- Whether an address lies in the slice of a core. -/
def ownSlice (s : State) (core : Nat) (e : Dword) : Bool :=
  match formOf s core e with
  | .slice c _ => c.toNat % 4096 == core
  | _ => false

/-- mem(a, n) of 00 R6 for the acting hart, with the label read. Data of the own slice is no off-core
result (01 R21, R23). -/
def loadBytes (s : State) (e : Dword) (n : Nat) : State × Except Trap (List Byte × Mask) :=
  readParts { s with hart := { s.hart with near := ownSlice s s.cid e } } needRead (parts e n)

/-- Bytes an engine reads of heartwood for an agent: no log forwarding, no view buffer (11 R214). -/
def engineSector (s : State) (ag : Agent) (e : Dword) : State × Except Trap Fetched :=
  match formOf s ag.core e with
  | .bad => (s, .error ⟨.addr, e⟩)
  | .slice c off =>
    let t := c.toNat % 4096
    match readRefused s ag.core t off with
    | some cnt => (if cnt then countRefusal s t else s, .error ⟨.win, e⟩)
    | none =>
      let key := sectorKey (sliceKey t off)
      if isMarked s key then (s, .error ⟨.ecc, e⟩)
      else
        let d := if t = ag.core then sliceSector s t off else memSector s.mem key
        (s, .ok { key := key, data := d, mask := bankMask s t (bankOf off), bad := false })
  | .virt va =>
    match translate s ag needRead va with
    | (s, .error c) => (s, .error ⟨c, e⟩)
    | (s, .ok pl) =>
      let key := sectorKey pl.key
      match hostRejects (reachPlace s pl) key with
      | (s, true) => (s, .error ⟨.perm, e⟩)
      | (s, false) =>
        if placeMarked s pl then (s, .error ⟨.ecc, e⟩)
        else (s, .ok { key := key, data := memSector s.mem key, mask := pl.mask s, bad := false })

/-- Engine reads of a list of parts, with the union of the labels read. -/
def engineParts (s : State) (ag : Agent) : List (Dword × Nat) → State × Except Trap (List Byte × Mask)
  | [] => (s, .ok ([], 0))
  | (e, k) :: l =>
    match engineSector s ag e with
    | (s, .error t) => (s, .error t)
    | (s, .ok f) =>
      match engineParts s ag l with
      | (s, .error t) => (s, .error t)
      | (s, .ok (b, m)) =>
        (s, .ok ((List.range k).map (fun i => sectorByte f.data (bits e 0 5 + i)) ++ b, f.mask ||| m))

/-- An engine read of n bytes. -/
def engineBytes (s : State) (ag : Agent) (e : Dword) (n : Nat) :
    State × Except Trap (List Byte × Mask) :=
  engineParts s ag (parts e n)

end Sys2Proof.Machine
end

