-- ==== Sys2Proof/Machine/Log.lean ====
section
/-!
DEFINITION. The sapwood log (11 R189 to R194), application at homes (R188, R219, R222), releases and
acquires (R195 to R199), held records and their reports (R207 to R210, 17 R326).
-/

namespace Sys2Proof.Machine

/-- The number of records a log holds (11 R191). -/
def logCapacity (co : Core) : Nat := co.logsize.toNat / 48

/-- Whether a log is at least three quarters full (11 R194). -/
def crowded (co : Core) : Bool := decide (3 * logCapacity co ≤ 4 * co.log.length)

/-- Bytes an agent writes in one sector: the address of the sector as issued, mask and data. -/
structure Piece where
  addr : Dword
  mask : BitVec 32
  data : Sector
  stk : Bool
  deriving DecidableEq, Repr

/-- A piece from the bytes of one part. -/
def pieceOf (e : Dword) (bs : List Byte) (stk : Bool) : Piece :=
  let o := bits e 0 5
  { addr := e &&& ~~~31
    mask := BitVec.ofNat 32 ((2 ^ bs.length - 1) * 2 ^ o)
    data := BitVec.ofNat 256 (packLanes 8 (bs.map BitVec.toNat) * 2 ^ (8 * o))
    stk := stk }

/-- Data bits of a mask of bytes. -/
def maskBits (mask : BitVec 32) : Sector :=
  BitVec.ofNat 256 (packLanes 8 ((List.range 32).map fun i => if mask.getLsbD i then 255 else 0))

/-- A later piece over an earlier one of the same sector. -/
def Piece.merge (a b : Piece) : Piece :=
  { a with
    mask := a.mask ||| b.mask
    data := (a.data &&& ~~~(maskBits b.mask)) ||| b.data
    stk := a.stk && b.stk }

/-- The pieces of a store of bytes at an address, lower sector first (11 R189). -/
def piecesOf (e : Dword) (bs : List Byte) (stk : Bool) : List Piece :=
  let rec go : List (Dword × Nat) → List Byte → List Piece
    | [], _ => []
    | (a, n) :: l, b => pieceOf a (b.take n) stk :: go l (b.drop n)
  go (parts e bs.length) bs

/-- The address of the lowest byte a mask writes. -/
def firstByte (addr : Dword) (mask : BitVec 32) : Dword :=
  addr + dw (((List.range 32).find? fun i => mask.getLsbD i).getD 0)

/-- The agent of a record: the mode and root its store was issued with. -/
def Record.agent (core : Nat) (launch : Option Nat) (r : Record) : Agent :=
  { core := core, mode := if r.user then .user else .supervisor, root := r.root, launch := launch }

/-- The launch of the hart that appended a record. -/
def recordLaunch (s : State) (core : Nat) (r : Record) : Option Nat :=
  (getHart s (core * 4 + r.hart.toNat)).launch

/-! ### Application at a home -/

/-- What a home or Firebreak answers to a unit: applied, or the cause of its failure. -/
abbrev Applied := State × Option Cause

/-- Whether a policy lets a write of a label go to a destination in the form of a policy's DEST (11 R222,
R223). -/
def policyAllows (s : State) (label : Mask) (dest : BitVec 32) : Bool :=
  s.pk.policies.any fun p => subMask label p.set && p.dest == dest

/-- Whether a write of a label may leave to the host memory of a tenant (11 R222, R223). -/
def egressAllowed (s : State) (label : Mask) (tenant : Nat) : Bool :=
  subMask label (tenantMask tenant) || policyAllows s label (BitVec.ofNat 32 tenant)

/-- Whether a write of a label may leave the domain through an external port: kind 1 of DEST (11 R222, R223). -/
def portAllowed (s : State) (label : Mask) : Bool :=
  (egressPort s).any fun p => policyAllows s label (BitVec.ofNat 32 (2 ^ 30 + p))

/-- Apply a unit to a slice sector: window checks against another core's slice, then the bank absorbs the
label (11 R213, R219). `ch` asks for the commit-home grant in place of PB (15 R290). -/
def applySlice (s : State) (ag : Agent) (ch : Bool) (t off : Nat) (mask : BitVec 32) (d : Sector)
    (label : Mask) : Applied :=
  let g := grantsAt (getCore s t) off
  if t ≠ ag.core ∧ ¬ samePartition s ag.core t then (s, some .win)
  else if t ≠ ag.core ∧ ¬ (if ch then g.ch else g.pb) then (countRefusal s t, some .win)
  else
    let s := widenBank s ag.launch t (bankOf off) label
    (applyUnit s (sliceKey t off) mask d, none)

/-- Apply a unit to a translated page: HBM with the label rule of 11 R219, or host memory or what lies beyond
the domain behind Firebreak (R222). -/
def applyPage (s : State) (ag : Agent) (pl : Place) (mask : BitVec 32) (d : Sector) (label : Mask) :
    Applied :=
  if entU pl.leaf then
    if egressAllowed s label pl.tenant then (applyUnit s pl.key mask d, none) else (s, some .egress)
  else if leafBeyond s pl.leaf then (s, if portAllowed s label then none else some .egress)
  else
    let have_ := pl.mask s
    if subMask label have_ then
      let s := openPage s ag.launch pl
      (applyUnit s pl.key mask d, none)
    else if entAb pl.leaf then
      let s := openPage s ag.launch pl
      let (s, l) := unionLabel s pl.handle ag.launch (entLsid pl.leaf) label
      let s := changeLeaf s pl.handle pl.ia fun e => withLsid e l
      (applyUnit s pl.key mask d, none)
    else (s, some .label)

/-- Translate and apply one unit of an agent (11 R188, R219), and tell the sector it was bound for: the one that the
translation it took, held or walked, names. -/
def applyTo (s : State) (ag : Agent) (ch : Bool) (addr : Dword) (mask : BitVec 32) (d : Sector)
    (label : Mask) : Applied × Option Nat :=
  match formOf s ag.core addr with
  | .bad => ((s, some .addr), none)
  | .slice c off =>
    (applySlice s ag ch (c.toNat % 4096) off mask d label, some (sectorKey (sliceKey (c.toNat % 4096) off)))
  | .virt va =>
    match translate s ag needWrite va with
    | (s, .error c) => ((s, some c), none)
    | (s, .ok pl) => (applyPage (reach s pl.key) ag pl mask d label, some (sectorKey pl.key))

/-- Translate and apply one unit of an agent (11 R188, R219). -/
def applyAt (s : State) (ag : Agent) (ch : Bool) (addr : Dword) (mask : BitVec 32) (d : Sector)
    (label : Mask) : Applied :=
  (applyTo s ag ch addr mask d label).1

/-- The key of the sector an address names by the tables as they stand. -/
def keyOf (s : State) (ag : Agent) (addr : Dword) : Option Nat :=
  match formOf s ag.core addr with
  | .bad => none
  | .slice c off => some (sectorKey (sliceKey (c.toNat % 4096) off))
  | .virt va => (peek s ag va).map fun pl => sectorKey pl.key

/-- The home of a key as a number: a core, 4096 + HBM channel, or the host of a function
(11 R187, 21 R384). -/
def homeNum (key : Nat) : Nat :=
  if isHostKey key then 2 ^ 20 + key / 2 ^ 64
  else if isSliceKey key then sliceCore key
  else 4096 + key / 2 ^ 36 * 32 + key / 2 ^ 16 % 32

/-- Whether a die's cache slices hold a leaf of a partition that its tables no longer give (17 R342). -/
def staleLeaves (s : State) (die : Nat) (p : Partition) : Bool :=
  let mine := fun (l : HeldLeaf) => l.part == p.handle
  ((getDie s die).held2.filter mine).any (fun l =>
      ((p.s2root.bind fun t => walk2 s (l.page * 2 ^ l.bits) levelShifts t).map fun e => (e.2.1, e.2.2)) !=
        some (l.leaf, l.bits)) ||
    ((getDie s die).held1.filter mine).any fun l => peek1 s p l.root (l.page * 2 ^ l.bits) != some (l.leaf, l.bits)

/-- Whether two records of a core may go to one home. Where their homes cannot be told by the tables, as a page is
not mapped or a cache slice holds an older leaf, they may. -/
def sameHome (s : State) (core : Nat) (a b : Record) : Bool :=
  let byTable := fun (r : Record) => !bit r.addr 63 && staleLeaves s (dieOf core) (partOrNone s core)
  if byTable a || byTable b then bit a.addr 63 == bit b.addr 63
  else
    match keyOf s (a.agent core none) a.addr, keyOf s (b.agent core none) b.addr with
    | some x, some y => homeNum x == homeNum y
    | _, _ => bit a.addr 63 == bit b.addr 63

/-! ### Releases -/

/-- Stamp of a core with an LCLK value (11 R195). -/
def stampOf (s : State) (core lclk : Nat) : Dword := dw (lclk * 2 ^ 20 + (cgidOf s core).toNat)

/-- LCLK part of a stamp (11 R195). -/
def stampClock (st : Dword) : Nat := bits st 20 44

/-- The top of LCLK, where it stays (11 R196). -/
def lclkTop : Nat := 0xFFFFFFFFFFF

/-- Live entries of an acquired set (11 R198). -/
def liveSet (now : Nat) (l : List (Acquired × Nat)) : List (Acquired × Nat) :=
  l.filter fun e => decide (now < e.2 + 4096)

/-- Send every unpublished non-task record of a core (11 R194, R195). Nothing leaves behind a held
record (R209). -/
def sendAll (co : Core) : Core :=
  if co.held.isSome then co
  else { co with log := co.log.map fun r => if r.task then r else { r with pubd := true } }

/-- Form a release (11 R195, R196): LCLK advances, and the tail is every non-task record appended. -/
def formRelease (s : State) (core : Nat) : State × Dword :=
  let co := getCore s core
  let l := min (max co.lclk co.acqMax + 1) lclkTop
  let st := stampOf s core l
  let r : Release :=
    { stamp := st, bound := co.nextRid, set := liveSet s.cycle co.acquired, sectors := [] }
  (setCore s core (sendAll { co with lclk := l, acqMax := 0, forming := co.forming ++ [r] }), st)

/-- Whether every record of a release's tail has been applied (11 R195). -/
def tailApplied (co : Core) (r : Release) : Bool :=
  co.log.all fun x => x.task || decide (r.bound ≤ x.rid) || x.applied

/-- Complete the releases of a core whose tails are applied, in stamp order (11 R195). -/
def completeReleases (co : Core) : Nat → Core
  | 0 => co
  | n + 1 =>
    match co.forming with
    | r :: l =>
      if tailApplied co r then
        completeReleases
          { co with forming := l, done := co.done ++ [{ r with sectors := co.written }] } n
      else co
    | [] => co

/-- Complete what can be completed at a core. -/
def settle (s : State) (core : Nat) : State :=
  let co := getCore s core
  setCore s core (completeReleases co co.forming.length)

/-- Whether a stamp names a release still forming. -/
def isForming (co : Core) (st : Dword) : Bool := co.forming.any fun r => r.stamp == st

/-- Whether a stamp names a release of a core that is still forming, there or, behind a held record, with a launch
that was pre-empted on it (17 R332; notes/assumptions/102.md). -/
def formingAt (s : State) (core : Nat) (st : Dword) : Bool :=
  isForming (getCore s core) st || s.pk.launches.any fun l => l.saved.any fun c => c.1 == core && isForming c.2 st

/-! ### Acquires -/

/-- The cores of a tenant in the package (11 R198). -/
def tenantCores (s : State) (core : Nat) : List Nat :=
  match tenantOf s core with
  | some t => (knownCores s).filter fun c => tenantOf s c == some t
  | none => [core]

/-- Whether a home is an HBM channel of this package. -/
def ownHbm (home : Nat) : Bool := decide (4096 ≤ home) && decide (home < 4096 + 512)

/-- Whether a home lies within a scope of a core, or, what is the same, a core within a region anchored at
the home (11 R200): a core as a core; a channel of this package from die scope for the cores of the die whose
base dies hold its stack, and from package scope for every core; another package's at domain scope; the host's
memory from package scope. -/
def inHomeRegion (scope home core : Nat) : Bool :=
  if home < 4096 then inScope scope core home
  else if ownHbm home then decide (3 ≤ scope) || scope == 2 && dieOf core == (home - 4096) / 64
  else decide ((if home < 2 ^ 20 then 4 else 3) ≤ scope)

/-- Whether a core lies in an entry of an acquired set. -/
def Acquired.names (a : Acquired) (core : Nat) : Bool :=
  match a with
  | .pair c _ => c == core
  | .region sc anchor => inScope sc anchor core
  | .homeRegion sc home => inHomeRegion sc home core

/-- The smallest scope around a core that contains an entry. -/
def Acquired.scopeFrom (anchor : Nat) (a : Acquired) : Nat :=
  match a with
  | .pair c _ => smallestScope anchor [c]
  | .region sc c => max sc (smallestScope anchor [c])
  | .homeRegion sc home =>
    if home < 4096 then max sc (smallestScope anchor [home])
    else if sc ≤ 2 ∧ ownHbm home ∧ dieOf anchor = (home - 4096) / 64 then 2
    else max sc 3

/-- Add an entry to an acquired set: pairs of one core merge, and a seventeenth entry collapses the set
into one region (11 R198). -/
def addAcquired (now anchor : Nat) (l : List (Acquired × Nat)) (a : Acquired) : List (Acquired × Nat) :=
  let l := liveSet now l
  let l : List (Acquired × Nat) := match a with
    | .pair c st =>
      match l.find? fun e => match e.1 with
        | .pair c' _ => c' == c
        | _ => false with
      | some (.pair _ st', t) =>
        let best := if st'.toNat ≤ st.toNat then (Acquired.pair c st, now) else (Acquired.pair c st', t)
        (l.filter fun e => match e.1 with
          | .pair c' _ => c' != c
          | _ => true) ++ [best]
      | _ => l ++ [(a, now)]
    | _ => (l.filter fun e => e.1 != a) ++ [(a, now)]
  if 16 < l.length then
    [(.region ((l.map fun e => e.1.scopeFrom anchor).foldl max 0) anchor, now)]
  else l

/-- What acquiring a completed release does to the acquiring core's own sight: sectors its tails wrote are
read anew, and its stamp counts for LCLK (11 R195, R197). -/
def seeRelease (s : State) (core : Nat) (r : Release) : State :=
  let s := dropView s core r.sectors
  let co := getCore s core
  setCore s core { co with acqMax := max co.acqMax (stampClock r.stamp) }

/-- The release of a log that an acquire with a stamp takes (11 R197): the named one, or the latest
completed one when the stamp names none. -/
def chosenRelease (co : Core) (st : Dword) : Option Release :=
  match co.done.find? fun r => r.stamp == st && stampClock st != 0 && stampClock st != lclkTop with
  | some r => some r
  | none => co.done.getLast?

/-- The completed releases that an entry names for a core's tenant: the one its stamp takes, or the latest of
each core of a region (11 R197, R198). -/
def namedReleases (s : State) (core : Nat) (a : Acquired) : List Release :=
  match a with
  | .pair c st =>
    if tenantOf s core = tenantOf s c then (chosenRelease (getCore s c) st).toList else []
  | _ => ((tenantCores s core).filter a.names).filterMap fun c => chosenRelease (getCore s c) 0

/-- The releases that a list of entries names, with those of their sets in turn, entry by entry (11 R197).
`found` are the ones met; the number bounds the entries looked at. -/
def releasesIn (s : State) (core : Nat) : Nat → List Acquired → List Release → List Release
  | 0, _, found => found
  | _, [], found => found
  | n + 1, a :: l, found =>
    let new := (namedReleases s core a).filter fun r => !found.contains r
    releasesIn s core n (l ++ new.flatMap fun r => r.set.map Prod.fst) (found ++ new)

/-- Every entry of a completed release's set, counted. -/
def setEntries (s : State) : Nat :=
  ((knownCores s).flatMap fun c => (getCore s c).done.map fun r => r.set.length).sum

/-- See a list of releases. -/
def seeAll (s : State) (core : Nat) : List Release → State
  | [] => s
  | r :: l => seeAll (seeRelease s core r) core l

/-- Acquire what a list of entries names (11 R197, R198). -/
def acquireAll (s : State) (core : Nat) (l : List Acquired) : State :=
  seeAll s core (releasesIn s core (l.length + setEntries s + 1) l [])

/-- Add entries to a core's acquired set. -/
def addEntries (s : State) (core : Nat) : List Acquired → State
  | [] => s
  | a :: l =>
    let co := getCore s core
    addEntries (setCore s core { co with acquired := addAcquired s.cycle core co.acquired a }) core l

/-- Whether an acquire of a log with a stamp must wait: the named release has not completed. A saturated stamp
names none (11 R196). -/
def mustWait (s : State) (core log : Nat) (st : Dword) : Bool :=
  tenantOf s core == tenantOf s log && stampClock st != lclkTop && formingAt s log st

/-- Acquire a log with a stamp whose release has completed (11 R197, R198). -/
def acquireLog (s : State) (core log : Nat) (st : Dword) : State :=
  if tenantOf s core ≠ tenantOf s log then s
  else
    match chosenRelease (getCore s log) st with
    | none => s
    | some r => addEntries (acquireAll s core [.pair log st]) core (.pair log r.stamp :: r.set.map Prod.fst)

/-- ACQS at a scope (11 R198, R199): every core of the tenant within the scope, then the region. -/
def acquireScope (s : State) (core scope : Nat) : State :=
  addEntries (acquireAll s core [.region scope core]) core [.region scope core]

/-- Acquire an entry returned with an atomic (11 R206). -/
def acquireEntry (s : State) (core : Nat) (a : Acquired) : State :=
  match a with
  | .pair c st => acquireLog s core c st
  | _ => addEntries (acquireAll s core [a]) core [a]

/-- Acquire a list of entries. -/
def acquireEntries (s : State) (core : Nat) : List Acquired → State
  | [] => s
  | a :: l => acquireEntries (acquireEntry s core a) core l

/-! ### Records -/

/-- A record that failed while another is held returns to the log unheld (11 R209). One whose log copy holds an error
is not sent again from there: it can only go to RECORD_RESEND (R208). -/
def Record.returned (r : Record) : Record := if r.bad then { r with resub := true } else { r with pubd := false }

/-- Hold a record that failed: one per core; a later one returns to the log unheld (11 R209), and so does an
earlier one, of which the spec does not speak (DESIGN CHOICE: notes/assumptions/61.md). -/
def holdRecord (co : Core) (r : Record) (c : Cause) : Core :=
  match co.held with
  | some (id, _) =>
    if id = r.rid then { co with held := some (id, ⟨c, firstByte r.addr r.mask⟩) }
    else { co with log := co.log.map fun x => if x.rid = r.rid then x.returned else x }
  | none => { co with held := some (r.rid, ⟨c, firstByte r.addr r.mask⟩) }

/-- Whether the record at a place of the log may be applied next: sent, not applied, not held, not to be sent
again from a log copy with an error (R208); no earlier record of the same home is left (11 R188), and it is not
later than a held one (R209). -/
def canApply (s : State) (core : Nat) (co : Core) (idx : Nat) : Option Record :=
  match co.log[idx]? with
  | none => none
  | some r =>
    let held := co.held.any fun h => decide (h.1 ≤ r.rid)
    let before := (co.log.take idx).any fun x => !x.task && !x.applied && sameHome s core x r
    if r.pubd && !r.applied && !(r.bad && r.resub) && !r.task && !held && !before then some r else none

/-- Apply a record at its home, or hold it (11 R188, R209). -/
def applyRecord (s : State) (core : Nat) (r : Record) : State :=
  match applyTo s (r.agent core (recordLaunch s core r)) false r.addr r.mask r.data (maskAt s core r.lsid) with
  | ((s, some c), _) => setCore s core (holdRecord (getCore s core) r c)
  | ((s, none), key) =>
    let co := getCore s core
    let s := setCore s core
      { co with
        log := co.log.map fun x => if x.rid = r.rid then { x with applied := true } else x
        written := match key with
          | some k => k :: co.written.filter fun o => o != k
          | none => co.written
        held := if co.held.any (fun h => h.1 == r.rid) then none else co.held }
    let s := match key with
      | some k => dropView s core [k]
      | none => s
    settle s core

/-- Reclaim the record at a place of the log once it has been applied (11 R191). -/
def ackRecord (co : Core) (idx : Nat) : Core :=
  match co.log[idx]? with
  | some r => if r.applied then { co with log := co.log.filter fun x => x.rid != r.rid } else co
  | none => co

/-! ### Reports at a synchronising instruction -/

/-- The held record of a hart with its fault (11 R209). -/
def heldOf (s : State) (hart : Nat) : Option (Record × Trap) :=
  let co := getCore s (hart / 4)
  match co.held with
  | some (id, t) =>
    (co.log.find? fun r => r.rid == id && r.hart.toNat == hart % 4 && r.lidx == (getHart s hart).lidx).map fun r => (r, t)
  | none => none

/-- Whether a lost record was the acting hart's (11 R208, 17 R334). -/
def ownLoss (s : State) (e : LogLoss) : Bool := e.hart.toNat == s.hgid % 4 && e.lidx == s.hart.lidx

/-- The oldest pending LOGERR of the acting hart: sector address and PC of its store (11 R208). -/
def logErrOf (s : State) : Option (Dword × Dword) :=
  (s.core.logerr.find? (ownLoss s)).map fun e => (e.addr, e.pc)

/-- Report a held record, then a pending LOGERR, of the acting hart at point S (11 R210, 17 R326), once its
windows are closed; none when there is nothing to report. -/
def report (s : State) : Option State :=
  match heldOf s s.hgid with
  | some (r, t) => some (raiseDeferred s t r.pc)
  | none =>
    match logErrOf s with
    | some (sector, pc) =>
      let s := { s with core := { s.core with
        logerr := (s.core.logerr.takeWhile fun e => !ownLoss s e) ++
          (s.core.logerr.dropWhile fun e => !ownLoss s e).drop 1 } }
      some (raiseDeferred s ⟨.logerr, sector⟩ pc)
    | none => none

/-- What every synchronising instruction does first (11 R210): wait for the open windows and close them
(a fault among them traps), then report. `k` is the instruction's own effect. -/
def syncFirst (s : State) (k : State → State) : State :=
  if windowsWait s then pause s
  else if windowsFault s then raiseWindow s
  else
    let s := closeAllWindows s
    match report s with
    | some t => t
    | none => k s

/-- Form a release once and wait until it completes, then go on with its stamp (11 R195, R226). A report
that becomes due while waiting ends the wait (R210). -/
def publish (s : State) (k : State → Dword → State) : State :=
  match s.hart.waitStamp with
  | some st => if isForming s.core st then stall s else k s st
  | none =>
    let (s, st) := formRelease s s.cid
    let s := settle s s.cid
    let s := { s with hart := { s.hart with waitStamp := some st } }
    if isForming s.core st then stall s else k s st

/-! ### Stores -/

/-- Whether the acting hart runs a task's own code: user mode with a task (15 R282; notes/assumptions/30.md). -/
def inTask (h : Hart) : Bool := h.task.isSome && h.mode == .user

/-- Whether bytes at a normalised address lie in a range. -/
def inRange (base : Dword) (size : Nat) (a : Dword) (n : Nat) : Bool :=
  decide (base.toNat ≤ a.toNat) && decide (a.toNat + n ≤ base.toNat + size)

/-- Whether bytes at a normalised address meet a range. -/
def meetsRange (base : Dword) (size : Nat) (a : Dword) (n : Nat) : Bool :=
  decide (base.toNat < a.toNat + n) && decide (a.toNat < base.toNat + size)

/-- The address of slot k of a tile (15 R269). -/
def TileState.slot (t : TileState) (k : Nat) : Dword := t.base + dw (k % t.slots * t.stride)

/-- How a store inside a task is performed (15 R282). -/
inductive TaskStore
  | output | stack | private_ | refused
  deriving DecidableEq, Repr

/-- The rule of 15 R282 that all bytes of a store fall under. `es` are its parts, with the stack mark. -/
def taskStore (s : State) (es : List (Dword × Nat × Bool)) : TaskStore :=
  let nrm := es.map fun (e, n, k) => (normalise s s.cid e, n, k)
  let out := match s.hart.task.bind (·.out) with
    | some (base, size) => nrm.all fun (a, n, k) => !k && inRange (normalise s s.cid base) size a n
    | none => false
  let slots : List (Dword × Nat) := match s.hart.launch.bind (getLaunch s) with
    | some l => l.tiles.flatMap fun t =>
        (List.range t.slots).map fun k => (normalise s s.cid (t.slot k), t.size)
    | none => []
  if out then .output
  else if es.all fun (_, _, k) => k then .stack
  else if (es.all fun (e, _, k) => !k && isPrivate s s.cid e) &&
      !(nrm.any fun (a, n, _) => slots.any fun (b, z) => meetsRange b z a n) then .private_
  else .refused

/-- The lowest place of the log region that no record holds (11 R185; notes/assumptions/58.md). -/
def freeSlot (log : List Record) : Nat :=
  ((List.range (log.length + 1)).find? fun i => !(log.any fun r => r.slot == i)).getD 0

/-- The record of a piece appended by the acting hart (11 R190). -/
def recordOf (s : State) (p : Piece) (tag : Option (BitVec 16)) : Record :=
  { rid := s.core.nextRid, slot := freeSlot s.core.log, addr := normalise s s.cid p.addr, mask := p.mask, data := p.data,
    tag := tag.getD 0, lsid := s.hart.hla, hart := BitVec.ofNat 2 s.hgid, lidx := s.hart.lidx, task := tag.isSome,
    stk := p.stk && tag.isSome, pubd := false, resub := false, applied := false, bad := false,
    pc := s.hart.pc, root := s.hart.s1base, user := s.hart.mode == .user }

/-- Append one record per piece (11 R189). Records are never coalesced, which R193 leaves to the core (DESIGN
CHOICE: notes/assumptions/55.md). -/
def appendAll (s : State) (tag : Option (BitVec 16)) : List Piece → State
  | [] => s
  | p :: l =>
    let r := recordOf s p tag
    appendAll { s with core := { s.core with log := s.core.log ++ [r], nextRid := s.core.nextRid + 1 } }
      tag l

/-- Apply private pieces in place; each widens its bank's label (11 R189, R219). -/
def applyPrivate (s : State) : List Piece → State
  | [] => s
  | p :: l =>
    match formOf s s.cid p.addr with
    | .slice _ off =>
      let s := widenBank s s.hart.launch s.cid (bankOf off) (hlaMask s)
      applyPrivate (applyUnit s (sliceKey s.cid off) p.mask p.data) l
    | _ => applyPrivate s l

/-- The records of the acting hart's task that its log holds (15 R284). -/
def taskRecords (s : State) (tag : BitVec 16) : Nat :=
  (s.core.log.filter fun r => r.task && r.tag == tag).length

/-- A registration's log budget in records on a core; a doubled one is capped at the log (15 R284). -/
def budgetRecords (s : State) (core : Nat) (r : TaskReg) : Nat :=
  let n := r.budget * 1024 / 48
  if r.logfulls = 0 then n else min n (logCapacity (getCore s core))

/-- Ask a die scheduler to release a registration again (15 R278, R292). -/
def requeue (s : State) (key : Nat) (r : TaskReg) : State :=
  match getLaunch s key with
  | none => s
  | some l => setLaunch s { setReg l r with releases := l.releases ++ [(r.descAddr, r.die, some r.id)] }

/-- What follows when a copy of a registration is gone: once no copy is left and none has been accepted, a
LOGFULL releases the task again with its budget doubled, at most twice, and a fault that has been
served releases it again (15 R284, R310). -/
def copyGone (s : State) (key reg : Nat) : State :=
  match getLaunch s key with
  | none => s
  | some l =>
    match l.regs.find? fun r => r.id == reg with
    | none => s
    | some r =>
      if !r.copies.isEmpty || r.state == .won || r.state == .ended then s
      else if r.logfull then
        if 2 ≤ r.logfulls then finishLaunch s key 10 0
        else
          requeue s key
            { r with logfull := false, logfulls := r.logfulls + 1, budget := r.budget * 2, state := .queued, lost := [] }
      else if r.state == .faulted then requeue s key { r with state := .queued, lost := [] }
      else s

/-- A registration without one of its copies. -/
def TaskReg.without (r : TaskReg) (hart : Nat) (tag : BitVec 16) : TaskReg :=
  { r with copies := r.copies.filter fun c => !(c.hart == hart && c.tag == tag) }

/-- Take a copy out of its registration. -/
def removeCopy (s : State) (key reg hart : Nat) (tag : BitVec 16) (f : TaskReg → TaskReg) : State :=
  match getLaunch s key with
  | none => s
  | some l =>
    setLaunch s { l with regs := l.regs.map fun r =>
      if r.id = reg then f (r.without hart tag) else r }

/-- A hart that has left its task waits for the next one (15 R301); its registers keep their values
(R279). -/
def Hart.free (h : Hart) : Hart :=
  { h with run := .unloaded, mode := .user, uih := false, task := none, pend := [], frame := none
           replay := [], replayEnd := none, replayWord := none, fetch := none, commandFaults := [], stall := none, waitSince := none
           waitStamp := none, sendWait := none, inv := none, waitRoute := none }

/-- Release a registration again after a served fault, if it still stands at the run that faulted: at once
when no copy of it runs, and otherwise when the last is gone (15 R292, R310). One that is released already is left
as it is. -/
def releaseServed (s : State) (which : Option (Nat × Nat × Nat)) : State :=
  match which with
  | none => s
  | some (key, reg, run) =>
    match getLaunch s key with
    | none => s
    | some l =>
      match l.regs.find? fun r => r.id == reg && r.run == run && !(r.state == .won || r.state == .ended || r.state == .queued) with
      | none => s
      | some r => copyGone (setLaunch s (setReg l { r with state := .faulted })) key reg

/-- The acting hart leaves its task. What the return from a handler that it leaves too was to release again is
released now (15 R308, R310; notes/assumptions/66.md). -/
def freeActing (s : State) : State :=
  s.hart.fromEvents.foldl releaseServed
    (onHart s fun h => { h with fromEvents := [] }.free)

/-- Cancel the running copy with LOGFULL (15 R284). The hart takes its next task. -/
def cancelLogFull (s : State) : State :=
  match s.hart.task, s.hart.launch with
  | some t, some key =>
    let hgid := s.hgid
    let tag := t.tag
    let work := (s.hart.rwc - t.startRwc).toNat
    let s := onHart s fun h => h.countLost (taskWon s t) t.startRwc
    let s := freeActing (dropCopy s hgid)
    copyGone (removeCopy s key t.reg hgid tag fun r => { r with
      logfull := true
      lost := if r.state = .won then r.lost else work :: r.lost }) key t.reg
  | _, _ => s

/-- The parts of pieces, with their stack marks. -/
def pieceParts (ps : List Piece) : List (Dword × Nat × Bool) :=
  ps.map fun p =>
    let lo := ((List.range 32).find? fun i => p.mask.getLsbD i).getD 0
    let hi := ((List.range 32).reverse.find? fun i => p.mask.getLsbD i).getD 0
    (p.addr + dw lo, hi + 1 - lo, p.stk)

/-- Auto-publication begins at the latest when the log is three quarters full (11 R194). -/
def autoSend (s : State) : State := if crowded s.core then { s with core := sendAll s.core } else s

/-- Append the records of a store when the log has room for all of them; otherwise the hart waits, or
takes its deferred trap when it owns the held record (11 R207). -/
def logStore (s : State) (ps : List Piece) (tag : Option (BitVec 16)) : State :=
  if s.core.log.length + ps.length ≤ logCapacity s.core then
    onHart (autoSend (appendAll s tag ps)) Hart.retire
  else
    match heldOf s s.hgid with
    | some (r, t) => raiseDeferred s t r.pc
    | none => stall s

/-- Perform a store of the acting hart whose addresses have passed ADDR and DIECROSS: `ps` are its
pieces in record order (11 R189, R207, 15 R282, R284). -/
def storePieces (s : State) (ps : List Piece) : State :=
  if ps.isEmpty then onHart s Hart.retire
  else if inTask s.hart then
    match taskStore s (pieceParts ps) with
    | .refused => raise s .taskctx ((ps.head?.map fun p => firstByte p.addr p.mask).getD 0)
    | .private_ => onHart (applyPrivate s ps) Hart.retire
    | _ =>
      let tag := s.hart.tag.getD 0
      let budget := match s.hart.launch.bind (getLaunch s), s.hart.task with
        | some l, some t => ((l.regs.find? fun r => r.id == t.reg).map (budgetRecords s s.cid)).getD 0
        | _, _ => 0
      if budget < taskRecords s tag + ps.length then cancelLogFull s
      else logStore s ps (some tag)
  else if ps.all fun p => isPrivate s s.cid p.addr then onHart (applyPrivate s ps) Hart.retire
  else logStore s ps none

end Sys2Proof.Machine
end

