-- ==== Sys2Proof/Machine/LoadStore.lean ====
section
/-!
DEFINITION. Scalar loads and stores (07 R121 to R128) and PREF (R143).
-/

namespace Sys2Proof.Machine

/-- The value of the low n bytes read, extended to 64 bits (07 R121). -/
def extend (signed : Bool) (bs : List Byte) : Dword :=
  let v := ofBytes bs
  if signed then BitVec.ofInt 64 (sval (8 * bs.length) v) else dw v

/-- The destination of a load. -/
def loadDest (d : Reg) (v : Dword) : Dest := .x d v

/-- A scalar load of n bytes at E with base register a (07 R121, R123). -/
def loadScalar (s : State) (signed : Bool) (d a : Reg) (e : Dword) (n : Nat) (la : BitVec 4) : State :=
  match baseAddress s.hart a e n with
  | none => raiseL s .addr e
  | some (e, _) =>
    match addrFault s s.agent false true (parts e n) with
    | some t => raiseL s t.cause t.val
    | none =>
      match loadBytes s e n with
      | (s, .error t) => issueL s la (loadDest d 0) 0 false (some t)
      | (s, .ok (bs, m)) =>
        issueL (widenHla s m) la (loadDest d (extend signed bs)) 0 false none

/-- The low n bytes of a register, lowest first. -/
def lowBytes (v : Dword) (n : Nat) : List Byte := bytesOf n v.toNat

/-- A scalar store of n bytes at E with base register a (07 R121, R124, R126). -/
def storeScalar (s : State) (v : Dword) (a : Reg) (e : Dword) (n : Nat) : State :=
  match baseAddress s.hart a e n with
  | none => raise s .addr e
  | some (e, stk) =>
    match addrFault s s.agent true true (parts e n) with
    | some t => raise s t.cause t.val
    | none => storePieces s (piecesOf e (lowBytes v n) stk)

/-- The bytes of a size code (07 R121). -/
def sizeOf2 (z : BitVec 2) : Nat := 2 ^ z.toNat

/-- E of a format M access (07 R121). -/
def immAddress (h : Hart) (a : Reg) (o : BitVec 10) (z : BitVec 2) : Dword :=
  h.rx a + o.signExtend 64 * dw (sizeOf2 z)

/-- E of an indexed access (07 R121). -/
def idxAddress (h : Hart) (a b : Reg) (z : BitVec 2) : Dword := h.rx a + h.rx b * dw (sizeOf2 z)

/-- LDS (07 R121). -/
def execLds (d a : Reg) (o : BitVec 10) (z : BitVec 2) (l : BitVec 4) (s : State) :
    Host.Outcome State Fault Refusal :=
  ok (loadScalar s true d a (immAddress s.hart a o z) (sizeOf2 z) l)

/-- LDZ (07 R121). -/
def execLdz (d a : Reg) (o : BitVec 10) (z : BitVec 2) (l : BitVec 4) (s : State) :
    Host.Outcome State Fault Refusal :=
  ok (loadScalar s false d a (immAddress s.hart a o z) (sizeOf2 z) l)

/-- ST: rd names the data register (07 R121). -/
def execSt (d a : Reg) (o : BitVec 10) (z : BitVec 2) (s : State) : Host.Outcome State Fault Refusal :=
  ok (storeScalar s (s.hart.rx d) a (immAddress s.hart a o z) (sizeOf2 z))

/-- LDSX (07 R121). -/
def execLdsx (d a b : Reg) (z : BitVec 2) (l : BitVec 4) (s : State) :
    Host.Outcome State Fault Refusal :=
  ok (loadScalar s true d a (idxAddress s.hart a b z) (sizeOf2 z) l)

/-- LDZX (07 R121). -/
def execLdzx (d a b : Reg) (z : BitVec 2) (l : BitVec 4) (s : State) :
    Host.Outcome State Fault Refusal :=
  ok (loadScalar s false d a (idxAddress s.hart a b z) (sizeOf2 z) l)

/-- STX (07 R121). -/
def execStx (d a b : Reg) (z : BitVec 2) (s : State) : Host.Outcome State Fault Refusal :=
  ok (storeScalar s (s.hart.rx d) a (idxAddress s.hart a b z) (sizeOf2 z))

/-- PREF with k = 0 of a slice address fills the view buffer, of a V-address its translation; k = 1 the
translation only. It never faults, and an address that would is dropped (07 R143). -/
def prefetch (s : State) (e : Dword) (data : Bool) : State :=
  match addrFault s s.agent false true [(e, 1)] with
  | some _ => s
  | none =>
    match formOf s s.cid e with
    | .bad => s
    | .slice c off =>
      let t := c.toNat % 4096
      if !data || t == s.cid || (readRefused s s.cid t off).isSome then s
      else (viewSector s s.cid (sectorKey (sliceKey t off))).1
    | .virt va =>
      match translate s s.agent needRead va with
      | (_, .error _) => s
      | (s', .ok _) => s'

/-- PREF (07 R143). -/
def execPref (a : Reg) (k : BitVec 4) (s : State) : Host.Outcome State Fault Refusal :=
  ok (onHart (prefetch s (s.hart.rx a) (k == 0)) Hart.retire)

end Sys2Proof.Machine
end

