-- ==== Sys2Proof/Machine/Amo.lean ====
section
/-!
DEFINITION. Atomics (11 R204 to R206, R224, R225) and release tags.
-/

namespace Sys2Proof.Machine

/-! ### Release tags -/

/-- Whether a tag is live (11 R205). -/
def ReleaseTag.live (now : Nat) (t : ReleaseTag) : Bool := decide (now < t.attached + 4096)

/-- The smallest scope of a home that takes in every core an entry names (11 R200, R205). -/
def tagScope (home : Nat) (a : Acquired) : Nat :=
  if home < 4096 then a.scopeFrom home
  else if ownHbm home then
    match a with
    | .pair c _ => if inHomeRegion 2 home c then 2 else 3
    | .region sc c => if inHomeRegion 2 home c then max 2 sc else 3
    | .homeRegion sc h => if h = home then sc else max sc 3
  else 4

/-- A region around a home that contains every core named (11 R198, R200, R205). -/
def tagRegion (home : Nat) (l : List Acquired) : Acquired :=
  let sc := (l.map (tagScope home)).foldl max 0
  if home < 4096 then .region sc home else .homeRegion sc home

/-- Whether an entry is a pair. -/
def Acquired.isPair (a : Acquired) : Bool :=
  match a with
  | .pair _ _ => true
  | _ => false

/-- Attach a release tag to a location (11 R205): it replaces a tag of the same core; a ninth tag, or a
tag beside a region, collapses the location into one region. -/
def attachTag (now home key core : Nat) (stamp : Dword) (l : List ReleaseTag) : List ReleaseTag :=
  let l := l.filter (·.live now)
  let here := l.filter fun t => t.key == key
  let others := l.filter fun t => t.key != key
  let mine := here.filter fun t => match t.tag with
    | .pair c _ => c != core
    | _ => true
  let new : ReleaseTag := { key := key, tag := .pair core stamp, attached := now }
  if mine.any (fun t => !t.tag.isPair) || 8 ≤ mine.length then
    others ++ [{ new with tag := tagRegion home (new.tag :: mine.map (·.tag)) }]
  else others ++ mine ++ [new]

/-- The locations of a home that have tags, least recently tagged first. -/
def tagLocations (home : Nat) (l : List ReleaseTag) : List Nat :=
  let ks := (l.filter fun t => homeNum t.key == home).map (·.key)
  ks.reverse.eraseDups.reverse

/-- Evict the least recently tagged location when a home holds more than 1,024, folding its tags into the
home's eviction region (11 R205). -/
def evictTags (s : State) (home : Nat) : State :=
  let locs := tagLocations home s.pk.tags
  if locs.length ≤ 1024 then s
  else
    match locs.head? with
    | none => s
    | some k =>
      let gone := s.pk.tags.filter fun t => t.key == k
      let old := s.pk.evicted.find? fun e => e.1 == home && decide (s.cycle < e.2.2 + 4096)
      let all := gone.map (·.tag) ++ (old.map fun e => e.2.1).toList
      let last := ((gone.map (·.attached)) ++ (old.map fun e => e.2.2).toList).foldl max 0
      { s with pk := { s.pk with
        tags := s.pk.tags.filter fun t => t.key != k
        evicted := (home, tagRegion home all, last) :: s.pk.evicted.filter fun e => e.1 != home } }

/-- Attach a tag at the home of a location. -/
def tagLocation (s : State) (key core : Nat) (stamp : Dword) : State :=
  let home := homeNum key
  let s := { s with pk := { s.pk with tags := attachTag s.cycle home key core stamp s.pk.tags } }
  evictTags s home

/-- What an acquiring atomic is given: the live tags of the location and the home's live eviction region
(11 R206). -/
def tagsAt (s : State) (key : Nat) : List Acquired :=
  ((s.pk.tags.filter fun t => t.key == key && t.live s.cycle).map (·.tag)) ++
    (s.pk.evicted.filter fun e => e.1 == homeNum key && decide (s.cycle < e.2.2 + 4096)).map
      fun e => e.2.1

/-! ### The operation -/

/-- The new value of an atomic on W-bit values, and its flags (11 R224). -/
def amoValue (op w : Nat) (old v cmp : Nat) : Nat × Flags :=
  match op with
  | 0 => (v, 0)
  | 1 => ((old + v) % 2 ^ w, 0)
  | 2 => (old &&& v, 0)
  | 3 => (old ||| v, 0)
  | 4 => (old ^^^ v, 0)
  | 5 => (if sval w v < sval w old then v else old, 0)
  | 6 => (if sval w old < sval w v then v else old, 0)
  | 7 => (min old v, 0)
  | 8 => (max old v, 0)
  | 9 => (if old = cmp then v else old, 0)
  | 10 => fAdd (if w = 64 then .f64 else .f32) .rne old v
  | 11 => (old, 0)
  | _ => (v, 0)

/-- The value x[rd] takes (11 R224). -/
def amoResult (op w old : Nat) : Dword :=
  if op ≠ 10 ∧ w = 32 then BitVec.ofInt 64 (sval 32 old) else dw old

/-- The location of an atomic: key, page place if it is a V-address, and its label. -/
structure Location where
  key : Nat
  place : Option Place
  mask : Mask
  deriving DecidableEq, Repr

/-- Resolve a location for an atomic (11 R225): WIN, ADDR for host memory, the page faults, PERM, and ECC.
Data of the own slice is no off-core result (01 R21). -/
def amoLocate (s : State) (ag : Agent) (op : Nat) (e : Dword) : State × Except Cause Location :=
  match formOf s ag.core e with
  | .bad => (s, .error .addr)
  | .slice c off =>
    let t := c.toNat % 4096
    let g := grantsAt (getCore s t) off
    let key := sliceKey t off
    if t ≠ ag.core ∧ ¬ samePartition s ag.core t then (s, .error .win)
    else if t ≠ ag.core ∧ ¬ (g.rd && g.pb) then (countRefusal s t, .error .win)
    else if isMarked s key then (s, .error .ecc)
    else
      ({ s with hart := { s.hart with near := t == ag.core } },
        .ok { key := key, place := none, mask := bankMask s t (bankOf off) })
  | .virt va =>
    let n : Need := { r := true, w := op != 11, x := false, page := if op = 11 then .ldpage else .stpage }
    match placeOf s ag n va with
    | (s, .error c) => (s, .error c)
    | (s, .ok (e1, pl)) =>
      let s := reach s pl.key
      if entU pl.leaf then (s, .error .addr)
      else if !permits n ag e1 pl then (s, .error .perm)
      else if isMarked s pl.key then (s, .error .ecc)
      else (s, .ok { key := pl.key, place := some pl, mask := pl.mask s })

/-- Widen what the location's label must absorb, or LABEL (11 R219, R225). -/
def amoLabel (s : State) (ag : Agent) (loc : Location) (label : Mask) : Except Cause State :=
  match loc.place with
  | none => .ok (widenBank s ag.launch (sliceCore loc.key) (bankOf (sliceOff loc.key)) label)
  | some pl =>
    if subMask label loc.mask then .ok s
    else if entAb pl.leaf then
      let (s, l) := unionLabel s pl.handle ag.launch (entLsid pl.leaf) label
      .ok (changeLeaf s pl.handle pl.ia fun e => withLsid e l)
    else .error .label

/-- The old value of an atomic: the own slice's log region reads as its records (11 R185). -/
def amoOld (s : State) (ag : Agent) (key n : Nat) : Nat :=
  if isSliceKey key ∧ sliceCore key = ag.core then
    (sliceSector s ag.core (sliceOff key)).toNat / 2 ^ (8 * (key % 32)) % 2 ^ (8 * n)
  else memRead s.mem key n

/-- Perform an atomic at its home as one unit (11 R204, R224): the old value and the flags. -/
def amoApply (s : State) (ag : Agent) (loc : Location) (op w v cmp : Nat) (label : Mask) :
    Except Cause (State × Nat × Flags) :=
  let old := amoOld s ag loc.key (w / 8)
  let (new, fl) := amoValue op w old v cmp
  if op = 11 then .ok (s, old, 0)
  else
    match amoLabel s ag loc label with
    | .error c => .error c
    | .ok s =>
      let s := match loc.place with
        | some pl => openPage s ag.launch pl
        | none => s
      .ok ({ s with mem := memWrite s.mem loc.key (w / 8) new }, old, fl)

/-- Whether a record may hold bytes of a location (11 R204): a non-task record of its sector, not applied. -/
def overlapsLocation (s : State) (e : Dword) (n : Nat) (r : Record) : Bool :=
  let a := normalise s s.cid e
  !r.task && !r.applied && r.addr == (a &&& ~~~31) && (bit a 63 || r.root == s.hart.s1base) &&
    (List.range n).any fun i => r.mask.getLsbD (bits a 0 5 + i)

/-- Send the unpublished records up to the last that overlaps a location (11 R204). -/
def sendUpTo (s : State) (e : Dword) (n : Nat) : State :=
  let last := ((s.core.log.filter fun r => overlapsLocation s e n r && !r.pubd).map (·.rid)).foldl max 0
  { s with core := { s.core with
    log := s.core.log.map fun r => if !r.task && r.rid ≤ last then { r with pubd := true } else r } }

/-- The faults an atomic raises at issue (11 R225, steps 1 to 3). -/
def amoIssueFault (s : State) (op : Nat) (e : Dword) (n : Nat) : Option Trap :=
  if inTask s.hart ∧ op ≠ 11 then some ⟨.taskctx, e⟩
  else if e.toNat % n ≠ 0 then some ⟨.align, e⟩
  else addrFault s s.agent (op != 11) true [(e, n)]

/-- The atomic proper, once any PUB has completed: records that overlap the location go first (11 R204),
then the home performs it; tags are returned and attached (R205, R206). -/
def amoPerform (s : State) (op : Nat) (d : Reg) (e : Dword) (vb : Dword) (w : Nat) (acq : Bool)
    (stamp : Option Dword) (la : BitVec 4) : State :=
  let n := w / 8
  let waitFor := s.core.log.filter (overlapsLocation s e n)
  if !waitFor.isEmpty then
    match (heldOf s s.hgid).filter fun h => waitFor.any fun x => !x.pubd || decide (h.1.rid ≤ x.rid) with
    | some (r, t) => raiseDeferred s t r.pc
    | none =>
      if waitFor.any (fun r => !r.pubd) && s.core.held.isNone then stall (sendUpTo s e n) else stall s
  else
    let dest : Dword → Dest := fun v => if op = 12 then .none else .x d v
    match amoLocate s s.agent op e with
    | (s, .error c) => issueL s la (dest 0) 0 false (some ⟨c, e⟩)
    | (s, .ok loc) =>
      let label := hlaMask s ||| loc.mask
      match amoApply s s.agent loc op w (vb.toNat % 2 ^ w) ((s.hart.rx d).toNat % 2 ^ w) label with
      | .error c => issueL s la (dest 0) 0 false (some ⟨c, e⟩)
      | .ok (s, old, fl) =>
        let s := dropView s s.cid [sectorKey loc.key]
        let got := if acq then tagsAt s loc.key else []
        let s := match stamp with
          | some st =>
            if isPrivate s s.cid e then s else tagLocation s loc.key s.cid st
          | none => s
        let s := acquireEntries s s.cid got
        let s := if op = 12 then s else widenHla s loc.mask
        issueL s la (dest (amoResult op w old)) fl (op == 10) none

/-- An atomic (11 R204 to R206, R224, R225). An ordered one ends every window first and reads its operands
after that, as the first instruction after a window does (03 R58). Order codes: 0 none, 1 acq, 2 rel, 3 ar. -/
def amo (s : State) (op : Nat) (d a b : Reg) (wf : BitVec 1) (p : BitVec 2) (la : BitVec 4) : State :=
  let w := if wf = 1 then 32 else 64
  let acq := p = 1 ∨ p = 3
  let rel := p = 2 ∨ p = 3
  let go := fun (s : State) =>
    let e := s.hart.rx a
    let vb := s.hart.rx b
    match amoIssueFault s op e (w / 8) with
    | some t => raiseL s t.cause t.val
    | none =>
      if rel then publish s fun s st => amoPerform s op d e vb w acq (some st) la
      else amoPerform s op d e vb w acq none la
  if p = 0 then go s else syncFirst s go

def execAmoSwap (d a b : Reg) (w : BitVec 1) (p : BitVec 2) (l : BitVec 4) (s : State) :
    Host.Outcome State Fault Refusal := ok (amo s 0 d a b w p l)
def execAmoAdd (d a b : Reg) (w : BitVec 1) (p : BitVec 2) (l : BitVec 4) (s : State) :
    Host.Outcome State Fault Refusal := ok (amo s 1 d a b w p l)
def execAmoAnd (d a b : Reg) (w : BitVec 1) (p : BitVec 2) (l : BitVec 4) (s : State) :
    Host.Outcome State Fault Refusal := ok (amo s 2 d a b w p l)
def execAmoOr (d a b : Reg) (w : BitVec 1) (p : BitVec 2) (l : BitVec 4) (s : State) :
    Host.Outcome State Fault Refusal := ok (amo s 3 d a b w p l)
def execAmoXor (d a b : Reg) (w : BitVec 1) (p : BitVec 2) (l : BitVec 4) (s : State) :
    Host.Outcome State Fault Refusal := ok (amo s 4 d a b w p l)
def execAmoMin (d a b : Reg) (w : BitVec 1) (p : BitVec 2) (l : BitVec 4) (s : State) :
    Host.Outcome State Fault Refusal := ok (amo s 5 d a b w p l)
def execAmoMax (d a b : Reg) (w : BitVec 1) (p : BitVec 2) (l : BitVec 4) (s : State) :
    Host.Outcome State Fault Refusal := ok (amo s 6 d a b w p l)
def execAmoMinn (d a b : Reg) (w : BitVec 1) (p : BitVec 2) (l : BitVec 4) (s : State) :
    Host.Outcome State Fault Refusal := ok (amo s 7 d a b w p l)
def execAmoMaxn (d a b : Reg) (w : BitVec 1) (p : BitVec 2) (l : BitVec 4) (s : State) :
    Host.Outcome State Fault Refusal := ok (amo s 8 d a b w p l)
def execAmoCas (d a b : Reg) (w : BitVec 1) (p : BitVec 2) (l : BitVec 4) (s : State) :
    Host.Outcome State Fault Refusal := ok (amo s 9 d a b w p l)
def execAmoFadd (d a b : Reg) (w : BitVec 1) (p : BitVec 2) (l : BitVec 4) (s : State) :
    Host.Outcome State Fault Refusal := ok (amo s 10 d a b w p l)
def execAmoLd (d a : Reg) (w : BitVec 1) (p : BitVec 2) (l : BitVec 4) (s : State) :
    Host.Outcome State Fault Refusal := ok (amo s 11 d a 0 w p l)
def execAmoSt (a b : Reg) (w : BitVec 1) (p : BitVec 2) (l : BitVec 4) (s : State) :
    Host.Outcome State Fault Refusal := ok (amo s 12 0 a b w p l)

end Sys2Proof.Machine
end

