-- ==== Sys2Proof/Machine/IntAlu.lean ====
section
/-!
DEFINITION. Integer register, immediate, shift and move instructions (07 R109 to R114).
-/

namespace Sys2Proof.Machine

/-- An integer instruction of two x registers (07 R107, R109). -/
def rr (s : State) (d a b : Reg) (f : Dword → Dword → Dword) : Host.Outcome State Fault Refusal :=
  ok (onHart s fun h => (h.wx d (f (h.rx a) (h.rx b))).retire)

/-- An integer instruction of one x register. -/
def r1 (s : State) (d a : Reg) (f : Dword → Dword) : Host.Outcome State Fault Refusal :=
  ok (onHart s fun h => (h.wx d (f (h.rx a))).retire)

/-- sext32 of 07 R107. -/
def sext32 (v : Dword) : Dword := (v.setWidth 32).signExtend 64

/-- The shift amount b[5:0]. -/
def amt6 (b : Dword) : Nat := b.toNat % 64

/-- The shift amount b[4:0]. -/
def amt5 (b : Dword) : Nat := b.toNat % 32

/-- The larger or smaller by a test. -/
def pick (c : Bool) (a b : Dword) : Dword := if c then a else b

/-- Leading zeros of a w-bit number (07 R109). -/
def clzNat (w v : Nat) : Nat := if v = 0 then w else w - 1 - Nat.log2 v

/-- Trailing zeros of the low `w` bits of a number. -/
def ctzNat : Nat → Nat → Nat
  | 0, _ => 0
  | w + 1, v => if v % 2 = 1 then 0 else 1 + ctzNat w (v / 2)

/-- One bits of the low `w` bits of a number. -/
def popNat : Nat → Nat → Nat
  | 0, _ => 0
  | w + 1, v => v % 2 + popNat w (v / 2)

/-- The bytes of a doubleword in reverse order (07 R109). -/
def byteSwap (v : Dword) : Dword :=
  dw (packLanes 8 ((List.range 8).map fun i => v.toNat / 2 ^ (8 * (7 - i)) % 256))

def execAdd (d a b : Reg) (s : State) := rr s d a b fun x y => x + y
def execSub (d a b : Reg) (s : State) := rr s d a b fun x y => x - y
def execAnd (d a b : Reg) (s : State) := rr s d a b fun x y => x &&& y
def execOr (d a b : Reg) (s : State) := rr s d a b fun x y => x ||| y
def execXor (d a b : Reg) (s : State) := rr s d a b fun x y => x ^^^ y
def execAndn (d a b : Reg) (s : State) := rr s d a b fun x y => x &&& ~~~y
def execOrn (d a b : Reg) (s : State) := rr s d a b fun x y => x ||| ~~~y
def execSll (d a b : Reg) (s : State) := rr s d a b fun x y => x <<< amt6 y
def execSrl (d a b : Reg) (s : State) := rr s d a b fun x y => x >>> amt6 y
def execSra (d a b : Reg) (s : State) := rr s d a b fun x y => x.sshiftRight (amt6 y)
def execRor (d a b : Reg) (s : State) := rr s d a b fun x y => x.rotateRight (amt6 y)
def execSlt (d a b : Reg) (s : State) := rr s d a b fun x y => dbool (x.slt y)
def execSltn (d a b : Reg) (s : State) := rr s d a b fun x y => dbool (x.ult y)
def execSeq (d a b : Reg) (s : State) := rr s d a b fun x y => dbool (x == y)
def execMin (d a b : Reg) (s : State) := rr s d a b fun x y => pick (x.slt y) x y
def execMax (d a b : Reg) (s : State) := rr s d a b fun x y => pick (x.slt y) y x
def execMinn (d a b : Reg) (s : State) := rr s d a b fun x y => pick (x.ult y) x y
def execMaxn (d a b : Reg) (s : State) := rr s d a b fun x y => pick (x.ult y) y x
def execAddw (d a b : Reg) (s : State) := rr s d a b fun x y => sext32 (x + y)
def execSubw (d a b : Reg) (s : State) := rr s d a b fun x y => sext32 (x - y)
def execSllw (d a b : Reg) (s : State) := rr s d a b fun x y => sext32 (x <<< amt5 y)
def execSrlw (d a b : Reg) (s : State) :=
  rr s d a b fun x y => ((x.setWidth 32) >>> amt5 y).signExtend 64
def execSraw (d a b : Reg) (s : State) :=
  rr s d a b fun x y => ((x.setWidth 32).sshiftRight (amt5 y)).signExtend 64
def execClz (d a : Reg) (s : State) := r1 s d a fun x => dw (clzNat 64 x.toNat)
def execCtz (d a : Reg) (s : State) := r1 s d a fun x => dw (ctzNat 64 x.toNat)
def execPopc (d a : Reg) (s : State) := r1 s d a fun x => dw (popNat 64 x.toNat)
def execBrev (d a : Reg) (s : State) := r1 s d a fun x => x.reverse
def execBswap (d a : Reg) (s : State) := r1 s d a byteSwap

/-- The width in bits of SEXT and ZEXT (07 R110). -/
def extWidth (w : BitVec 4) : Nat := 8 * 2 ^ w.toNat

/-- SEXT (07 R110); widths 3 to 15 are reserved. -/
def execSext (d a : Reg) (w : BitVec 4) (s : State) : Host.Outcome State Fault Refusal :=
  if w.toNat < 3 then r1 s d a fun x => (x.setWidth (extWidth w)).signExtend 64 else ok (illegal s)

/-- ZEXT (07 R110). -/
def execZext (d a : Reg) (w : BitVec 4) (s : State) : Host.Outcome State Fault Refusal :=
  if w.toNat < 3 then r1 s d a fun x => (x.setWidth (extWidth w)).setWidth 64 else ok (illegal s)

def execMul (d a b : Reg) (s : State) := rr s d a b fun x y => x * y
def execMulh (d a b : Reg) (s : State) :=
  rr s d a b fun x y => dw (wrapInt 128 (x.toInt * y.toInt) / 2 ^ 64)
def execMulhn (d a b : Reg) (s : State) := rr s d a b fun x y => dw (x.toNat * y.toNat / 2 ^ 64)
def execMulw (d a b : Reg) (s : State) := rr s d a b fun x y => sext32 (x * y)

/-- Signed quotient of w-bit values (07 R111, 09 R167): −1 for a zero divisor, truncated, wrapped. -/
def divS (w a b : Nat) : Nat := if b % 2 ^ w = 0 then 2 ^ w - 1 else wrapInt w ((sval w a).tdiv (sval w b))
/-- Unsigned quotient: all ones for a zero divisor. -/
def divU (w a b : Nat) : Nat := if b % 2 ^ w = 0 then 2 ^ w - 1 else a % 2 ^ w / (b % 2 ^ w)
/-- Signed remainder, with the sign of the dividend; the dividend for a zero divisor. -/
def remS (w a b : Nat) : Nat := if b % 2 ^ w = 0 then a % 2 ^ w else wrapInt w ((sval w a).tmod (sval w b))
/-- Unsigned remainder. -/
def remU (w a b : Nat) : Nat := if b % 2 ^ w = 0 then a % 2 ^ w else a % 2 ^ w % (b % 2 ^ w)

/-- A class L integer division (07 R111). -/
def divide (s : State) (d a b : Reg) (l : BitVec 4) (f : Nat → Nat → Nat) :
    Host.Outcome State Fault Refusal :=
  ok (issueL s l (.x d (dw (f (s.hart.rx a).toNat (s.hart.rx b).toNat))) 0 false none)

def execDiv (d a b : Reg) (l : BitVec 4) (s : State) := divide s d a b l (divS 64)
def execDivn (d a b : Reg) (l : BitVec 4) (s : State) := divide s d a b l (divU 64)
def execRem (d a b : Reg) (l : BitVec 4) (s : State) := divide s d a b l (remS 64)
def execRemn (d a b : Reg) (l : BitVec 4) (s : State) := divide s d a b l (remU 64)

/-- The sign-extended immediate (03 R52). -/
def immS (i : BitVec 16) : Dword := i.signExtend 64
/-- The zero-extended immediate (03 R52). -/
def immU (i : BitVec 16) : Dword := i.setWidth 64

def execAddi (d a : Reg) (i : BitVec 16) (s : State) := r1 s d a fun x => x + immS i
def execSlti (d a : Reg) (i : BitVec 16) (s : State) := r1 s d a fun x => dbool (x.slt (immS i))
def execAndi (d a : Reg) (i : BitVec 16) (s : State) := r1 s d a fun x => x &&& immU i
def execOri (d a : Reg) (i : BitVec 16) (s : State) := r1 s d a fun x => x ||| immU i
def execXori (d a : Reg) (i : BitVec 16) (s : State) := r1 s d a fun x => x ^^^ immU i

def execSlli (d a : Reg) (n : BitVec 6) (s : State) := r1 s d a fun x => x <<< n.toNat
def execSrli (d a : Reg) (n : BitVec 6) (s : State) := r1 s d a fun x => x >>> n.toNat
def execSrai (d a : Reg) (n : BitVec 6) (s : State) := r1 s d a fun x => x.sshiftRight n.toNat
def execRori (d a : Reg) (n : BitVec 6) (s : State) := r1 s d a fun x => x.rotateRight n.toNat

/-- SETH (07 R114): one halfword, the others zero. -/
def execSeth (d : Reg) (h : BitVec 2) (i : BitVec 16) (s : State) : Host.Outcome State Fault Refusal :=
  r1 s d d fun _ => immU i <<< (16 * h.toNat)

/-- INSH (07 R114): one halfword of x[rd], the others kept. -/
def execInsh (d : Reg) (h : BitVec 2) (i : BitVec 16) (s : State) : Host.Outcome State Fault Refusal :=
  r1 s d d fun x => (x &&& ~~~((0xFFFF : Dword) <<< (16 * h.toNat))) ||| (immU i <<< (16 * h.toNat))

end Sys2Proof.Machine
end

