-- ==== Sys2Proof/Machine/Branch.lean ====
section
/-!
DEFINITION. Control transfer (07 R130 to R137) and the hints that touch no memory (07 R141, R142, 01 R23).
The likely bit of BRC says which block the instruction buffer keeps (07 R137).
-/

namespace Sys2Proof.Machine

/-- PC-relative displacement of n bits, in words (03 R52). -/
def pcRel (pc : Dword) (n : Nat) (d : BitVec n) : Dword := pc + (d.signExtend 64) * 4

/-- PBR (07 R131). -/
def execPbr (t : BitVec 2) (d : BitVec 24) (s : State) : Host.Outcome State Fault Refusal :=
  ok (onHart s fun h => (h.wb t (pcRel h.pc 24 d)).retire)

/-- The 64-byte block of an address (01 R24). -/
def blockOf (a : Dword) : Dword := a &&& ~~~63

/-- The bubble of a transfer through a b register: 3 less the instructions issued since it was written, the
transfer among them (07 R136). -/
def Hart.bubbleOf (h : Hart) (t : BitVec 2) : Nat := 3 - (h.issued + 1 - (h.bAt[t.toNat]?).getD 0)

/-- A transfer in a cycle, with its bubble: the next instruction is delivered that many cycles late (07 R136). -/
def Hart.transfer (h : Hart) (now : Nat) (target : Dword) (bubble : Nat) : Hart :=
  { h.jump target with redirect := if bubble = 0 then 0 else now + 1 + bubble }

/-- A transfer to a b register. -/
def Hart.transferB (h : Hart) (now : Nat) (t : BitVec 2) : Hart := h.transfer now (h.rb t) (h.bubbleOf t)

/-- BRC: to b[bt] when the condition holds (07 R132). The likely bit names the block the instruction buffer
keeps when it must give one up: the target's or the fall-through one (R137). -/
def branchIf (s : State) (t : BitVec 2) (k : BitVec 1) (c : Bool) : Host.Outcome State Fault Refusal :=
  ok (onHart s fun h =>
    { (if c then h.transferB s.cycle t else h.retire) with
      keepBlock := some (blockOf (if k = 1 then h.rb t else h.pc + 4)) })

def execBrcEq (t : BitVec 2) (a b : Reg) (k : BitVec 1) (s : State) :=
  branchIf s t k (s.hart.rx a == s.hart.rx b)
def execBrcNe (t : BitVec 2) (a b : Reg) (k : BitVec 1) (s : State) :=
  branchIf s t k (s.hart.rx a != s.hart.rx b)
def execBrcLt (t : BitVec 2) (a b : Reg) (k : BitVec 1) (s : State) :=
  branchIf s t k ((s.hart.rx a).slt (s.hart.rx b))
def execBrcGe (t : BitVec 2) (a b : Reg) (k : BitVec 1) (s : State) :=
  branchIf s t k (!(s.hart.rx a).slt (s.hart.rx b))
def execBrcLtn (t : BitVec 2) (a b : Reg) (k : BitVec 1) (s : State) :=
  branchIf s t k ((s.hart.rx a).ult (s.hart.rx b))
def execBrcGen (t : BitVec 2) (a b : Reg) (k : BitVec 1) (s : State) :=
  branchIf s t k (!(s.hart.rx a).ult (s.hart.rx b))
def execBrcAlw (t : BitVec 2) (k : BitVec 1) (s : State) := branchIf s t k true
def execBrcBset (t : BitVec 2) (a b : Reg) (k : BitVec 1) (s : State) :=
  branchIf s t k (bit (s.hart.rx a) (amt6 (s.hart.rx b)))

/-- PBRR: ALIGN when the target is not a multiple of 4 (07 R130, R133). -/
def execPbrr (a : Reg) (t : BitVec 2) (s : State) : Host.Outcome State Fault Refusal :=
  if bits (s.hart.rx a) 0 2 = 0 then ok (onHart s fun h => (h.wb t (h.rx a)).retire)
  else ok (raise s .align (s.hart.rx a))

/-- CALL: the link is the next address, b is read first (07 R133). -/
def execCall (d : Reg) (t : BitVec 2) (s : State) : Host.Outcome State Fault Refusal :=
  ok (onHart s fun h => (h.wx d (h.pc + 4)).transferB s.cycle t)

/-- RET: ALIGN when the target is not a multiple of 4 (07 R130, R133). -/
def execRet (a : Reg) (s : State) : Host.Outcome State Fault Refusal :=
  if bits (s.hart.rx a) 0 2 = 0 then ok (onHart s fun h => h.transfer s.cycle (h.rx a) 3)
  else ok (raise s .align (s.hart.rx a))

/-- JMPB (07 R133). -/
def execJmpb (t : BitVec 2) (s : State) : Host.Outcome State Fault Refusal :=
  ok (onHart s fun h => h.transferB s.cycle t)

/-- BGET (07 R133). -/
def execBget (d : Reg) (t : BitVec 2) (s : State) : Host.Outcome State Fault Refusal :=
  ok (onHart s fun h => (h.wx d (h.rb t)).retire)

/-- J (07 R134). -/
def execJ (d : BitVec 26) (s : State) : Host.Outcome State Fault Refusal :=
  ok (onHart s fun h => h.transfer s.cycle (pcRel h.pc 26 d) 2)

/-- NOP (07 R141). -/
def execNop (s : State) : Host.Outcome State Fault Refusal := ok (onHart s Hart.retire)

/-- ALIGN: the hart's next fetch request is held for at most 64 × (w + 1) cycles from when it would have
been made (01 R25, 07 R142): the bound stands here, the request where it is made. -/
def execAlign (w : BitVec 4) (s : State) : Host.Outcome State Fault Refusal :=
  ok (onHart s fun h => { h.retire with alignHold := some (64 * (w.toNat + 1)) })

/-- SPIN: issue passes to the next ready hart (01 R23, 07 R141). -/
def execSpin (s : State) : Host.Outcome State Fault Refusal :=
  ok { onHart s Hart.retire with core := { s.core with pass := .spun } }

end Sys2Proof.Machine
end

