-- ==== Sys2Proof/Machine/ErrorLog.lean ====
section
/-!
DEFINITION. The error logs of the levels (19 R380), the totals (R360), and the report of an uncorrectable error
that a consumer has met (R381).
-/

namespace Sys2Proof.Machine

/-- Add an entry to a level's log; the ring holds 4,096 (19 R380). -/
def logEntry (s : State) (level : Nat) (e : LogEntry) : State :=
  let l := (s.pk.errlog[level]?).getD []
  let full := 4096 ≤ l.length
  { s with pk := { s.pk with
    errlog := s.pk.errlog.set level ((if full then l.drop 1 else l) ++ [e])
    errlogged := s.pk.errlogged.set level (((s.pk.errlogged[level]?).getD 0) + 1)
    errlost := if full then s.pk.errlost.set level (((s.pk.errlost[level]?).getD 0) + 1) else s.pk.errlost } }

/-- The index in a level's ring of 4,096 of the entry written last. -/
def lastEntry (s : State) (level : Nat) : Nat := (((s.pk.errlogged[level]?).getD 0) + 4095) % 4096

/-- Count an error of a level in the totals RESYNC reports, of the package and of the tenant (19 R360). -/
def countError (s : State) (level : Nat) (fixed : Bool) (tenant : Option Nat) : State :=
  let up := fun (l : List Nat) => l.set level (((l[level]?).getD 0) + 1)
  let s := { s with pk := { s.pk with
    corrected := if fixed then up s.pk.corrected else s.pk.corrected
    uncorrected := if fixed then s.pk.uncorrected else up s.pk.uncorrected } }
  match tenant with
  | none => s
  | some t =>
    let x := getTenant s t
    setTenant s (if fixed then { x with corrected := up x.corrected } else { x with uncorrected := up x.uncorrected })

/-- The VALUE of TORN that names the entry written last (19 R359). -/
def tornValue (s : State) (level code : Nat) : Dword :=
  dw (code + level * 2 ^ 8 + 2 ^ 11 + lastEntry s level * 2 ^ 16)

/-- The log entry of an error in a core (19 R380; notes/assumptions/37.md): unit 1 the core, 2 a vector lane of it, 3
its grove's matrix array. -/
def coreEntry (s : State) (level kind unit core : Nat) : LogEntry :=
  { level := level, kind := kind, unit := unit, place := (cgidOf s core).toNat, addr := 0
    tenant := (tenantOf s core).getD 255, cycle := s.cycle }

/-- The page of a partition that holds an HBM key. -/
def pageOfKey (s : State) (p : Partition) (k : Nat) : Option Place :=
  (partLeaves s p).findSome? fun (_, e, b, ia) =>
    let base := pageKey s p e b ia
    if !entU e && decide (base ≤ k) && decide (k < base + 2 ^ b) then
      some { key := k, leaf := e, bits := b, ia := ia + (k - base), handle := p.handle, tenant := p.tenant,
             copied := false }
    else none

/-- The partition that holds a sector: a core's, or the one that maps the page. -/
def partOfKey (s : State) (k : Nat) : Option Partition :=
  if isSliceKey k then partOf s (sliceCore k)
  else s.pk.parts.find? fun p => (pageOfKey s p k).isSome

/-- The log entry of an error in a sector (R380; notes/assumptions/37.md): class 0 transient, 1 lasting, 2
uncorrectable; unit 0 an SRAM row with its core, 4 an HBM channel with its number, 5 a row of a cache slice (level 2)
with the channel of the sector it holds. -/
def sectorEntry (s : State) (level kind key : Nat) : LogEntry :=
  let slice := isSliceKey key
  { level := level, kind := kind, unit := if slice then 0 else if level = 2 then 5 else 4
    place := if slice then (cgidOf s (sliceCore key)).toNat else homeNum key - 4096
    addr := if slice then 0 else s.pk.pkg * 2 ^ 40 + key
    tenant := ((partOfKey s key).map (·.tenant)).getD 255, cycle := s.cycle }

/-- The log entry of an error that a hart of a core met, by its STVAL (19 R379, R380): one of HBM, or of core SRAM of
the stacked die (01 R18) or of the compute die, where messages stand too. -/
def metEntry (s : State) (ag : Agent) (core : Nat) (v : Dword) : LogEntry :=
  match keyOf s ag v with
  | none => coreEntry s 0 2 1 core
  | some k => sectorEntry s (if !isSliceKey k then 3 else if sliceOff k < 0x30000 then 0 else 1) 2 k

/-- An uncorrectable error that its consumer, on a core, has met: its entry `e` in the level's log, the totals, and an
UNCORR entry that names the consumer (19 R380, R381; notes/assumptions/34.md). -/
def consumed (s : State) (core : Nat) (e : LogEntry) (addr consumer : Dword) : State :=
  let s := countError (logEntry s e.level e) e.level false (tenantOf s core)
  match partOf s core with
  | some p => postError s p.handle 2 e.level addr consumer
  | none => s

/-- A hart as the consumer that an UNCORR entry names (notes/assumptions/34.md). -/
def hartId (s : State) (hart : Nat) : Dword := dw ((cgidOf s (hart / 4)).toNat * 4 + hart % 4)

/-- A consumer that is no hart, as an UNCORR entry names it: a streamer by bit 62 and the hart whose command it
works on, a die's scheduler by bit 61 and the die, Understory by bit 60 (DESIGN CHOICE: notes/assumptions/34.md). -/
inductive Consumer
  | streamer (hart : Nat)
  | scheduler (die : Nat)
  | understory
  deriving DecidableEq, Repr

/-- The number an UNCORR entry gives a consumer that is no hart (notes/assumptions/34.md). -/
def Consumer.detail (s : State) : Consumer → Dword
  | .streamer h => dw (2 ^ 62) + hartId s h
  | .scheduler d => dw (2 ^ 61 + d)
  | .understory => dw (2 ^ 60)

/-- What an engine's read for an agent leaves: where the engine met an uncorrectable error, it is the consumer that
the UNCORR entry names (19 R381). -/
def engineMet (s : State) (ag : Agent) (who : Consumer) (t : Trap) : State :=
  if t.cause = .ecc then consumed s ag.core (metEntry s ag ag.core t.val) t.val (who.detail s) else s

end Sys2Proof.Machine
end

