-- ==== Sys2Proof/Machine/Layout.lean ====
section
/-!
DEFINITION. What occupies a core slice (11 R185, R212, 13 R242): the system area, the log, spill areas,
tile storage and open windows.
-/

namespace Sys2Proof.Machine

/-- Whether two runs share a byte; an empty one shares none. -/
def overlap (a b : Run) : Bool :=
  decide (0 < a.2) && decide (0 < b.2) && decide (a.1 < b.1 + b.2) && decide (b.1 < a.1 + a.2)

/-- The system area (11 R185). -/
def systemArea : Run := (0, 0x1000)

/-- A core's log. -/
def logRun (co : Core) : Run := (co.logbase.toNat, co.logsize.toNat)

/-- A hart's spill area. -/
def spillRun (h : Hart) : Run := (bits h.spillbase 0 19, bits h.spillsize 0 17)

/-- The tiles a hart has bound, with their register numbers. -/
def hartTiles (h : Hart) : List (Nat × Dword) :=
  ((List.range 8).zip h.z.toList).filterMap fun (i, t) => t.map fun x => (i, x.word)

/-- The contexts of a core: its harts and the contexts assigned to it that are not resident (17 R334); not those of a
pre-empted launch, which are saved with the slice (R332). -/
def coreContexts (s : State) (core : Nat) : List Hart :=
  (List.range 4).map (fun i => getHart s (core * 4 + i)) ++
    (s.pk.launches.filter fun l => l.saved.isEmpty).flatMap fun l => (l.contexts.filter fun c => c.1 / 4 == core).map Prod.snd

/-- The open windows of a core. -/
def openWindows (co : Core) : List Run :=
  (co.win.toList.filter (bit · 63)).map fun w =>
    (bits w 12 7 * 4096, (bits w 28 7 + 1) * 4096 - bits w 12 7 * 4096)

/-- The overlap check of 11 R212: no open window meets the system area, the log, a spill area or tile
storage. -/
def windowsClear (co : Core) (ctxs : List Hart) : Bool :=
  let busy := systemArea :: logRun co :: ctxs.map spillRun ++
    ctxs.flatMap fun h => (hartTiles h).map fun t => tileRun t.2
  (openWindows co).all fun w => busy.all fun b => !overlap w b

/-- Whether a core, or a vector lane of it, is lasting, so that neither tasks nor hart contexts are placed on it
(19 R375). -/
def wornCore (s : State) (core : Nat) : Bool := (getCore s core).lasting || (getCore s core).laneLasting

/-- The cores of a partition on which hart contexts may be placed, in ascending CGID order: in service and
not lasting (01 R29, 19 R376). -/
def placeCores (s : State) (handle : Nat) : List Nat :=
  (partCores handle).filter fun c => inService s c && !wornCore s c

/-- The in-service cores of a partition. -/
def liveCores (s : State) (handle : Nat) : List Nat := (partCores handle).filter (inService s)

/-- The smallest slice capacity in a partition (01 R27). -/
def smallestSlice (s : State) (handle : Nat) : Nat :=
  ((liveCores s handle).map (capacity s)).foldl min 0x60000

end Sys2Proof.Machine
end

