-- ==== Sys2Proof/WellFormed.lean ====
section
/-!
DEFINITION. The requirements an instruction's entry places on the values of its own fields (03 R55):
a word that breaks one is reserved and raises ILLEGAL when it would issue. Steps with no encoding have
no such requirement.
-/

namespace Sys2Proof

/-- The ty code (03 R54) of the floating type whose element code is 8 + c (03 R65): f16, b16, f32, f64. -/
def sourceType (c : BitVec 2) : BitVec 2 := c + 2

/-- The requirements on field values: widths of SEXT and ZEXT (07 R110), rounding modes (03 R54), FCVTF
between different types (03 R64), ordering and lookahead of atomics (11 R224), scopes (03 R64), the mask
word of LBLGET (11 R228), the kind of PREF (07 R141), the two results of QPOPT (13 R234). -/
def wellFormed : Instr → Bool
  | .add _ _ _ => true
  | .sub _ _ _ => true
  | .and _ _ _ => true
  | .or _ _ _ => true
  | .xor _ _ _ => true
  | .andn _ _ _ => true
  | .orn _ _ _ => true
  | .sll _ _ _ => true
  | .srl _ _ _ => true
  | .sra _ _ _ => true
  | .ror _ _ _ => true
  | .slt _ _ _ => true
  | .sltn _ _ _ => true
  | .seq _ _ _ => true
  | .min _ _ _ => true
  | .max _ _ _ => true
  | .minn _ _ _ => true
  | .maxn _ _ _ => true
  | .addw _ _ _ => true
  | .subw _ _ _ => true
  | .sllw _ _ _ => true
  | .srlw _ _ _ => true
  | .sraw _ _ _ => true
  | .clz _ _ => true
  | .ctz _ _ => true
  | .popc _ _ => true
  | .brev _ _ => true
  | .bswap _ _ => true
  | .sext _ _ w => decide (w.toNat < 3)
  | .zext _ _ w => decide (w.toNat < 3)
  | .mul _ _ _ => true
  | .mulh _ _ _ => true
  | .mulhn _ _ _ => true
  | .mulw _ _ _ => true
  | .div _ _ _ _ => true
  | .divn _ _ _ _ => true
  | .rem _ _ _ _ => true
  | .remn _ _ _ _ => true
  | .addi _ _ _ => true
  | .slti _ _ _ => true
  | .andi _ _ _ => true
  | .ori _ _ _ => true
  | .xori _ _ _ => true
  | .slli _ _ _ => true
  | .srli _ _ _ => true
  | .srai _ _ _ => true
  | .rori _ _ _ => true
  | .seth _ _ _ => true
  | .insh _ _ _ => true
  | .fadd _ _ _ _ r => decide (r ≠ 5 ∧ r ≠ 6)
  | .fsub _ _ _ _ r => decide (r ≠ 5 ∧ r ≠ 6)
  | .fmul _ _ _ _ r => decide (r ≠ 5 ∧ r ≠ 6)
  | .fmin _ _ _ _ => true
  | .fmax _ _ _ _ => true
  | .fmini _ _ _ _ => true
  | .fmaxi _ _ _ _ => true
  | .fsgc _ _ _ _ => true
  | .fsgi _ _ _ _ => true
  | .fsgx _ _ _ _ => true
  | .feq _ _ _ _ => true
  | .flt _ _ _ _ => true
  | .fle _ _ _ _ => true
  | .fclass _ _ _ => true
  | .fcvti _ _ _ _ r => decide (r ≠ 5 ∧ r ≠ 6)
  | .fcvtn _ _ _ _ r => decide (r ≠ 5 ∧ r ≠ 6)
  | .icvtf _ _ _ _ r => decide (r ≠ 5 ∧ r ≠ 6)
  | .ncvtf _ _ _ _ r => decide (r ≠ 5 ∧ r ≠ 6)
  | .fcvtf _ _ c t r => decide ((r ≠ 5 ∧ r ≠ 6) ∧ sourceType c ≠ t)
  | .fdiv _ _ _ _ r _ => decide (r ≠ 5 ∧ r ≠ 6)
  | .fsqrt _ _ _ r _ => decide (r ≠ 5 ∧ r ≠ 6)
  | .fmadd _ _ _ _ _ => true
  | .fmsub _ _ _ _ _ => true
  | .fnmadd _ _ _ _ _ => true
  | .fnmsub _ _ _ _ _ => true
  | .lds _ _ _ _ _ => true
  | .ldz _ _ _ _ _ => true
  | .st _ _ _ _ => true
  | .ldsx _ _ _ _ _ => true
  | .ldzx _ _ _ _ _ => true
  | .stx _ _ _ _ => true
  | .vld _ _ _ _ _ => true
  | .vldSt _ _ _ _ _ _ => true
  | .vldGt _ _ _ _ _ _ => true
  | .vldBc _ _ _ _ _ => true
  | .vldFf _ _ _ _ _ => true
  | .vst _ _ _ => true
  | .vstSt _ _ _ _ => true
  | .vstSc _ _ _ _ => true
  | .amoSwap _ _ _ _ p l => decide (p = 1 ∨ p = 3 → l = 0)
  | .amoAdd _ _ _ _ p l => decide (p = 1 ∨ p = 3 → l = 0)
  | .amoAnd _ _ _ _ p l => decide (p = 1 ∨ p = 3 → l = 0)
  | .amoOr _ _ _ _ p l => decide (p = 1 ∨ p = 3 → l = 0)
  | .amoXor _ _ _ _ p l => decide (p = 1 ∨ p = 3 → l = 0)
  | .amoMin _ _ _ _ p l => decide (p = 1 ∨ p = 3 → l = 0)
  | .amoMax _ _ _ _ p l => decide (p = 1 ∨ p = 3 → l = 0)
  | .amoMinn _ _ _ _ p l => decide (p = 1 ∨ p = 3 → l = 0)
  | .amoMaxn _ _ _ _ p l => decide (p = 1 ∨ p = 3 → l = 0)
  | .amoCas _ _ _ _ p l => decide (p = 1 ∨ p = 3 → l = 0)
  | .amoFadd _ _ _ _ p l => decide (p = 1 ∨ p = 3 → l = 0)
  | .amoLd _ _ _ p l => decide (p.toNat < 2 ∧ (p = 1 → l = 0))
  | .amoSt _ _ _ p _ => decide (p = 0 ∨ p = 2)
  | .pub _ => true
  | .pubn _ => true
  | .pubwait _ => true
  | .acq _ => true
  | .acqs s => decide (s.toNat < 5)
  | .fence s => decide (s.toNat < 5)
  | .iacq => true
  | .logstat _ => true
  | .brcEq _ _ _ _ => true
  | .brcNe _ _ _ _ => true
  | .brcLt _ _ _ _ => true
  | .brcGe _ _ _ _ => true
  | .brcLtn _ _ _ _ => true
  | .brcGen _ _ _ _ => true
  | .brcAlw _ _ => true
  | .brcBset _ _ _ _ => true
  | .pbr _ _ => true
  | .pbrr _ _ => true
  | .call _ _ => true
  | .ret _ => true
  | .jmpb _ => true
  | .bget _ _ => true
  | .j _ => true
  | .repf _ _ _ _ _ _ => true
  | .vadd _ _ _ _ _ _ => true
  | .vsub _ _ _ _ _ _ => true
  | .vmul _ _ _ _ _ _ => true
  | .vmulh _ _ _ _ _ _ => true
  | .vmulhn _ _ _ _ _ _ => true
  | .vand _ _ _ _ _ _ => true
  | .vor _ _ _ _ _ _ => true
  | .vxor _ _ _ _ _ _ => true
  | .vandn _ _ _ _ _ _ => true
  | .vsll _ _ _ _ _ _ => true
  | .vsrl _ _ _ _ _ _ => true
  | .vsra _ _ _ _ _ _ => true
  | .vmin _ _ _ _ _ _ => true
  | .vmax _ _ _ _ _ _ => true
  | .vminn _ _ _ _ _ _ => true
  | .vmaxn _ _ _ _ _ _ => true
  | .vsadd _ _ _ _ _ _ => true
  | .vssub _ _ _ _ _ _ => true
  | .vsaddn _ _ _ _ _ _ => true
  | .vssubn _ _ _ _ _ _ => true
  | .vabsd _ _ _ _ _ _ => true
  | .vseq _ _ _ _ _ _ => true
  | .vsne _ _ _ _ _ _ => true
  | .vslt _ _ _ _ _ _ => true
  | .vsltn _ _ _ _ _ _ => true
  | .vmerge _ _ _ _ _ => true
  | .vpopc _ _ _ _ => true
  | .vclz _ _ _ _ => true
  | .vfadd _ _ _ _ _ _ => true
  | .vfsub _ _ _ _ _ _ => true
  | .vfmul _ _ _ _ _ _ => true
  | .vfmin _ _ _ _ _ _ => true
  | .vfmax _ _ _ _ _ _ => true
  | .vfmini _ _ _ _ _ _ => true
  | .vfmaxi _ _ _ _ _ _ => true
  | .vfsgc _ _ _ _ _ _ => true
  | .vfsgi _ _ _ _ _ _ => true
  | .vfsgx _ _ _ _ _ _ => true
  | .vfeq _ _ _ _ _ _ => true
  | .vflt _ _ _ _ _ _ => true
  | .vfle _ _ _ _ _ _ => true
  | .vfclass _ _ _ _ => true
  | .vfmadd _ _ _ _ _ => true
  | .vfmsub _ _ _ _ _ => true
  | .vfnmadd _ _ _ _ _ => true
  | .vfnmsub _ _ _ _ _ => true
  | .vfdot2 _ _ _ _ _ => true
  | .vidot4 _ _ _ _ _ => true
  | .vfdiv _ _ _ _ _ _ => true
  | .vfsqrt _ _ _ _ _ => true
  | .vdiv _ _ _ _ _ _ => true
  | .vdivn _ _ _ _ _ _ => true
  | .vrem _ _ _ _ _ _ => true
  | .vremn _ _ _ _ _ _ => true
  | .vredsum _ _ _ _ _ => true
  | .vredmin _ _ _ _ _ => true
  | .vredmax _ _ _ _ _ => true
  | .vfredsum _ _ _ _ _ => true
  | .vfredseq _ _ _ _ _ => true
  | .vfredmin _ _ _ _ _ => true
  | .vfredmax _ _ _ _ _ => true
  | .vslideup _ _ _ _ _ => true
  | .vslidedn _ _ _ _ _ => true
  | .vperm _ _ _ _ => true
  | .vsqz _ _ _ => true
  | .vsprd _ _ _ => true
  | .vzip _ _ _ _ => true
  | .vunzip _ _ _ _ => true
  | .vrank _ _ => true
  | .vmand _ _ _ => true
  | .vmor _ _ _ => true
  | .vmxor _ _ _ => true
  | .vmnot _ _ => true
  | .vmpopc _ _ => true
  | .vmfirst _ _ => true
  | .vsplat _ _ _ => true
  | .vext _ _ _ => true
  | .vins _ _ _ => true
  | .vmov _ _ _ => true
  | .vsett _ _ => true
  | .vgett _ => true
  | .vid _ _ => true
  | .vmtox _ _ => true
  | .vxtom _ _ => true
  | .vcvt _ _ _ _ _ => true
  | .vcvts _ _ _ _ _ => true
  | .vquant _ _ _ _ _ => true
  | .vdeq _ _ _ _ _ => true
  | .vpack _ _ _ _ _ => true
  | .vunpk _ _ _ _ _ => true
  | .vrmix _ _ _ => true
  | .vaddq _ _ _ => true
  | .veqq _ _ _ => true
  | .qbind _ _ => true
  | .qunbind _ => true
  | .qpush _ _ => true
  | .qpop _ _ _ => true
  | .qpushv _ _ => true
  | .qpopv _ _ _ => true
  | .qpopt _ d b => decide (b = d → d = 0)
  | .qstat _ _ => true
  | .mlease _ => true
  | .mrels => true
  | .mma _ _ _ => true
  | .mzero _ => true
  | .mdrain _ => true
  | .mprog _ => true
  | .mresume => true
  | .mscale _ => true
  | .mstat _ => true
  | .zbind _ _ => true
  | .zunbind _ => true
  | .zget _ _ _ => true
  | .zlbl _ _ => true
  | .copy _ _ _ => true
  | .copym _ _ _ => true
  | .copyrd _ _ _ => true
  | .bfree _ => true
  | .cpwait _ _ s => decide (s.toNat < 5)
  | .cpmark _ _ => true
  | .cpui _ _ => true
  | .cpstat _ _ => true
  | .tspawn _ => true
  | .commit => true
  | .tabort _ => true
  | .depset _ _ _ => true
  | .depdec _ => true
  | .depget _ _ _ => true
  | .tself _ => true
  | .twork _ => true
  | .tpin _ _ _ => true
  | .lblget _ _ k => decide (k.toNat < 3)
  | .lblpage _ _ => true
  | .lblsub _ _ _ => true
  | .srd _ _ => true
  | .swr _ _ _ => true
  | .sset _ _ _ => true
  | .sclr _ _ _ => true
  | .scall _ => true
  | .mcall _ => true
  | .rets => true
  | .retm => true
  | .retu => true
  | .idle => true
  | .halt => true
  | .brk _ => true
  | .trapi _ _ => true
  | .xlinvS1 _ => true
  | .xlinvS2 _ => true
  | .nop => true
  | .align _ => true
  | .pref _ k => decide (k.toNat < 2)
  | .spin => true
  | .frmWrite _ _ _ => true
  | .fflagsAccess _ _ _ => true
  | .logbaseWrite _ _ _ _ => true
  | .spillbaseWrite _ _ _ _ => true
  | .hlaWrite _ _ _ => true
  | .winWrite _ _ _ _ => true
  | .blblWrite _ _ _ _ => true
  | .bfmtWrite _ _ _ _ => true
  | .gfflagsClear _ _ _ => true
  | .hnoteRead _ => true
  | .serrcpWrite _ _ => true
  | .sipndSoftWrite _ _ _ => true
  | .fstatWrite _ _ => true
  | .notify _ _ _ => true
  | .recctlGo _ => true
  | .recoveryImageFetched _ => true
  | .hostRegisterWrite _ _ _ => true
  | .tdispTransition _ _ => true
  | .getVersion _ => true
  | .getCapabilities _ => true
  | .negotiateAlgorithms _ => true
  | .getDigests _ => true
  | .getCertificate _ => true
  | .challenge _ => true
  | .getMeasurements _ => true
  | .keyExchange _ => true
  | .finish _ => true
  | .endSession _ => true
  | .identify _ => true
  | .resync _ => true
  | .signal _ => true
  | .note _ => true
  | .partGrant _ => true
  | .partReturn _ => true
  | .partConfig _ => true
  | .labelIntern _ => true
  | .rtLoad _ => true
  | .s2Root _ => true
  | .launch _ => true
  | .hartLaunchDispatch _ _ => true
  | .preempt _ => true
  | .preemptDeadline _ => true
  | .resume _ => true
  | .endLaunch _ => true
  | .policyAdd _ => true
  | .policyDel _ => true
  | .budgetSet _ => true
  | .scrubSet _ => true
  | .counters _ => true
  | .vfCreate _ => true
  | .vfDestroy _ => true
  | .vfConfig _ => true
  | .fwStage _ => true
  | .fwCommit _ => true
  | .errlogRead _ => true
  | .unknownCommand _ => true
  | .functionLevelReset _ => true
  | .packageReset => true
  | .boot _ => true
  | .domainAdmission _ => true
  | .hostModuleTraining _ => true
  | .linkFailure _ => true
  | .flitResend _ => true
  | .routeTimeout _ => true
  | .thermalTrip => true
  | .thermalRecovery => true
  | .issueQuantum _ => true
  | .groveFetch _ _ => true
  | .alignTimeout _ => true
  | .classLWriteback _ => true
  | .readRequest _ _ _ => true
  | .autoPublication _ _ => true
  | .recordApply _ _ => true
  | .recordAck _ _ => true
  | .recordResend _ _ => true
  | .logErrorDetected _ _ => true
  | .releaseCompletion _ => true
  | .acquireRequest _ _ => true
  | .atomicApply _ => true
  | .viewBufferExpiry _ => true
  | .acquiredEntryExpiry _ => true
  | .releaseTagExpiry => true
  | .egressCheck _ _ => true
  | .hostWriteReject _ _ => true
  | .replicaCollapse _ _ => true
  | .shadowCopy _ _ => true
  | .stage2Service _ _ _ => true
  | .xlinvCompletion _ => true
  | .bankZeroCompletion _ => true
  | .queueMessageArrival _ _ => true
  | .qstall _ => true
  | .leaseGrant _ => true
  | .grantPeriodExpiry _ => true
  | .mmaStart _ => true
  | .mmaCompletion _ => true
  | .mmaSuspend _ => true
  | .mscaleWord _ => true
  | .copySegment _ => true
  | .copyUnitApply _ => true
  | .copyrdUnitApply _ => true
  | .copyCompletion _ => true
  | .bfreeCombine _ _ => true
  | .taskRelease _ => true
  | .taskDispatch _ _ => true
  | .commitRequest _ => true
  | .commitRedecision _ _ => true
  | .commitReply _ => true
  | .taskCancel _ => true
  | .depsetApply _ => true
  | .counterDecrement _ => true
  | .canopyCheck _ => true
  | .backupStart _ _ _ => true
  | .contextRotation _ => true
  | .supervisorInterrupt => true
  | .eventEntry => true
  | .userInterrupt => true
  | .idleWake _ => true
  | .budgetPeriod => true
  | .energyTick _ _ => true
  | .scrubSector _ _ _ => true
  | .checkerMismatch _ _ => true
  | .unpinnableError _ _ => true
  | .spareSubstitution _ => true
  | .reservedEncoding _ => true
  | .groveFlagArrival _ => true
  | .routeReturn _ _ => true
  | .issueGating _ _ => true
  | .flrCompletion _ => true
  | .fwCommitCompletion => true
  | .substitutionCompletion _ => true

/-- An instruction whose fields meet the requirements of its entry. -/
abbrev WellFormed (i : Instr) : Prop := wellFormed i = true

end Sys2Proof
end

