-- ==== Sys2Proof/Decode.lean ====
section
/-!
DEFINITION. The decoder and the encoder of instruction words (03 R51 to R64). A word decodes to the
instruction of its opcode-table row, or is rejected by the name of the reason of 03 R55. A word is read
by its fields as numbers, so both directions are plain arithmetic. Lean compiles no inductive with this
many constructors, so what builds an `Instr` is marked noncomputable; its kernel evaluates it.
-/

namespace Sys2Proof

/-- Why a word is reserved (03 R55). -/
inductive DecodeError
  | major | function | field | width | rounding | ordering | scope | index | hint | sameRegister
  deriving DecidableEq, Repr

/-- Bits [lo + n - 1 : lo] of a word. -/
def fld (w : IWord) (lo n : Nat) : BitVec n := BitVec.ofNat n (w.toNat / 2 ^ lo)

/-- Bits [lo + n - 1 : lo] of a word as a number. -/
def num (w : IWord) (lo n : Nat) : Nat := w.toNat / 2 ^ lo % 2 ^ n

/-- An instruction whose fixed fields hold what its row requires (03 R55). -/
def guarded (ok : Bool) (i : Instr) : Except DecodeError Instr :=
  if ok then .ok i else .error .field

/-- Words of major 0x01 (03 R63). -/
def decodeIalu (w : IWord) : Except DecodeError Instr :=
  match num w 4 7 with
  | 0 => guarded (num w 0 4 == 0) (.add (fld w 21 5) (fld w 16 5) (fld w 11 5))
  | 1 => guarded (num w 0 4 == 0) (.sub (fld w 21 5) (fld w 16 5) (fld w 11 5))
  | 2 => guarded (num w 0 4 == 0) (.and (fld w 21 5) (fld w 16 5) (fld w 11 5))
  | 3 => guarded (num w 0 4 == 0) (.or (fld w 21 5) (fld w 16 5) (fld w 11 5))
  | 4 => guarded (num w 0 4 == 0) (.xor (fld w 21 5) (fld w 16 5) (fld w 11 5))
  | 5 => guarded (num w 0 4 == 0) (.andn (fld w 21 5) (fld w 16 5) (fld w 11 5))
  | 6 => guarded (num w 0 4 == 0) (.orn (fld w 21 5) (fld w 16 5) (fld w 11 5))
  | 7 => guarded (num w 0 4 == 0) (.sll (fld w 21 5) (fld w 16 5) (fld w 11 5))
  | 8 => guarded (num w 0 4 == 0) (.srl (fld w 21 5) (fld w 16 5) (fld w 11 5))
  | 9 => guarded (num w 0 4 == 0) (.sra (fld w 21 5) (fld w 16 5) (fld w 11 5))
  | 10 => guarded (num w 0 4 == 0) (.ror (fld w 21 5) (fld w 16 5) (fld w 11 5))
  | 11 => guarded (num w 0 4 == 0) (.slt (fld w 21 5) (fld w 16 5) (fld w 11 5))
  | 12 => guarded (num w 0 4 == 0) (.sltn (fld w 21 5) (fld w 16 5) (fld w 11 5))
  | 13 => guarded (num w 0 4 == 0) (.seq (fld w 21 5) (fld w 16 5) (fld w 11 5))
  | 14 => guarded (num w 0 4 == 0) (.min (fld w 21 5) (fld w 16 5) (fld w 11 5))
  | 15 => guarded (num w 0 4 == 0) (.max (fld w 21 5) (fld w 16 5) (fld w 11 5))
  | 16 => guarded (num w 0 4 == 0) (.minn (fld w 21 5) (fld w 16 5) (fld w 11 5))
  | 17 => guarded (num w 0 4 == 0) (.maxn (fld w 21 5) (fld w 16 5) (fld w 11 5))
  | 18 => guarded (num w 0 4 == 0) (.addw (fld w 21 5) (fld w 16 5) (fld w 11 5))
  | 19 => guarded (num w 0 4 == 0) (.subw (fld w 21 5) (fld w 16 5) (fld w 11 5))
  | 20 => guarded (num w 0 4 == 0) (.sllw (fld w 21 5) (fld w 16 5) (fld w 11 5))
  | 21 => guarded (num w 0 4 == 0) (.srlw (fld w 21 5) (fld w 16 5) (fld w 11 5))
  | 22 => guarded (num w 0 4 == 0) (.sraw (fld w 21 5) (fld w 16 5) (fld w 11 5))
  | 23 => guarded (num w 0 4 == 0 && num w 11 5 == 0) (.clz (fld w 21 5) (fld w 16 5))
  | 24 => guarded (num w 0 4 == 0 && num w 11 5 == 0) (.ctz (fld w 21 5) (fld w 16 5))
  | 25 => guarded (num w 0 4 == 0 && num w 11 5 == 0) (.popc (fld w 21 5) (fld w 16 5))
  | 26 => guarded (num w 0 4 == 0 && num w 11 5 == 0) (.brev (fld w 21 5) (fld w 16 5))
  | 27 => guarded (num w 0 4 == 0 && num w 11 5 == 0) (.bswap (fld w 21 5) (fld w 16 5))
  | 28 => guarded (num w 11 5 == 0) (.sext (fld w 21 5) (fld w 16 5) (fld w 0 4))
  | 29 => guarded (num w 11 5 == 0) (.zext (fld w 21 5) (fld w 16 5) (fld w 0 4))
  | 30 => guarded (num w 0 4 == 0) (.mul (fld w 21 5) (fld w 16 5) (fld w 11 5))
  | 31 => guarded (num w 0 4 == 0) (.mulh (fld w 21 5) (fld w 16 5) (fld w 11 5))
  | 32 => guarded (num w 0 4 == 0) (.mulhn (fld w 21 5) (fld w 16 5) (fld w 11 5))
  | 33 => guarded (num w 0 4 == 0) (.mulw (fld w 21 5) (fld w 16 5) (fld w 11 5))
  | 34 => .ok (.div (fld w 21 5) (fld w 16 5) (fld w 11 5) (fld w 0 4))
  | 35 => .ok (.divn (fld w 21 5) (fld w 16 5) (fld w 11 5) (fld w 0 4))
  | 36 => .ok (.rem (fld w 21 5) (fld w 16 5) (fld w 11 5) (fld w 0 4))
  | 37 => .ok (.remn (fld w 21 5) (fld w 16 5) (fld w 11 5) (fld w 0 4))
  | _ => .error .function

/-- Words of major 0x02 (03 R63). -/
def decodeAddi (w : IWord) : Except DecodeError Instr :=
  .ok (.addi (fld w 21 5) (fld w 16 5) (fld w 0 16))

/-- Words of major 0x03 (03 R63). -/
def decodeSlti (w : IWord) : Except DecodeError Instr :=
  .ok (.slti (fld w 21 5) (fld w 16 5) (fld w 0 16))

/-- Words of major 0x04 (03 R63). -/
def decodeAndi (w : IWord) : Except DecodeError Instr :=
  .ok (.andi (fld w 21 5) (fld w 16 5) (fld w 0 16))

/-- Words of major 0x05 (03 R63). -/
def decodeOri (w : IWord) : Except DecodeError Instr :=
  .ok (.ori (fld w 21 5) (fld w 16 5) (fld w 0 16))

/-- Words of major 0x06 (03 R63). -/
def decodeXori (w : IWord) : Except DecodeError Instr :=
  .ok (.xori (fld w 21 5) (fld w 16 5) (fld w 0 16))

/-- Words of major 0x07 (03 R63). -/
def decodeSh (w : IWord) : Except DecodeError Instr :=
  match num w 14 2 with
  | 0 => guarded (num w 6 8 == 0) (.slli (fld w 21 5) (fld w 16 5) (fld w 0 6))
  | 1 => guarded (num w 6 8 == 0) (.srli (fld w 21 5) (fld w 16 5) (fld w 0 6))
  | 2 => guarded (num w 6 8 == 0) (.srai (fld w 21 5) (fld w 16 5) (fld w 0 6))
  | 3 => guarded (num w 6 8 == 0) (.rori (fld w 21 5) (fld w 16 5) (fld w 0 6))
  | _ => .error .function

/-- Words of major 0x08 (03 R63). -/
def decodeMw (w : IWord) : Except DecodeError Instr :=
  match num w 20 1 with
  | 0 => guarded (num w 18 2 == 0) (.seth (fld w 21 5) (fld w 16 2) (fld w 0 16))
  | 1 => guarded (num w 18 2 == 0) (.insh (fld w 21 5) (fld w 16 2) (fld w 0 16))
  | _ => .error .function

/-- Words of major 0x09 (03 R63). -/
def decodeFpu (w : IWord) : Except DecodeError Instr :=
  match num w 6 5 with
  | 0 => guarded (num w 0 1 == 0) (.fadd (fld w 21 5) (fld w 16 5) (fld w 11 5) (fld w 4 2) (fld w 1 3))
  | 1 => guarded (num w 0 1 == 0) (.fsub (fld w 21 5) (fld w 16 5) (fld w 11 5) (fld w 4 2) (fld w 1 3))
  | 2 => guarded (num w 0 1 == 0) (.fmul (fld w 21 5) (fld w 16 5) (fld w 11 5) (fld w 4 2) (fld w 1 3))
  | 3 => guarded (num w 0 4 == 0) (.fmin (fld w 21 5) (fld w 16 5) (fld w 11 5) (fld w 4 2))
  | 4 => guarded (num w 0 4 == 0) (.fmax (fld w 21 5) (fld w 16 5) (fld w 11 5) (fld w 4 2))
  | 5 => guarded (num w 0 4 == 0) (.fmini (fld w 21 5) (fld w 16 5) (fld w 11 5) (fld w 4 2))
  | 6 => guarded (num w 0 4 == 0) (.fmaxi (fld w 21 5) (fld w 16 5) (fld w 11 5) (fld w 4 2))
  | 7 => guarded (num w 0 4 == 0) (.fsgc (fld w 21 5) (fld w 16 5) (fld w 11 5) (fld w 4 2))
  | 8 => guarded (num w 0 4 == 0) (.fsgi (fld w 21 5) (fld w 16 5) (fld w 11 5) (fld w 4 2))
  | 9 => guarded (num w 0 4 == 0) (.fsgx (fld w 21 5) (fld w 16 5) (fld w 11 5) (fld w 4 2))
  | 10 => guarded (num w 0 4 == 0) (.feq (fld w 21 5) (fld w 16 5) (fld w 11 5) (fld w 4 2))
  | 11 => guarded (num w 0 4 == 0) (.flt (fld w 21 5) (fld w 16 5) (fld w 11 5) (fld w 4 2))
  | 12 => guarded (num w 0 4 == 0) (.fle (fld w 21 5) (fld w 16 5) (fld w 11 5) (fld w 4 2))
  | 13 => guarded (num w 0 4 == 0 && num w 11 5 == 0) (.fclass (fld w 21 5) (fld w 16 5) (fld w 4 2))
  | 14 => guarded (num w 0 1 == 0 && num w 13 3 == 0) (.fcvti (fld w 21 5) (fld w 16 5) (fld w 11 2) (fld w 4 2) (fld w 1 3))
  | 15 => guarded (num w 0 1 == 0 && num w 13 3 == 1) (.fcvtn (fld w 21 5) (fld w 16 5) (fld w 11 2) (fld w 4 2) (fld w 1 3))
  | 16 => guarded (num w 0 1 == 0 && num w 13 3 == 0) (.icvtf (fld w 21 5) (fld w 16 5) (fld w 11 2) (fld w 4 2) (fld w 1 3))
  | 17 => guarded (num w 0 1 == 0 && num w 13 3 == 1) (.ncvtf (fld w 21 5) (fld w 16 5) (fld w 11 2) (fld w 4 2) (fld w 1 3))
  | 18 => guarded (num w 0 1 == 0 && num w 13 3 == 2) (.fcvtf (fld w 21 5) (fld w 16 5) (fld w 11 2) (fld w 4 2) (fld w 1 3))
  | _ => .error .function

/-- Words of major 0x0A (03 R63). -/
def decodeFl (w : IWord) : Except DecodeError Instr :=
  match num w 9 2 with
  | 0 => .ok (.fdiv (fld w 21 5) (fld w 16 5) (fld w 11 5) (fld w 7 2) (fld w 4 3) (fld w 0 4))
  | 1 => guarded (num w 11 5 == 0) (.fsqrt (fld w 21 5) (fld w 16 5) (fld w 7 2) (fld w 4 3) (fld w 0 4))
  | _ => .error .function

/-- Words of major 0x0B (03 R63). -/
def decodeF4 (w : IWord) : Except DecodeError Instr :=
  match num w 2 2 with
  | 0 => guarded (num w 0 2 == 0) (.fmadd (fld w 21 5) (fld w 16 5) (fld w 11 5) (fld w 6 5) (fld w 4 2))
  | 1 => guarded (num w 0 2 == 0) (.fmsub (fld w 21 5) (fld w 16 5) (fld w 11 5) (fld w 6 5) (fld w 4 2))
  | 2 => guarded (num w 0 2 == 0) (.fnmadd (fld w 21 5) (fld w 16 5) (fld w 11 5) (fld w 6 5) (fld w 4 2))
  | 3 => guarded (num w 0 2 == 0) (.fnmsub (fld w 21 5) (fld w 16 5) (fld w 11 5) (fld w 6 5) (fld w 4 2))
  | _ => .error .function

/-- Words of major 0x0C (03 R63). -/
def decodeLds (w : IWord) : Except DecodeError Instr :=
  .ok (.lds (fld w 21 5) (fld w 16 5) (fld w 6 10) (fld w 4 2) (fld w 0 4))

/-- Words of major 0x0D (03 R63). -/
def decodeLdz (w : IWord) : Except DecodeError Instr :=
  .ok (.ldz (fld w 21 5) (fld w 16 5) (fld w 6 10) (fld w 4 2) (fld w 0 4))

/-- Words of major 0x0E (03 R63). -/
def decodeSt (w : IWord) : Except DecodeError Instr :=
  guarded (num w 0 4 == 0) (.st (fld w 21 5) (fld w 16 5) (fld w 6 10) (fld w 4 2))

/-- Words of major 0x0F (03 R63). -/
def decodeMemx (w : IWord) : Except DecodeError Instr :=
  match num w 6 5 with
  | 0 => .ok (.ldsx (fld w 21 5) (fld w 16 5) (fld w 11 5) (fld w 4 2) (fld w 0 4))
  | 1 => .ok (.ldzx (fld w 21 5) (fld w 16 5) (fld w 11 5) (fld w 4 2) (fld w 0 4))
  | 2 => guarded (num w 0 4 == 0) (.stx (fld w 21 5) (fld w 16 5) (fld w 11 5) (fld w 4 2))
  | _ => .error .function

/-- Words of major 0x10 (03 R63). -/
def decodeVld (w : IWord) : Except DecodeError Instr :=
  match num w 4 3 with
  | 0 => guarded (num w 11 5 == 0) (.vld (fld w 21 5) (fld w 16 5) (fld w 8 3) (fld w 7 1) (fld w 0 4))
  | 1 => .ok (.vldSt (fld w 21 5) (fld w 16 5) (fld w 11 5) (fld w 8 3) (fld w 7 1) (fld w 0 4))
  | 2 => .ok (.vldGt (fld w 21 5) (fld w 16 5) (fld w 11 5) (fld w 8 3) (fld w 7 1) (fld w 0 4))
  | 3 => guarded (num w 11 5 == 0) (.vldBc (fld w 21 5) (fld w 16 5) (fld w 8 3) (fld w 7 1) (fld w 0 4))
  | 4 => guarded (num w 11 5 == 0) (.vldFf (fld w 21 5) (fld w 16 5) (fld w 8 3) (fld w 7 1) (fld w 0 4))
  | _ => .error .function

/-- Words of major 0x11 (03 R63). -/
def decodeVst (w : IWord) : Except DecodeError Instr :=
  match num w 4 4 with
  | 0 => guarded (num w 0 4 == 0 && num w 11 5 == 0) (.vst (fld w 21 5) (fld w 16 5) (fld w 8 3))
  | 1 => guarded (num w 0 4 == 0) (.vstSt (fld w 21 5) (fld w 16 5) (fld w 11 5) (fld w 8 3))
  | 2 => guarded (num w 0 4 == 0) (.vstSc (fld w 21 5) (fld w 16 5) (fld w 11 5) (fld w 8 3))
  | _ => .error .function

/-- Words of major 0x12 (03 R63). -/
def decodeAmo (w : IWord) : Except DecodeError Instr :=
  match num w 6 4 with
  | 0 => .ok (.amoSwap (fld w 21 5) (fld w 16 5) (fld w 11 5) (fld w 10 1) (fld w 4 2) (fld w 0 4))
  | 1 => .ok (.amoAdd (fld w 21 5) (fld w 16 5) (fld w 11 5) (fld w 10 1) (fld w 4 2) (fld w 0 4))
  | 2 => .ok (.amoAnd (fld w 21 5) (fld w 16 5) (fld w 11 5) (fld w 10 1) (fld w 4 2) (fld w 0 4))
  | 3 => .ok (.amoOr (fld w 21 5) (fld w 16 5) (fld w 11 5) (fld w 10 1) (fld w 4 2) (fld w 0 4))
  | 4 => .ok (.amoXor (fld w 21 5) (fld w 16 5) (fld w 11 5) (fld w 10 1) (fld w 4 2) (fld w 0 4))
  | 5 => .ok (.amoMin (fld w 21 5) (fld w 16 5) (fld w 11 5) (fld w 10 1) (fld w 4 2) (fld w 0 4))
  | 6 => .ok (.amoMax (fld w 21 5) (fld w 16 5) (fld w 11 5) (fld w 10 1) (fld w 4 2) (fld w 0 4))
  | 7 => .ok (.amoMinn (fld w 21 5) (fld w 16 5) (fld w 11 5) (fld w 10 1) (fld w 4 2) (fld w 0 4))
  | 8 => .ok (.amoMaxn (fld w 21 5) (fld w 16 5) (fld w 11 5) (fld w 10 1) (fld w 4 2) (fld w 0 4))
  | 9 => .ok (.amoCas (fld w 21 5) (fld w 16 5) (fld w 11 5) (fld w 10 1) (fld w 4 2) (fld w 0 4))
  | 10 => .ok (.amoFadd (fld w 21 5) (fld w 16 5) (fld w 11 5) (fld w 10 1) (fld w 4 2) (fld w 0 4))
  | 11 => guarded (num w 11 5 == 0) (.amoLd (fld w 21 5) (fld w 16 5) (fld w 10 1) (fld w 4 2) (fld w 0 4))
  | 12 => guarded (num w 21 5 == 0) (.amoSt (fld w 16 5) (fld w 11 5) (fld w 10 1) (fld w 4 2) (fld w 0 4))
  | _ => .error .function

/-- Words of major 0x13 (03 R63). -/
def decodeSync (w : IWord) : Except DecodeError Instr :=
  match num w 4 7 with
  | 0 => guarded (num w 0 4 == 0 && num w 11 10 == 0) (.pub (fld w 21 5))
  | 1 => guarded (num w 0 4 == 0 && num w 11 10 == 0) (.pubn (fld w 21 5))
  | 2 => guarded (num w 0 4 == 0 && num w 11 5 == 0 && num w 21 5 == 0) (.pubwait (fld w 16 5))
  | 3 => guarded (num w 0 4 == 0 && num w 11 5 == 0 && num w 21 5 == 0) (.acq (fld w 16 5))
  | 4 => guarded (num w 11 15 == 0) (.acqs (fld w 0 4))
  | 5 => guarded (num w 11 15 == 0) (.fence (fld w 0 4))
  | 6 => guarded (num w 0 4 == 0 && num w 11 15 == 0) (.iacq)
  | 7 => guarded (num w 0 4 == 0 && num w 11 10 == 0) (.logstat (fld w 21 5))
  | _ => .error .function

/-- Words of major 0x14 (03 R63). -/
def decodeBrc (w : IWord) : Except DecodeError Instr :=
  match num w 20 4 with
  | 0 => guarded (num w 0 9 == 0) (.brcEq (fld w 24 2) (fld w 15 5) (fld w 10 5) (fld w 9 1))
  | 1 => guarded (num w 0 9 == 0) (.brcNe (fld w 24 2) (fld w 15 5) (fld w 10 5) (fld w 9 1))
  | 2 => guarded (num w 0 9 == 0) (.brcLt (fld w 24 2) (fld w 15 5) (fld w 10 5) (fld w 9 1))
  | 3 => guarded (num w 0 9 == 0) (.brcGe (fld w 24 2) (fld w 15 5) (fld w 10 5) (fld w 9 1))
  | 4 => guarded (num w 0 9 == 0) (.brcLtn (fld w 24 2) (fld w 15 5) (fld w 10 5) (fld w 9 1))
  | 5 => guarded (num w 0 9 == 0) (.brcGen (fld w 24 2) (fld w 15 5) (fld w 10 5) (fld w 9 1))
  | 6 => guarded (num w 0 9 == 0 && num w 10 10 == 0) (.brcAlw (fld w 24 2) (fld w 9 1))
  | 7 => guarded (num w 0 9 == 0) (.brcBset (fld w 24 2) (fld w 15 5) (fld w 10 5) (fld w 9 1))
  | _ => .error .function

/-- Words of major 0x15 (03 R63). -/
def decodePbr (w : IWord) : Except DecodeError Instr :=
  .ok (.pbr (fld w 24 2) (fld w 0 24))

/-- Words of major 0x16 (03 R63). -/
def decodeBrx (w : IWord) : Except DecodeError Instr :=
  match num w 4 7 with
  | 0 => guarded (num w 0 4 == 0 && num w 13 3 == 0 && num w 21 5 == 0) (.pbrr (fld w 16 5) (fld w 11 2))
  | 1 => guarded (num w 0 4 == 0 && num w 13 8 == 0) (.call (fld w 21 5) (fld w 11 2))
  | 2 => guarded (num w 0 4 == 0 && num w 11 5 == 0 && num w 21 5 == 0) (.ret (fld w 16 5))
  | 3 => guarded (num w 0 4 == 0 && num w 13 13 == 0) (.jmpb (fld w 11 2))
  | 4 => guarded (num w 0 4 == 0 && num w 13 8 == 0) (.bget (fld w 21 5) (fld w 11 2))
  | _ => .error .function

/-- Words of major 0x17 (03 R63). -/
def decodeJ (w : IWord) : Except DecodeError Instr :=
  .ok (.j (fld w 0 26))

/-- Words of major 0x18 (03 R63). -/
def decodeRepf (w : IWord) : Except DecodeError Instr :=
  guarded (num w 0 2 == 0) (.repf (fld w 22 4) (fld w 14 8) (fld w 11 3) (fld w 8 3) (fld w 5 3) (fld w 2 3))

/-- Words of major 0x19 (03 R63). -/
def decodeVialu (w : IWord) : Except DecodeError Instr :=
  match num w 0 6 with
  | 0 => .ok (.vadd (fld w 21 5) (fld w 16 5) (fld w 11 5) (fld w 8 3) (fld w 7 1) (fld w 6 1))
  | 1 => .ok (.vsub (fld w 21 5) (fld w 16 5) (fld w 11 5) (fld w 8 3) (fld w 7 1) (fld w 6 1))
  | 2 => .ok (.vmul (fld w 21 5) (fld w 16 5) (fld w 11 5) (fld w 8 3) (fld w 7 1) (fld w 6 1))
  | 3 => .ok (.vmulh (fld w 21 5) (fld w 16 5) (fld w 11 5) (fld w 8 3) (fld w 7 1) (fld w 6 1))
  | 4 => .ok (.vmulhn (fld w 21 5) (fld w 16 5) (fld w 11 5) (fld w 8 3) (fld w 7 1) (fld w 6 1))
  | 5 => .ok (.vand (fld w 21 5) (fld w 16 5) (fld w 11 5) (fld w 8 3) (fld w 7 1) (fld w 6 1))
  | 6 => .ok (.vor (fld w 21 5) (fld w 16 5) (fld w 11 5) (fld w 8 3) (fld w 7 1) (fld w 6 1))
  | 7 => .ok (.vxor (fld w 21 5) (fld w 16 5) (fld w 11 5) (fld w 8 3) (fld w 7 1) (fld w 6 1))
  | 8 => .ok (.vandn (fld w 21 5) (fld w 16 5) (fld w 11 5) (fld w 8 3) (fld w 7 1) (fld w 6 1))
  | 9 => .ok (.vsll (fld w 21 5) (fld w 16 5) (fld w 11 5) (fld w 8 3) (fld w 7 1) (fld w 6 1))
  | 10 => .ok (.vsrl (fld w 21 5) (fld w 16 5) (fld w 11 5) (fld w 8 3) (fld w 7 1) (fld w 6 1))
  | 11 => .ok (.vsra (fld w 21 5) (fld w 16 5) (fld w 11 5) (fld w 8 3) (fld w 7 1) (fld w 6 1))
  | 12 => .ok (.vmin (fld w 21 5) (fld w 16 5) (fld w 11 5) (fld w 8 3) (fld w 7 1) (fld w 6 1))
  | 13 => .ok (.vmax (fld w 21 5) (fld w 16 5) (fld w 11 5) (fld w 8 3) (fld w 7 1) (fld w 6 1))
  | 14 => .ok (.vminn (fld w 21 5) (fld w 16 5) (fld w 11 5) (fld w 8 3) (fld w 7 1) (fld w 6 1))
  | 15 => .ok (.vmaxn (fld w 21 5) (fld w 16 5) (fld w 11 5) (fld w 8 3) (fld w 7 1) (fld w 6 1))
  | 16 => .ok (.vsadd (fld w 21 5) (fld w 16 5) (fld w 11 5) (fld w 8 3) (fld w 7 1) (fld w 6 1))
  | 17 => .ok (.vssub (fld w 21 5) (fld w 16 5) (fld w 11 5) (fld w 8 3) (fld w 7 1) (fld w 6 1))
  | 18 => .ok (.vsaddn (fld w 21 5) (fld w 16 5) (fld w 11 5) (fld w 8 3) (fld w 7 1) (fld w 6 1))
  | 19 => .ok (.vssubn (fld w 21 5) (fld w 16 5) (fld w 11 5) (fld w 8 3) (fld w 7 1) (fld w 6 1))
  | 20 => .ok (.vabsd (fld w 21 5) (fld w 16 5) (fld w 11 5) (fld w 8 3) (fld w 7 1) (fld w 6 1))
  | 21 => .ok (.vseq (fld w 21 5) (fld w 16 5) (fld w 11 5) (fld w 8 3) (fld w 7 1) (fld w 6 1))
  | 22 => .ok (.vsne (fld w 21 5) (fld w 16 5) (fld w 11 5) (fld w 8 3) (fld w 7 1) (fld w 6 1))
  | 23 => .ok (.vslt (fld w 21 5) (fld w 16 5) (fld w 11 5) (fld w 8 3) (fld w 7 1) (fld w 6 1))
  | 24 => .ok (.vsltn (fld w 21 5) (fld w 16 5) (fld w 11 5) (fld w 8 3) (fld w 7 1) (fld w 6 1))
  | 25 => guarded (num w 6 1 == 0) (.vmerge (fld w 21 5) (fld w 16 5) (fld w 11 5) (fld w 8 3) (fld w 7 1))
  | 26 => guarded (num w 7 1 == 0 && num w 11 5 == 0) (.vpopc (fld w 21 5) (fld w 16 5) (fld w 8 3) (fld w 6 1))
  | 27 => guarded (num w 7 1 == 0 && num w 11 5 == 0) (.vclz (fld w 21 5) (fld w 16 5) (fld w 8 3) (fld w 6 1))
  | _ => .error .function

/-- Words of major 0x1A (03 R63). -/
def decodeVfpu (w : IWord) : Except DecodeError Instr :=
  match num w 0 6 with
  | 0 => .ok (.vfadd (fld w 21 5) (fld w 16 5) (fld w 11 5) (fld w 8 3) (fld w 7 1) (fld w 6 1))
  | 1 => .ok (.vfsub (fld w 21 5) (fld w 16 5) (fld w 11 5) (fld w 8 3) (fld w 7 1) (fld w 6 1))
  | 2 => .ok (.vfmul (fld w 21 5) (fld w 16 5) (fld w 11 5) (fld w 8 3) (fld w 7 1) (fld w 6 1))
  | 3 => .ok (.vfmin (fld w 21 5) (fld w 16 5) (fld w 11 5) (fld w 8 3) (fld w 7 1) (fld w 6 1))
  | 4 => .ok (.vfmax (fld w 21 5) (fld w 16 5) (fld w 11 5) (fld w 8 3) (fld w 7 1) (fld w 6 1))
  | 5 => .ok (.vfmini (fld w 21 5) (fld w 16 5) (fld w 11 5) (fld w 8 3) (fld w 7 1) (fld w 6 1))
  | 6 => .ok (.vfmaxi (fld w 21 5) (fld w 16 5) (fld w 11 5) (fld w 8 3) (fld w 7 1) (fld w 6 1))
  | 7 => .ok (.vfsgc (fld w 21 5) (fld w 16 5) (fld w 11 5) (fld w 8 3) (fld w 7 1) (fld w 6 1))
  | 8 => .ok (.vfsgi (fld w 21 5) (fld w 16 5) (fld w 11 5) (fld w 8 3) (fld w 7 1) (fld w 6 1))
  | 9 => .ok (.vfsgx (fld w 21 5) (fld w 16 5) (fld w 11 5) (fld w 8 3) (fld w 7 1) (fld w 6 1))
  | 10 => .ok (.vfeq (fld w 21 5) (fld w 16 5) (fld w 11 5) (fld w 8 3) (fld w 7 1) (fld w 6 1))
  | 11 => .ok (.vflt (fld w 21 5) (fld w 16 5) (fld w 11 5) (fld w 8 3) (fld w 7 1) (fld w 6 1))
  | 12 => .ok (.vfle (fld w 21 5) (fld w 16 5) (fld w 11 5) (fld w 8 3) (fld w 7 1) (fld w 6 1))
  | 13 => guarded (num w 7 1 == 0 && num w 11 5 == 0) (.vfclass (fld w 21 5) (fld w 16 5) (fld w 8 3) (fld w 6 1))
  | _ => .error .function

/-- Words of major 0x1B (03 R63). -/
def decodeVfused (w : IWord) : Except DecodeError Instr :=
  match num w 0 3 with
  | 0 => .ok (.vfmadd (fld w 21 5) (fld w 16 5) (fld w 11 5) (fld w 6 5) (fld w 3 3))
  | 1 => .ok (.vfmsub (fld w 21 5) (fld w 16 5) (fld w 11 5) (fld w 6 5) (fld w 3 3))
  | 2 => .ok (.vfnmadd (fld w 21 5) (fld w 16 5) (fld w 11 5) (fld w 6 5) (fld w 3 3))
  | 3 => .ok (.vfnmsub (fld w 21 5) (fld w 16 5) (fld w 11 5) (fld w 6 5) (fld w 3 3))
  | 4 => .ok (.vfdot2 (fld w 21 5) (fld w 16 5) (fld w 11 5) (fld w 6 5) (fld w 3 3))
  | 5 => .ok (.vidot4 (fld w 21 5) (fld w 16 5) (fld w 11 5) (fld w 6 5) (fld w 3 3))
  | _ => .error .function

/-- Words of major 0x1C (03 R63). -/
def decodeVlong (w : IWord) : Except DecodeError Instr :=
  match num w 4 3 with
  | 0 => .ok (.vfdiv (fld w 21 5) (fld w 16 5) (fld w 11 5) (fld w 8 3) (fld w 7 1) (fld w 0 4))
  | 1 => guarded (num w 11 5 == 0) (.vfsqrt (fld w 21 5) (fld w 16 5) (fld w 8 3) (fld w 7 1) (fld w 0 4))
  | 2 => .ok (.vdiv (fld w 21 5) (fld w 16 5) (fld w 11 5) (fld w 8 3) (fld w 7 1) (fld w 0 4))
  | 3 => .ok (.vdivn (fld w 21 5) (fld w 16 5) (fld w 11 5) (fld w 8 3) (fld w 7 1) (fld w 0 4))
  | 4 => .ok (.vrem (fld w 21 5) (fld w 16 5) (fld w 11 5) (fld w 8 3) (fld w 7 1) (fld w 0 4))
  | 5 => .ok (.vremn (fld w 21 5) (fld w 16 5) (fld w 11 5) (fld w 8 3) (fld w 7 1) (fld w 0 4))
  | _ => .error .function

/-- Words of major 0x1D (03 R63). -/
def decodeVperm (w : IWord) : Except DecodeError Instr :=
  match num w 0 7 with
  | 0 => .ok (.vredsum (fld w 21 5) (fld w 16 5) (fld w 11 5) (fld w 8 3) (fld w 7 1))
  | 1 => .ok (.vredmin (fld w 21 5) (fld w 16 5) (fld w 11 5) (fld w 8 3) (fld w 7 1))
  | 2 => .ok (.vredmax (fld w 21 5) (fld w 16 5) (fld w 11 5) (fld w 8 3) (fld w 7 1))
  | 3 => .ok (.vfredsum (fld w 21 5) (fld w 16 5) (fld w 11 5) (fld w 8 3) (fld w 7 1))
  | 4 => .ok (.vfredseq (fld w 21 5) (fld w 16 5) (fld w 11 5) (fld w 8 3) (fld w 7 1))
  | 5 => .ok (.vfredmin (fld w 21 5) (fld w 16 5) (fld w 11 5) (fld w 8 3) (fld w 7 1))
  | 6 => .ok (.vfredmax (fld w 21 5) (fld w 16 5) (fld w 11 5) (fld w 8 3) (fld w 7 1))
  | 7 => .ok (.vslideup (fld w 21 5) (fld w 16 5) (fld w 11 5) (fld w 8 3) (fld w 7 1))
  | 8 => .ok (.vslidedn (fld w 21 5) (fld w 16 5) (fld w 11 5) (fld w 8 3) (fld w 7 1))
  | 9 => guarded (num w 7 1 == 0) (.vperm (fld w 21 5) (fld w 16 5) (fld w 11 5) (fld w 8 3))
  | 10 => guarded (num w 7 1 == 0 && num w 11 5 == 0) (.vsqz (fld w 21 5) (fld w 16 5) (fld w 8 3))
  | 11 => guarded (num w 7 1 == 0 && num w 11 5 == 0) (.vsprd (fld w 21 5) (fld w 16 5) (fld w 8 3))
  | 12 => guarded (num w 7 1 == 0) (.vzip (fld w 21 5) (fld w 16 5) (fld w 11 5) (fld w 8 3))
  | 13 => guarded (num w 7 1 == 0) (.vunzip (fld w 21 5) (fld w 16 5) (fld w 11 5) (fld w 8 3))
  | 14 => guarded (num w 7 1 == 0 && num w 11 10 == 0) (.vrank (fld w 21 5) (fld w 8 3))
  | 15 => guarded (num w 7 4 == 0 && num w 14 2 == 0 && num w 19 2 == 0 && num w 24 2 == 0) (.vmand (fld w 21 3) (fld w 16 3) (fld w 11 3))
  | 16 => guarded (num w 7 4 == 0 && num w 14 2 == 0 && num w 19 2 == 0 && num w 24 2 == 0) (.vmor (fld w 21 3) (fld w 16 3) (fld w 11 3))
  | 17 => guarded (num w 7 4 == 0 && num w 14 2 == 0 && num w 19 2 == 0 && num w 24 2 == 0) (.vmxor (fld w 21 3) (fld w 16 3) (fld w 11 3))
  | 18 => guarded (num w 7 9 == 0 && num w 19 2 == 0 && num w 24 2 == 0) (.vmnot (fld w 21 3) (fld w 16 3))
  | 19 => guarded (num w 7 9 == 0 && num w 19 2 == 0) (.vmpopc (fld w 21 5) (fld w 16 3))
  | 20 => guarded (num w 7 9 == 0 && num w 19 2 == 0) (.vmfirst (fld w 21 5) (fld w 16 3))
  | _ => .error .function

/-- Words of major 0x1E (03 R63). -/
def decodeVmove (w : IWord) : Except DecodeError Instr :=
  match num w 0 8 with
  | 0 => guarded (num w 11 5 == 0) (.vsplat (fld w 21 5) (fld w 16 5) (fld w 8 3))
  | 1 => guarded (num w 8 3 == 0) (.vext (fld w 21 5) (fld w 16 5) (fld w 11 5))
  | 2 => guarded (num w 8 3 == 0) (.vins (fld w 21 5) (fld w 16 5) (fld w 11 5))
  | 3 => guarded (num w 11 5 == 0) (.vmov (fld w 21 5) (fld w 16 5) (fld w 8 3))
  | 4 => guarded (num w 8 8 == 0) (.vsett (fld w 21 5) (fld w 16 5))
  | 5 => guarded (num w 8 13 == 0) (.vgett (fld w 21 5))
  | 6 => guarded (num w 11 10 == 0) (.vid (fld w 21 5) (fld w 8 3))
  | 7 => guarded (num w 8 8 == 0 && num w 19 2 == 0) (.vmtox (fld w 21 5) (fld w 16 3))
  | 8 => guarded (num w 8 8 == 0 && num w 24 2 == 0) (.vxtom (fld w 21 3) (fld w 16 5))
  | _ => .error .function

/-- Words of major 0x1F (03 R63). -/
def decodeVconv (w : IWord) : Except DecodeError Instr :=
  match num w 0 4 with
  | 0 => .ok (.vcvt (fld w 21 5) (fld w 16 5) (fld w 11 5) (fld w 8 3) (fld w 4 4))
  | 1 => .ok (.vcvts (fld w 21 5) (fld w 16 5) (fld w 11 5) (fld w 8 3) (fld w 4 4))
  | 2 => .ok (.vquant (fld w 21 5) (fld w 16 5) (fld w 11 5) (fld w 8 3) (fld w 4 4))
  | 3 => .ok (.vdeq (fld w 21 5) (fld w 16 5) (fld w 11 5) (fld w 8 3) (fld w 4 4))
  | 4 => .ok (.vpack (fld w 21 5) (fld w 16 5) (fld w 11 5) (fld w 8 3) (fld w 4 4))
  | 5 => .ok (.vunpk (fld w 21 5) (fld w 16 5) (fld w 11 5) (fld w 8 3) (fld w 4 4))
  | _ => .error .function

/-- Words of major 0x20 (03 R63). -/
def decodeVrand (w : IWord) : Except DecodeError Instr :=
  match num w 0 8 with
  | 0 => guarded (num w 8 3 == 0) (.vrmix (fld w 21 5) (fld w 16 5) (fld w 11 5))
  | 1 => guarded (num w 8 3 == 0) (.vaddq (fld w 21 5) (fld w 16 5) (fld w 11 5))
  | 2 => guarded (num w 8 3 == 0 && num w 24 2 == 0) (.veqq (fld w 21 3) (fld w 16 5) (fld w 11 5))
  | _ => .error .function

/-- Words of major 0x21 (03 R63). -/
def decodeQop (w : IWord) : Except DecodeError Instr :=
  match num w 0 8 with
  | 0 => guarded (num w 8 9 == 0) (.qbind (fld w 22 4) (fld w 17 5))
  | 1 => guarded (num w 8 14 == 0) (.qunbind (fld w 22 4))
  | 2 => guarded (num w 8 9 == 0) (.qpush (fld w 22 4) (fld w 17 5))
  | 3 => guarded (num w 12 5 == 0) (.qpop (fld w 22 4) (fld w 17 5) (fld w 8 4))
  | 4 => guarded (num w 8 9 == 0) (.qpushv (fld w 22 4) (fld w 17 5))
  | 5 => guarded (num w 12 5 == 0) (.qpopv (fld w 22 4) (fld w 17 5) (fld w 8 4))
  | 6 => guarded (num w 8 4 == 0) (.qpopt (fld w 22 4) (fld w 17 5) (fld w 12 5))
  | 7 => guarded (num w 8 9 == 0) (.qstat (fld w 22 4) (fld w 17 5))
  | _ => .error .function

/-- Words of major 0x22 (03 R63). -/
def decodeMx (w : IWord) : Except DecodeError Instr :=
  match num w 4 7 with
  | 0 => guarded (num w 11 15 == 0) (.mlease (fld w 0 4))
  | 1 => guarded (num w 0 4 == 0 && num w 11 15 == 0) (.mrels)
  | 2 => guarded (num w 0 4 == 0 && num w 24 2 == 0) (.mma (fld w 21 3) (fld w 16 5) (fld w 11 5))
  | 3 => guarded (num w 0 4 == 0 && num w 11 10 == 0 && num w 24 2 == 0) (.mzero (fld w 21 3))
  | 4 => guarded (num w 11 15 == 0) (.mdrain (fld w 0 4))
  | 5 => guarded (num w 0 4 == 0 && num w 11 10 == 0) (.mprog (fld w 21 5))
  | 6 => guarded (num w 0 4 == 0 && num w 11 15 == 0) (.mresume)
  | 7 => guarded (num w 0 4 == 0 && num w 11 5 == 0 && num w 21 5 == 0) (.mscale (fld w 16 5))
  | 8 => guarded (num w 0 4 == 0 && num w 11 10 == 0) (.mstat (fld w 21 5))
  | _ => .error .function

/-- Words of major 0x23 (03 R63). -/
def decodeZt (w : IWord) : Except DecodeError Instr :=
  match num w 4 7 with
  | 0 => guarded (num w 0 4 == 0 && num w 11 5 == 0 && num w 24 2 == 0) (.zbind (fld w 21 3) (fld w 16 5))
  | 1 => guarded (num w 0 4 == 0 && num w 11 10 == 0 && num w 24 2 == 0) (.zunbind (fld w 21 3))
  | 2 => guarded (num w 0 4 == 0 && num w 19 2 == 0) (.zget (fld w 21 5) (fld w 16 3) (fld w 11 5))
  | 3 => guarded (num w 0 4 == 0 && num w 11 5 == 0 && num w 19 2 == 0) (.zlbl (fld w 21 5) (fld w 16 3))
  | _ => .error .function

/-- Words of major 0x24 (03 R63). -/
noncomputable def decodeCp (w : IWord) : Except DecodeError Instr :=
  match num w 4 7 with
  | 0 => guarded (num w 0 4 == 0 && num w 14 2 == 0) (.copy (fld w 21 5) (fld w 16 5) (fld w 11 3))
  | 1 => guarded (num w 0 4 == 0 && num w 14 2 == 0) (.copym (fld w 21 5) (fld w 16 5) (fld w 11 3))
  | 2 => guarded (num w 0 4 == 0 && num w 14 2 == 0) (.copyrd (fld w 21 5) (fld w 16 5) (fld w 11 3))
  | 3 => guarded (num w 0 4 == 0 && num w 11 5 == 0 && num w 21 5 == 0) (.bfree (fld w 16 5))
  | 4 => guarded (num w 14 2 == 0 && num w 21 5 == 0) (.cpwait (fld w 16 5) (fld w 11 3) (fld w 0 4))
  | 5 => guarded (num w 0 4 == 0 && num w 14 7 == 0) (.cpmark (fld w 21 5) (fld w 11 3))
  | 6 => guarded (num w 0 4 == 0 && num w 14 2 == 0 && num w 21 5 == 0) (.cpui (fld w 16 5) (fld w 11 3))
  | 7 => guarded (num w 0 4 == 0 && num w 14 7 == 0) (.cpstat (fld w 21 5) (fld w 11 3))
  | _ => .error .function

/-- Words of major 0x25 (03 R63). -/
noncomputable def decodeTk (w : IWord) : Except DecodeError Instr :=
  match num w 4 7 with
  | 0 => guarded (num w 0 4 == 0 && num w 11 5 == 0 && num w 21 5 == 0) (.tspawn (fld w 16 5))
  | 1 => guarded (num w 0 4 == 0 && num w 11 15 == 0) (.commit)
  | 2 => guarded (num w 0 4 == 0 && num w 12 14 == 0) (.tabort (fld w 11 1))
  | 3 => guarded (num w 0 4 == 0) (.depset (fld w 21 5) (fld w 16 5) (fld w 11 5))
  | 4 => guarded (num w 0 4 == 0 && num w 11 5 == 0 && num w 21 5 == 0) (.depdec (fld w 16 5))
  | 5 => guarded (num w 11 5 == 0) (.depget (fld w 21 5) (fld w 16 5) (fld w 0 4))
  | 6 => guarded (num w 0 4 == 0 && num w 11 10 == 0) (.tself (fld w 21 5))
  | 7 => guarded (num w 0 4 == 0 && num w 11 5 == 0 && num w 21 5 == 0) (.twork (fld w 16 5))
  | 8 => guarded (num w 11 5 == 0) (.tpin (fld w 21 5) (fld w 16 5) (fld w 0 4))
  | _ => .error .function

/-- Words of major 0x26 (03 R63). -/
noncomputable def decodeLbl (w : IWord) : Except DecodeError Instr :=
  match num w 4 7 with
  | 0 => guarded (num w 0 4 == 0) (.lblget (fld w 21 5) (fld w 16 5) (fld w 11 5))
  | 1 => guarded (num w 0 4 == 0 && num w 11 5 == 0) (.lblpage (fld w 21 5) (fld w 16 5))
  | 2 => guarded (num w 0 4 == 0) (.lblsub (fld w 21 5) (fld w 16 5) (fld w 11 5))
  | _ => .error .function

/-- Words of major 0x27 (03 R63). -/
noncomputable def decodeSys (w : IWord) : Except DecodeError Instr :=
  match num w 0 4 with
  | 0 => guarded (num w 16 5 == 0) (.srd (fld w 21 5) (fld w 4 12))
  | 1 => .ok (.swr (fld w 21 5) (fld w 16 5) (fld w 4 12))
  | 2 => .ok (.sset (fld w 21 5) (fld w 16 5) (fld w 4 12))
  | 3 => .ok (.sclr (fld w 21 5) (fld w 16 5) (fld w 4 12))
  | 4 => guarded (num w 16 10 == 0) (.scall (fld w 4 12))
  | 5 => guarded (num w 16 10 == 0) (.mcall (fld w 4 12))
  | 6 => guarded (num w 4 22 == 0) (.rets)
  | 7 => guarded (num w 4 22 == 0) (.retm)
  | 8 => guarded (num w 4 22 == 0) (.retu)
  | 9 => guarded (num w 4 22 == 0) (.idle)
  | 10 => guarded (num w 4 22 == 0) (.halt)
  | 11 => guarded (num w 16 10 == 0) (.brk (fld w 4 12))
  | 12 => guarded (num w 21 5 == 0) (.trapi (fld w 16 5) (fld w 4 12))
  | 13 => if num w 4 12 == 0 && num w 21 5 == 0 then .ok (.xlinvS1 (fld w 16 5)) else guarded (num w 4 12 == 0 && num w 21 5 == 1) (.xlinvS2 (fld w 16 5))
  | _ => .error .function

/-- Words of major 0x28 (03 R63). -/
noncomputable def decodeHint (w : IWord) : Except DecodeError Instr :=
  match num w 4 7 with
  | 0 => guarded (num w 0 4 == 0 && num w 11 15 == 0) (.nop)
  | 1 => guarded (num w 11 15 == 0) (.align (fld w 0 4))
  | 2 => guarded (num w 11 5 == 0 && num w 21 5 == 0) (.pref (fld w 16 5) (fld w 0 4))
  | 3 => guarded (num w 0 4 == 0 && num w 11 15 == 0) (.spin)
  | _ => .error .function

/-- The row of a word, before the requirements on field values. -/
noncomputable def decodeRow (w : IWord) : Except DecodeError Instr :=
  match num w 26 6 with
  | 1 => decodeIalu w
  | 2 => decodeAddi w
  | 3 => decodeSlti w
  | 4 => decodeAndi w
  | 5 => decodeOri w
  | 6 => decodeXori w
  | 7 => decodeSh w
  | 8 => decodeMw w
  | 9 => decodeFpu w
  | 10 => decodeFl w
  | 11 => decodeF4 w
  | 12 => decodeLds w
  | 13 => decodeLdz w
  | 14 => decodeSt w
  | 15 => decodeMemx w
  | 16 => decodeVld w
  | 17 => decodeVst w
  | 18 => decodeAmo w
  | 19 => decodeSync w
  | 20 => decodeBrc w
  | 21 => decodePbr w
  | 22 => decodeBrx w
  | 23 => decodeJ w
  | 24 => decodeRepf w
  | 25 => decodeVialu w
  | 26 => decodeVfpu w
  | 27 => decodeVfused w
  | 28 => decodeVlong w
  | 29 => decodeVperm w
  | 30 => decodeVmove w
  | 31 => decodeVconv w
  | 32 => decodeVrand w
  | 33 => decodeQop w
  | 34 => decodeMx w
  | 35 => decodeZt w
  | 36 => decodeCp w
  | 37 => decodeTk w
  | 38 => decodeLbl w
  | 39 => decodeSys w
  | 40 => decodeHint w
  | _ => .error .major

/-- The name of the requirement that an ill-formed instruction breaks. -/
def illFormedName : Instr → DecodeError
  | .sext _ _ _ => .width
  | .zext _ _ _ => .width
  | .fadd _ _ _ _ _ => .rounding
  | .fsub _ _ _ _ _ => .rounding
  | .fmul _ _ _ _ _ => .rounding
  | .fcvti _ _ _ _ _ => .rounding
  | .fcvtn _ _ _ _ _ => .rounding
  | .icvtf _ _ _ _ _ => .rounding
  | .ncvtf _ _ _ _ _ => .rounding
  | .fcvtf _ _ _ _ _ => .rounding
  | .fdiv _ _ _ _ _ _ => .rounding
  | .fsqrt _ _ _ _ _ => .rounding
  | .amoSwap _ _ _ _ _ _ => .ordering
  | .amoAdd _ _ _ _ _ _ => .ordering
  | .amoAnd _ _ _ _ _ _ => .ordering
  | .amoOr _ _ _ _ _ _ => .ordering
  | .amoXor _ _ _ _ _ _ => .ordering
  | .amoMin _ _ _ _ _ _ => .ordering
  | .amoMax _ _ _ _ _ _ => .ordering
  | .amoMinn _ _ _ _ _ _ => .ordering
  | .amoMaxn _ _ _ _ _ _ => .ordering
  | .amoCas _ _ _ _ _ _ => .ordering
  | .amoFadd _ _ _ _ _ _ => .ordering
  | .amoLd _ _ _ _ _ => .ordering
  | .amoSt _ _ _ _ _ => .ordering
  | .acqs _ => .scope
  | .fence _ => .scope
  | .qpopt _ _ _ => .sameRegister
  | .cpwait _ _ _ => .scope
  | .lblget _ _ _ => .index
  | .pref _ _ => .hint
  | _ => .field

/-- The instruction of a word, or why the word is reserved (03 R55). -/
noncomputable def decode (w : IWord) : Except DecodeError Instr :=
  match decodeRow w with
  | .ok i => if wellFormed i then .ok i else .error (illFormedName i)
  | .error e => .error e

/-- The word of an instruction: the fixed bits of its row and its fields in their places. Steps with no
encoding have none. -/
def encode : Instr → Option IWord
  | .add d a b => some (BitVec.ofNat 32 (0x04000000 + d.toNat * 2097152 + a.toNat * 65536 + b.toNat * 2048))
  | .sub d a b => some (BitVec.ofNat 32 (0x04000010 + d.toNat * 2097152 + a.toNat * 65536 + b.toNat * 2048))
  | .and d a b => some (BitVec.ofNat 32 (0x04000020 + d.toNat * 2097152 + a.toNat * 65536 + b.toNat * 2048))
  | .or d a b => some (BitVec.ofNat 32 (0x04000030 + d.toNat * 2097152 + a.toNat * 65536 + b.toNat * 2048))
  | .xor d a b => some (BitVec.ofNat 32 (0x04000040 + d.toNat * 2097152 + a.toNat * 65536 + b.toNat * 2048))
  | .andn d a b => some (BitVec.ofNat 32 (0x04000050 + d.toNat * 2097152 + a.toNat * 65536 + b.toNat * 2048))
  | .orn d a b => some (BitVec.ofNat 32 (0x04000060 + d.toNat * 2097152 + a.toNat * 65536 + b.toNat * 2048))
  | .sll d a b => some (BitVec.ofNat 32 (0x04000070 + d.toNat * 2097152 + a.toNat * 65536 + b.toNat * 2048))
  | .srl d a b => some (BitVec.ofNat 32 (0x04000080 + d.toNat * 2097152 + a.toNat * 65536 + b.toNat * 2048))
  | .sra d a b => some (BitVec.ofNat 32 (0x04000090 + d.toNat * 2097152 + a.toNat * 65536 + b.toNat * 2048))
  | .ror d a b => some (BitVec.ofNat 32 (0x040000A0 + d.toNat * 2097152 + a.toNat * 65536 + b.toNat * 2048))
  | .slt d a b => some (BitVec.ofNat 32 (0x040000B0 + d.toNat * 2097152 + a.toNat * 65536 + b.toNat * 2048))
  | .sltn d a b => some (BitVec.ofNat 32 (0x040000C0 + d.toNat * 2097152 + a.toNat * 65536 + b.toNat * 2048))
  | .seq d a b => some (BitVec.ofNat 32 (0x040000D0 + d.toNat * 2097152 + a.toNat * 65536 + b.toNat * 2048))
  | .min d a b => some (BitVec.ofNat 32 (0x040000E0 + d.toNat * 2097152 + a.toNat * 65536 + b.toNat * 2048))
  | .max d a b => some (BitVec.ofNat 32 (0x040000F0 + d.toNat * 2097152 + a.toNat * 65536 + b.toNat * 2048))
  | .minn d a b => some (BitVec.ofNat 32 (0x04000100 + d.toNat * 2097152 + a.toNat * 65536 + b.toNat * 2048))
  | .maxn d a b => some (BitVec.ofNat 32 (0x04000110 + d.toNat * 2097152 + a.toNat * 65536 + b.toNat * 2048))
  | .addw d a b => some (BitVec.ofNat 32 (0x04000120 + d.toNat * 2097152 + a.toNat * 65536 + b.toNat * 2048))
  | .subw d a b => some (BitVec.ofNat 32 (0x04000130 + d.toNat * 2097152 + a.toNat * 65536 + b.toNat * 2048))
  | .sllw d a b => some (BitVec.ofNat 32 (0x04000140 + d.toNat * 2097152 + a.toNat * 65536 + b.toNat * 2048))
  | .srlw d a b => some (BitVec.ofNat 32 (0x04000150 + d.toNat * 2097152 + a.toNat * 65536 + b.toNat * 2048))
  | .sraw d a b => some (BitVec.ofNat 32 (0x04000160 + d.toNat * 2097152 + a.toNat * 65536 + b.toNat * 2048))
  | .clz d a => some (BitVec.ofNat 32 (0x04000170 + d.toNat * 2097152 + a.toNat * 65536))
  | .ctz d a => some (BitVec.ofNat 32 (0x04000180 + d.toNat * 2097152 + a.toNat * 65536))
  | .popc d a => some (BitVec.ofNat 32 (0x04000190 + d.toNat * 2097152 + a.toNat * 65536))
  | .brev d a => some (BitVec.ofNat 32 (0x040001A0 + d.toNat * 2097152 + a.toNat * 65536))
  | .bswap d a => some (BitVec.ofNat 32 (0x040001B0 + d.toNat * 2097152 + a.toNat * 65536))
  | .sext d a w => some (BitVec.ofNat 32 (0x040001C0 + d.toNat * 2097152 + a.toNat * 65536 + w.toNat))
  | .zext d a w => some (BitVec.ofNat 32 (0x040001D0 + d.toNat * 2097152 + a.toNat * 65536 + w.toNat))
  | .mul d a b => some (BitVec.ofNat 32 (0x040001E0 + d.toNat * 2097152 + a.toNat * 65536 + b.toNat * 2048))
  | .mulh d a b => some (BitVec.ofNat 32 (0x040001F0 + d.toNat * 2097152 + a.toNat * 65536 + b.toNat * 2048))
  | .mulhn d a b => some (BitVec.ofNat 32 (0x04000200 + d.toNat * 2097152 + a.toNat * 65536 + b.toNat * 2048))
  | .mulw d a b => some (BitVec.ofNat 32 (0x04000210 + d.toNat * 2097152 + a.toNat * 65536 + b.toNat * 2048))
  | .div d a b l => some (BitVec.ofNat 32 (0x04000220 + d.toNat * 2097152 + a.toNat * 65536 + b.toNat * 2048 + l.toNat))
  | .divn d a b l => some (BitVec.ofNat 32 (0x04000230 + d.toNat * 2097152 + a.toNat * 65536 + b.toNat * 2048 + l.toNat))
  | .rem d a b l => some (BitVec.ofNat 32 (0x04000240 + d.toNat * 2097152 + a.toNat * 65536 + b.toNat * 2048 + l.toNat))
  | .remn d a b l => some (BitVec.ofNat 32 (0x04000250 + d.toNat * 2097152 + a.toNat * 65536 + b.toNat * 2048 + l.toNat))
  | .addi d a i => some (BitVec.ofNat 32 (0x08000000 + d.toNat * 2097152 + a.toNat * 65536 + i.toNat))
  | .slti d a i => some (BitVec.ofNat 32 (0x0C000000 + d.toNat * 2097152 + a.toNat * 65536 + i.toNat))
  | .andi d a i => some (BitVec.ofNat 32 (0x10000000 + d.toNat * 2097152 + a.toNat * 65536 + i.toNat))
  | .ori d a i => some (BitVec.ofNat 32 (0x14000000 + d.toNat * 2097152 + a.toNat * 65536 + i.toNat))
  | .xori d a i => some (BitVec.ofNat 32 (0x18000000 + d.toNat * 2097152 + a.toNat * 65536 + i.toNat))
  | .slli d a n => some (BitVec.ofNat 32 (0x1C000000 + d.toNat * 2097152 + a.toNat * 65536 + n.toNat))
  | .srli d a n => some (BitVec.ofNat 32 (0x1C004000 + d.toNat * 2097152 + a.toNat * 65536 + n.toNat))
  | .srai d a n => some (BitVec.ofNat 32 (0x1C008000 + d.toNat * 2097152 + a.toNat * 65536 + n.toNat))
  | .rori d a n => some (BitVec.ofNat 32 (0x1C00C000 + d.toNat * 2097152 + a.toNat * 65536 + n.toNat))
  | .seth d h i => some (BitVec.ofNat 32 (0x20000000 + d.toNat * 2097152 + h.toNat * 65536 + i.toNat))
  | .insh d h i => some (BitVec.ofNat 32 (0x20100000 + d.toNat * 2097152 + h.toNat * 65536 + i.toNat))
  | .fadd d a b t r => some (BitVec.ofNat 32 (0x24000000 + d.toNat * 2097152 + a.toNat * 65536 + b.toNat * 2048 + t.toNat * 16 + r.toNat * 2))
  | .fsub d a b t r => some (BitVec.ofNat 32 (0x24000040 + d.toNat * 2097152 + a.toNat * 65536 + b.toNat * 2048 + t.toNat * 16 + r.toNat * 2))
  | .fmul d a b t r => some (BitVec.ofNat 32 (0x24000080 + d.toNat * 2097152 + a.toNat * 65536 + b.toNat * 2048 + t.toNat * 16 + r.toNat * 2))
  | .fmin d a b t => some (BitVec.ofNat 32 (0x240000C0 + d.toNat * 2097152 + a.toNat * 65536 + b.toNat * 2048 + t.toNat * 16))
  | .fmax d a b t => some (BitVec.ofNat 32 (0x24000100 + d.toNat * 2097152 + a.toNat * 65536 + b.toNat * 2048 + t.toNat * 16))
  | .fmini d a b t => some (BitVec.ofNat 32 (0x24000140 + d.toNat * 2097152 + a.toNat * 65536 + b.toNat * 2048 + t.toNat * 16))
  | .fmaxi d a b t => some (BitVec.ofNat 32 (0x24000180 + d.toNat * 2097152 + a.toNat * 65536 + b.toNat * 2048 + t.toNat * 16))
  | .fsgc d a b t => some (BitVec.ofNat 32 (0x240001C0 + d.toNat * 2097152 + a.toNat * 65536 + b.toNat * 2048 + t.toNat * 16))
  | .fsgi d a b t => some (BitVec.ofNat 32 (0x24000200 + d.toNat * 2097152 + a.toNat * 65536 + b.toNat * 2048 + t.toNat * 16))
  | .fsgx d a b t => some (BitVec.ofNat 32 (0x24000240 + d.toNat * 2097152 + a.toNat * 65536 + b.toNat * 2048 + t.toNat * 16))
  | .feq d a b t => some (BitVec.ofNat 32 (0x24000280 + d.toNat * 2097152 + a.toNat * 65536 + b.toNat * 2048 + t.toNat * 16))
  | .flt d a b t => some (BitVec.ofNat 32 (0x240002C0 + d.toNat * 2097152 + a.toNat * 65536 + b.toNat * 2048 + t.toNat * 16))
  | .fle d a b t => some (BitVec.ofNat 32 (0x24000300 + d.toNat * 2097152 + a.toNat * 65536 + b.toNat * 2048 + t.toNat * 16))
  | .fclass d a t => some (BitVec.ofNat 32 (0x24000340 + d.toNat * 2097152 + a.toNat * 65536 + t.toNat * 16))
  | .fcvti d a c t r => some (BitVec.ofNat 32 (0x24000380 + d.toNat * 2097152 + a.toNat * 65536 + c.toNat * 2048 + t.toNat * 16 + r.toNat * 2))
  | .fcvtn d a c t r => some (BitVec.ofNat 32 (0x240023C0 + d.toNat * 2097152 + a.toNat * 65536 + c.toNat * 2048 + t.toNat * 16 + r.toNat * 2))
  | .icvtf d a c t r => some (BitVec.ofNat 32 (0x24000400 + d.toNat * 2097152 + a.toNat * 65536 + c.toNat * 2048 + t.toNat * 16 + r.toNat * 2))
  | .ncvtf d a c t r => some (BitVec.ofNat 32 (0x24002440 + d.toNat * 2097152 + a.toNat * 65536 + c.toNat * 2048 + t.toNat * 16 + r.toNat * 2))
  | .fcvtf d a c t r => some (BitVec.ofNat 32 (0x24004480 + d.toNat * 2097152 + a.toNat * 65536 + c.toNat * 2048 + t.toNat * 16 + r.toNat * 2))
  | .fdiv d a b t r l => some (BitVec.ofNat 32 (0x28000000 + d.toNat * 2097152 + a.toNat * 65536 + b.toNat * 2048 + t.toNat * 128 + r.toNat * 16 + l.toNat))
  | .fsqrt d a t r l => some (BitVec.ofNat 32 (0x28000200 + d.toNat * 2097152 + a.toNat * 65536 + t.toNat * 128 + r.toNat * 16 + l.toNat))
  | .fmadd d a b c t => some (BitVec.ofNat 32 (0x2C000000 + d.toNat * 2097152 + a.toNat * 65536 + b.toNat * 2048 + c.toNat * 64 + t.toNat * 16))
  | .fmsub d a b c t => some (BitVec.ofNat 32 (0x2C000004 + d.toNat * 2097152 + a.toNat * 65536 + b.toNat * 2048 + c.toNat * 64 + t.toNat * 16))
  | .fnmadd d a b c t => some (BitVec.ofNat 32 (0x2C000008 + d.toNat * 2097152 + a.toNat * 65536 + b.toNat * 2048 + c.toNat * 64 + t.toNat * 16))
  | .fnmsub d a b c t => some (BitVec.ofNat 32 (0x2C00000C + d.toNat * 2097152 + a.toNat * 65536 + b.toNat * 2048 + c.toNat * 64 + t.toNat * 16))
  | .lds d a o s l => some (BitVec.ofNat 32 (0x30000000 + d.toNat * 2097152 + a.toNat * 65536 + o.toNat * 64 + s.toNat * 16 + l.toNat))
  | .ldz d a o s l => some (BitVec.ofNat 32 (0x34000000 + d.toNat * 2097152 + a.toNat * 65536 + o.toNat * 64 + s.toNat * 16 + l.toNat))
  | .st d a o s => some (BitVec.ofNat 32 (0x38000000 + d.toNat * 2097152 + a.toNat * 65536 + o.toNat * 64 + s.toNat * 16))
  | .ldsx d a b s l => some (BitVec.ofNat 32 (0x3C000000 + d.toNat * 2097152 + a.toNat * 65536 + b.toNat * 2048 + s.toNat * 16 + l.toNat))
  | .ldzx d a b s l => some (BitVec.ofNat 32 (0x3C000040 + d.toNat * 2097152 + a.toNat * 65536 + b.toNat * 2048 + s.toNat * 16 + l.toNat))
  | .stx d a b s => some (BitVec.ofNat 32 (0x3C000080 + d.toNat * 2097152 + a.toNat * 65536 + b.toNat * 2048 + s.toNat * 16))
  | .vld d a m z l => some (BitVec.ofNat 32 (0x40000000 + d.toNat * 2097152 + a.toNat * 65536 + m.toNat * 256 + z.toNat * 128 + l.toNat))
  | .vldSt d a b m z l => some (BitVec.ofNat 32 (0x40000010 + d.toNat * 2097152 + a.toNat * 65536 + b.toNat * 2048 + m.toNat * 256 + z.toNat * 128 + l.toNat))
  | .vldGt d a b m z l => some (BitVec.ofNat 32 (0x40000020 + d.toNat * 2097152 + a.toNat * 65536 + b.toNat * 2048 + m.toNat * 256 + z.toNat * 128 + l.toNat))
  | .vldBc d a m z l => some (BitVec.ofNat 32 (0x40000030 + d.toNat * 2097152 + a.toNat * 65536 + m.toNat * 256 + z.toNat * 128 + l.toNat))
  | .vldFf d a m z l => some (BitVec.ofNat 32 (0x40000040 + d.toNat * 2097152 + a.toNat * 65536 + m.toNat * 256 + z.toNat * 128 + l.toNat))
  | .vst d a m => some (BitVec.ofNat 32 (0x44000000 + d.toNat * 2097152 + a.toNat * 65536 + m.toNat * 256))
  | .vstSt d a b m => some (BitVec.ofNat 32 (0x44000010 + d.toNat * 2097152 + a.toNat * 65536 + b.toNat * 2048 + m.toNat * 256))
  | .vstSc d a b m => some (BitVec.ofNat 32 (0x44000020 + d.toNat * 2097152 + a.toNat * 65536 + b.toNat * 2048 + m.toNat * 256))
  | .amoSwap d a b w p l => some (BitVec.ofNat 32 (0x48000000 + d.toNat * 2097152 + a.toNat * 65536 + b.toNat * 2048 + w.toNat * 1024 + p.toNat * 16 + l.toNat))
  | .amoAdd d a b w p l => some (BitVec.ofNat 32 (0x48000040 + d.toNat * 2097152 + a.toNat * 65536 + b.toNat * 2048 + w.toNat * 1024 + p.toNat * 16 + l.toNat))
  | .amoAnd d a b w p l => some (BitVec.ofNat 32 (0x48000080 + d.toNat * 2097152 + a.toNat * 65536 + b.toNat * 2048 + w.toNat * 1024 + p.toNat * 16 + l.toNat))
  | .amoOr d a b w p l => some (BitVec.ofNat 32 (0x480000C0 + d.toNat * 2097152 + a.toNat * 65536 + b.toNat * 2048 + w.toNat * 1024 + p.toNat * 16 + l.toNat))
  | .amoXor d a b w p l => some (BitVec.ofNat 32 (0x48000100 + d.toNat * 2097152 + a.toNat * 65536 + b.toNat * 2048 + w.toNat * 1024 + p.toNat * 16 + l.toNat))
  | .amoMin d a b w p l => some (BitVec.ofNat 32 (0x48000140 + d.toNat * 2097152 + a.toNat * 65536 + b.toNat * 2048 + w.toNat * 1024 + p.toNat * 16 + l.toNat))
  | .amoMax d a b w p l => some (BitVec.ofNat 32 (0x48000180 + d.toNat * 2097152 + a.toNat * 65536 + b.toNat * 2048 + w.toNat * 1024 + p.toNat * 16 + l.toNat))
  | .amoMinn d a b w p l => some (BitVec.ofNat 32 (0x480001C0 + d.toNat * 2097152 + a.toNat * 65536 + b.toNat * 2048 + w.toNat * 1024 + p.toNat * 16 + l.toNat))
  | .amoMaxn d a b w p l => some (BitVec.ofNat 32 (0x48000200 + d.toNat * 2097152 + a.toNat * 65536 + b.toNat * 2048 + w.toNat * 1024 + p.toNat * 16 + l.toNat))
  | .amoCas d a b w p l => some (BitVec.ofNat 32 (0x48000240 + d.toNat * 2097152 + a.toNat * 65536 + b.toNat * 2048 + w.toNat * 1024 + p.toNat * 16 + l.toNat))
  | .amoFadd d a b w p l => some (BitVec.ofNat 32 (0x48000280 + d.toNat * 2097152 + a.toNat * 65536 + b.toNat * 2048 + w.toNat * 1024 + p.toNat * 16 + l.toNat))
  | .amoLd d a w p l => some (BitVec.ofNat 32 (0x480002C0 + d.toNat * 2097152 + a.toNat * 65536 + w.toNat * 1024 + p.toNat * 16 + l.toNat))
  | .amoSt a b w p l => some (BitVec.ofNat 32 (0x48000300 + a.toNat * 65536 + b.toNat * 2048 + w.toNat * 1024 + p.toNat * 16 + l.toNat))
  | .pub d => some (BitVec.ofNat 32 (0x4C000000 + d.toNat * 2097152))
  | .pubn d => some (BitVec.ofNat 32 (0x4C000010 + d.toNat * 2097152))
  | .pubwait a => some (BitVec.ofNat 32 (0x4C000020 + a.toNat * 65536))
  | .acq a => some (BitVec.ofNat 32 (0x4C000030 + a.toNat * 65536))
  | .acqs s => some (BitVec.ofNat 32 (0x4C000040 + s.toNat))
  | .fence s => some (BitVec.ofNat 32 (0x4C000050 + s.toNat))
  | .iacq => some (BitVec.ofNat 32 (0x4C000060))
  | .logstat d => some (BitVec.ofNat 32 (0x4C000070 + d.toNat * 2097152))
  | .brcEq t a b k => some (BitVec.ofNat 32 (0x50000000 + t.toNat * 16777216 + a.toNat * 32768 + b.toNat * 1024 + k.toNat * 512))
  | .brcNe t a b k => some (BitVec.ofNat 32 (0x50100000 + t.toNat * 16777216 + a.toNat * 32768 + b.toNat * 1024 + k.toNat * 512))
  | .brcLt t a b k => some (BitVec.ofNat 32 (0x50200000 + t.toNat * 16777216 + a.toNat * 32768 + b.toNat * 1024 + k.toNat * 512))
  | .brcGe t a b k => some (BitVec.ofNat 32 (0x50300000 + t.toNat * 16777216 + a.toNat * 32768 + b.toNat * 1024 + k.toNat * 512))
  | .brcLtn t a b k => some (BitVec.ofNat 32 (0x50400000 + t.toNat * 16777216 + a.toNat * 32768 + b.toNat * 1024 + k.toNat * 512))
  | .brcGen t a b k => some (BitVec.ofNat 32 (0x50500000 + t.toNat * 16777216 + a.toNat * 32768 + b.toNat * 1024 + k.toNat * 512))
  | .brcAlw t k => some (BitVec.ofNat 32 (0x50600000 + t.toNat * 16777216 + k.toNat * 512))
  | .brcBset t a b k => some (BitVec.ofNat 32 (0x50700000 + t.toNat * 16777216 + a.toNat * 32768 + b.toNat * 1024 + k.toNat * 512))
  | .pbr t d => some (BitVec.ofNat 32 (0x54000000 + t.toNat * 16777216 + d.toNat))
  | .pbrr a t => some (BitVec.ofNat 32 (0x58000000 + a.toNat * 65536 + t.toNat * 2048))
  | .call d t => some (BitVec.ofNat 32 (0x58000010 + d.toNat * 2097152 + t.toNat * 2048))
  | .ret a => some (BitVec.ofNat 32 (0x58000020 + a.toNat * 65536))
  | .jmpb t => some (BitVec.ofNat 32 (0x58000030 + t.toNat * 2048))
  | .bget d t => some (BitVec.ofNat 32 (0x58000040 + d.toNat * 2097152 + t.toNat * 2048))
  | .j d => some (BitVec.ofNat 32 (0x5C000000 + d.toNat))
  | .repf n i d a b c => some (BitVec.ofNat 32 (0x60000000 + n.toNat * 4194304 + i.toNat * 16384 + d.toNat * 2048 + a.toNat * 256 + b.toNat * 32 + c.toNat * 4))
  | .vadd d a b m v z => some (BitVec.ofNat 32 (0x64000000 + d.toNat * 2097152 + a.toNat * 65536 + b.toNat * 2048 + m.toNat * 256 + v.toNat * 128 + z.toNat * 64))
  | .vsub d a b m v z => some (BitVec.ofNat 32 (0x64000001 + d.toNat * 2097152 + a.toNat * 65536 + b.toNat * 2048 + m.toNat * 256 + v.toNat * 128 + z.toNat * 64))
  | .vmul d a b m v z => some (BitVec.ofNat 32 (0x64000002 + d.toNat * 2097152 + a.toNat * 65536 + b.toNat * 2048 + m.toNat * 256 + v.toNat * 128 + z.toNat * 64))
  | .vmulh d a b m v z => some (BitVec.ofNat 32 (0x64000003 + d.toNat * 2097152 + a.toNat * 65536 + b.toNat * 2048 + m.toNat * 256 + v.toNat * 128 + z.toNat * 64))
  | .vmulhn d a b m v z => some (BitVec.ofNat 32 (0x64000004 + d.toNat * 2097152 + a.toNat * 65536 + b.toNat * 2048 + m.toNat * 256 + v.toNat * 128 + z.toNat * 64))
  | .vand d a b m v z => some (BitVec.ofNat 32 (0x64000005 + d.toNat * 2097152 + a.toNat * 65536 + b.toNat * 2048 + m.toNat * 256 + v.toNat * 128 + z.toNat * 64))
  | .vor d a b m v z => some (BitVec.ofNat 32 (0x64000006 + d.toNat * 2097152 + a.toNat * 65536 + b.toNat * 2048 + m.toNat * 256 + v.toNat * 128 + z.toNat * 64))
  | .vxor d a b m v z => some (BitVec.ofNat 32 (0x64000007 + d.toNat * 2097152 + a.toNat * 65536 + b.toNat * 2048 + m.toNat * 256 + v.toNat * 128 + z.toNat * 64))
  | .vandn d a b m v z => some (BitVec.ofNat 32 (0x64000008 + d.toNat * 2097152 + a.toNat * 65536 + b.toNat * 2048 + m.toNat * 256 + v.toNat * 128 + z.toNat * 64))
  | .vsll d a b m v z => some (BitVec.ofNat 32 (0x64000009 + d.toNat * 2097152 + a.toNat * 65536 + b.toNat * 2048 + m.toNat * 256 + v.toNat * 128 + z.toNat * 64))
  | .vsrl d a b m v z => some (BitVec.ofNat 32 (0x6400000A + d.toNat * 2097152 + a.toNat * 65536 + b.toNat * 2048 + m.toNat * 256 + v.toNat * 128 + z.toNat * 64))
  | .vsra d a b m v z => some (BitVec.ofNat 32 (0x6400000B + d.toNat * 2097152 + a.toNat * 65536 + b.toNat * 2048 + m.toNat * 256 + v.toNat * 128 + z.toNat * 64))
  | .vmin d a b m v z => some (BitVec.ofNat 32 (0x6400000C + d.toNat * 2097152 + a.toNat * 65536 + b.toNat * 2048 + m.toNat * 256 + v.toNat * 128 + z.toNat * 64))
  | .vmax d a b m v z => some (BitVec.ofNat 32 (0x6400000D + d.toNat * 2097152 + a.toNat * 65536 + b.toNat * 2048 + m.toNat * 256 + v.toNat * 128 + z.toNat * 64))
  | .vminn d a b m v z => some (BitVec.ofNat 32 (0x6400000E + d.toNat * 2097152 + a.toNat * 65536 + b.toNat * 2048 + m.toNat * 256 + v.toNat * 128 + z.toNat * 64))
  | .vmaxn d a b m v z => some (BitVec.ofNat 32 (0x6400000F + d.toNat * 2097152 + a.toNat * 65536 + b.toNat * 2048 + m.toNat * 256 + v.toNat * 128 + z.toNat * 64))
  | .vsadd d a b m v z => some (BitVec.ofNat 32 (0x64000010 + d.toNat * 2097152 + a.toNat * 65536 + b.toNat * 2048 + m.toNat * 256 + v.toNat * 128 + z.toNat * 64))
  | .vssub d a b m v z => some (BitVec.ofNat 32 (0x64000011 + d.toNat * 2097152 + a.toNat * 65536 + b.toNat * 2048 + m.toNat * 256 + v.toNat * 128 + z.toNat * 64))
  | .vsaddn d a b m v z => some (BitVec.ofNat 32 (0x64000012 + d.toNat * 2097152 + a.toNat * 65536 + b.toNat * 2048 + m.toNat * 256 + v.toNat * 128 + z.toNat * 64))
  | .vssubn d a b m v z => some (BitVec.ofNat 32 (0x64000013 + d.toNat * 2097152 + a.toNat * 65536 + b.toNat * 2048 + m.toNat * 256 + v.toNat * 128 + z.toNat * 64))
  | .vabsd d a b m v z => some (BitVec.ofNat 32 (0x64000014 + d.toNat * 2097152 + a.toNat * 65536 + b.toNat * 2048 + m.toNat * 256 + v.toNat * 128 + z.toNat * 64))
  | .vseq d a b m v z => some (BitVec.ofNat 32 (0x64000015 + d.toNat * 2097152 + a.toNat * 65536 + b.toNat * 2048 + m.toNat * 256 + v.toNat * 128 + z.toNat * 64))
  | .vsne d a b m v z => some (BitVec.ofNat 32 (0x64000016 + d.toNat * 2097152 + a.toNat * 65536 + b.toNat * 2048 + m.toNat * 256 + v.toNat * 128 + z.toNat * 64))
  | .vslt d a b m v z => some (BitVec.ofNat 32 (0x64000017 + d.toNat * 2097152 + a.toNat * 65536 + b.toNat * 2048 + m.toNat * 256 + v.toNat * 128 + z.toNat * 64))
  | .vsltn d a b m v z => some (BitVec.ofNat 32 (0x64000018 + d.toNat * 2097152 + a.toNat * 65536 + b.toNat * 2048 + m.toNat * 256 + v.toNat * 128 + z.toNat * 64))
  | .vmerge d a b m v => some (BitVec.ofNat 32 (0x64000019 + d.toNat * 2097152 + a.toNat * 65536 + b.toNat * 2048 + m.toNat * 256 + v.toNat * 128))
  | .vpopc d a m z => some (BitVec.ofNat 32 (0x6400001A + d.toNat * 2097152 + a.toNat * 65536 + m.toNat * 256 + z.toNat * 64))
  | .vclz d a m z => some (BitVec.ofNat 32 (0x6400001B + d.toNat * 2097152 + a.toNat * 65536 + m.toNat * 256 + z.toNat * 64))
  | .vfadd d a b m v z => some (BitVec.ofNat 32 (0x68000000 + d.toNat * 2097152 + a.toNat * 65536 + b.toNat * 2048 + m.toNat * 256 + v.toNat * 128 + z.toNat * 64))
  | .vfsub d a b m v z => some (BitVec.ofNat 32 (0x68000001 + d.toNat * 2097152 + a.toNat * 65536 + b.toNat * 2048 + m.toNat * 256 + v.toNat * 128 + z.toNat * 64))
  | .vfmul d a b m v z => some (BitVec.ofNat 32 (0x68000002 + d.toNat * 2097152 + a.toNat * 65536 + b.toNat * 2048 + m.toNat * 256 + v.toNat * 128 + z.toNat * 64))
  | .vfmin d a b m v z => some (BitVec.ofNat 32 (0x68000003 + d.toNat * 2097152 + a.toNat * 65536 + b.toNat * 2048 + m.toNat * 256 + v.toNat * 128 + z.toNat * 64))
  | .vfmax d a b m v z => some (BitVec.ofNat 32 (0x68000004 + d.toNat * 2097152 + a.toNat * 65536 + b.toNat * 2048 + m.toNat * 256 + v.toNat * 128 + z.toNat * 64))
  | .vfmini d a b m v z => some (BitVec.ofNat 32 (0x68000005 + d.toNat * 2097152 + a.toNat * 65536 + b.toNat * 2048 + m.toNat * 256 + v.toNat * 128 + z.toNat * 64))
  | .vfmaxi d a b m v z => some (BitVec.ofNat 32 (0x68000006 + d.toNat * 2097152 + a.toNat * 65536 + b.toNat * 2048 + m.toNat * 256 + v.toNat * 128 + z.toNat * 64))
  | .vfsgc d a b m v z => some (BitVec.ofNat 32 (0x68000007 + d.toNat * 2097152 + a.toNat * 65536 + b.toNat * 2048 + m.toNat * 256 + v.toNat * 128 + z.toNat * 64))
  | .vfsgi d a b m v z => some (BitVec.ofNat 32 (0x68000008 + d.toNat * 2097152 + a.toNat * 65536 + b.toNat * 2048 + m.toNat * 256 + v.toNat * 128 + z.toNat * 64))
  | .vfsgx d a b m v z => some (BitVec.ofNat 32 (0x68000009 + d.toNat * 2097152 + a.toNat * 65536 + b.toNat * 2048 + m.toNat * 256 + v.toNat * 128 + z.toNat * 64))
  | .vfeq d a b m v z => some (BitVec.ofNat 32 (0x6800000A + d.toNat * 2097152 + a.toNat * 65536 + b.toNat * 2048 + m.toNat * 256 + v.toNat * 128 + z.toNat * 64))
  | .vflt d a b m v z => some (BitVec.ofNat 32 (0x6800000B + d.toNat * 2097152 + a.toNat * 65536 + b.toNat * 2048 + m.toNat * 256 + v.toNat * 128 + z.toNat * 64))
  | .vfle d a b m v z => some (BitVec.ofNat 32 (0x6800000C + d.toNat * 2097152 + a.toNat * 65536 + b.toNat * 2048 + m.toNat * 256 + v.toNat * 128 + z.toNat * 64))
  | .vfclass d a m z => some (BitVec.ofNat 32 (0x6800000D + d.toNat * 2097152 + a.toNat * 65536 + m.toNat * 256 + z.toNat * 64))
  | .vfmadd d a b c m => some (BitVec.ofNat 32 (0x6C000000 + d.toNat * 2097152 + a.toNat * 65536 + b.toNat * 2048 + c.toNat * 64 + m.toNat * 8))
  | .vfmsub d a b c m => some (BitVec.ofNat 32 (0x6C000001 + d.toNat * 2097152 + a.toNat * 65536 + b.toNat * 2048 + c.toNat * 64 + m.toNat * 8))
  | .vfnmadd d a b c m => some (BitVec.ofNat 32 (0x6C000002 + d.toNat * 2097152 + a.toNat * 65536 + b.toNat * 2048 + c.toNat * 64 + m.toNat * 8))
  | .vfnmsub d a b c m => some (BitVec.ofNat 32 (0x6C000003 + d.toNat * 2097152 + a.toNat * 65536 + b.toNat * 2048 + c.toNat * 64 + m.toNat * 8))
  | .vfdot2 d a b c m => some (BitVec.ofNat 32 (0x6C000004 + d.toNat * 2097152 + a.toNat * 65536 + b.toNat * 2048 + c.toNat * 64 + m.toNat * 8))
  | .vidot4 d a b c m => some (BitVec.ofNat 32 (0x6C000005 + d.toNat * 2097152 + a.toNat * 65536 + b.toNat * 2048 + c.toNat * 64 + m.toNat * 8))
  | .vfdiv d a b m z l => some (BitVec.ofNat 32 (0x70000000 + d.toNat * 2097152 + a.toNat * 65536 + b.toNat * 2048 + m.toNat * 256 + z.toNat * 128 + l.toNat))
  | .vfsqrt d a m z l => some (BitVec.ofNat 32 (0x70000010 + d.toNat * 2097152 + a.toNat * 65536 + m.toNat * 256 + z.toNat * 128 + l.toNat))
  | .vdiv d a b m z l => some (BitVec.ofNat 32 (0x70000020 + d.toNat * 2097152 + a.toNat * 65536 + b.toNat * 2048 + m.toNat * 256 + z.toNat * 128 + l.toNat))
  | .vdivn d a b m z l => some (BitVec.ofNat 32 (0x70000030 + d.toNat * 2097152 + a.toNat * 65536 + b.toNat * 2048 + m.toNat * 256 + z.toNat * 128 + l.toNat))
  | .vrem d a b m z l => some (BitVec.ofNat 32 (0x70000040 + d.toNat * 2097152 + a.toNat * 65536 + b.toNat * 2048 + m.toNat * 256 + z.toNat * 128 + l.toNat))
  | .vremn d a b m z l => some (BitVec.ofNat 32 (0x70000050 + d.toNat * 2097152 + a.toNat * 65536 + b.toNat * 2048 + m.toNat * 256 + z.toNat * 128 + l.toNat))
  | .vredsum d a b m v => some (BitVec.ofNat 32 (0x74000000 + d.toNat * 2097152 + a.toNat * 65536 + b.toNat * 2048 + m.toNat * 256 + v.toNat * 128))
  | .vredmin d a b m v => some (BitVec.ofNat 32 (0x74000001 + d.toNat * 2097152 + a.toNat * 65536 + b.toNat * 2048 + m.toNat * 256 + v.toNat * 128))
  | .vredmax d a b m v => some (BitVec.ofNat 32 (0x74000002 + d.toNat * 2097152 + a.toNat * 65536 + b.toNat * 2048 + m.toNat * 256 + v.toNat * 128))
  | .vfredsum d a b m v => some (BitVec.ofNat 32 (0x74000003 + d.toNat * 2097152 + a.toNat * 65536 + b.toNat * 2048 + m.toNat * 256 + v.toNat * 128))
  | .vfredseq d a b m v => some (BitVec.ofNat 32 (0x74000004 + d.toNat * 2097152 + a.toNat * 65536 + b.toNat * 2048 + m.toNat * 256 + v.toNat * 128))
  | .vfredmin d a b m v => some (BitVec.ofNat 32 (0x74000005 + d.toNat * 2097152 + a.toNat * 65536 + b.toNat * 2048 + m.toNat * 256 + v.toNat * 128))
  | .vfredmax d a b m v => some (BitVec.ofNat 32 (0x74000006 + d.toNat * 2097152 + a.toNat * 65536 + b.toNat * 2048 + m.toNat * 256 + v.toNat * 128))
  | .vslideup d a k m v => some (BitVec.ofNat 32 (0x74000007 + d.toNat * 2097152 + a.toNat * 65536 + k.toNat * 2048 + m.toNat * 256 + v.toNat * 128))
  | .vslidedn d a k m v => some (BitVec.ofNat 32 (0x74000008 + d.toNat * 2097152 + a.toNat * 65536 + k.toNat * 2048 + m.toNat * 256 + v.toNat * 128))
  | .vperm d a b m => some (BitVec.ofNat 32 (0x74000009 + d.toNat * 2097152 + a.toNat * 65536 + b.toNat * 2048 + m.toNat * 256))
  | .vsqz d a m => some (BitVec.ofNat 32 (0x7400000A + d.toNat * 2097152 + a.toNat * 65536 + m.toNat * 256))
  | .vsprd d a m => some (BitVec.ofNat 32 (0x7400000B + d.toNat * 2097152 + a.toNat * 65536 + m.toNat * 256))
  | .vzip d a b m => some (BitVec.ofNat 32 (0x7400000C + d.toNat * 2097152 + a.toNat * 65536 + b.toNat * 2048 + m.toNat * 256))
  | .vunzip d a b m => some (BitVec.ofNat 32 (0x7400000D + d.toNat * 2097152 + a.toNat * 65536 + b.toNat * 2048 + m.toNat * 256))
  | .vrank d m => some (BitVec.ofNat 32 (0x7400000E + d.toNat * 2097152 + m.toNat * 256))
  | .vmand d a b => some (BitVec.ofNat 32 (0x7400000F + d.toNat * 2097152 + a.toNat * 65536 + b.toNat * 2048))
  | .vmor d a b => some (BitVec.ofNat 32 (0x74000010 + d.toNat * 2097152 + a.toNat * 65536 + b.toNat * 2048))
  | .vmxor d a b => some (BitVec.ofNat 32 (0x74000011 + d.toNat * 2097152 + a.toNat * 65536 + b.toNat * 2048))
  | .vmnot d a => some (BitVec.ofNat 32 (0x74000012 + d.toNat * 2097152 + a.toNat * 65536))
  | .vmpopc d a => some (BitVec.ofNat 32 (0x74000013 + d.toNat * 2097152 + a.toNat * 65536))
  | .vmfirst d a => some (BitVec.ofNat 32 (0x74000014 + d.toNat * 2097152 + a.toNat * 65536))
  | .vsplat d a m => some (BitVec.ofNat 32 (0x78000000 + d.toNat * 2097152 + a.toNat * 65536 + m.toNat * 256))
  | .vext d a b => some (BitVec.ofNat 32 (0x78000001 + d.toNat * 2097152 + a.toNat * 65536 + b.toNat * 2048))
  | .vins d a b => some (BitVec.ofNat 32 (0x78000002 + d.toNat * 2097152 + a.toNat * 65536 + b.toNat * 2048))
  | .vmov d a m => some (BitVec.ofNat 32 (0x78000003 + d.toNat * 2097152 + a.toNat * 65536 + m.toNat * 256))
  | .vsett d a => some (BitVec.ofNat 32 (0x78000004 + d.toNat * 2097152 + a.toNat * 65536))
  | .vgett d => some (BitVec.ofNat 32 (0x78000005 + d.toNat * 2097152))
  | .vid d m => some (BitVec.ofNat 32 (0x78000006 + d.toNat * 2097152 + m.toNat * 256))
  | .vmtox d a => some (BitVec.ofNat 32 (0x78000007 + d.toNat * 2097152 + a.toNat * 65536))
  | .vxtom d a => some (BitVec.ofNat 32 (0x78000008 + d.toNat * 2097152 + a.toNat * 65536))
  | .vcvt d a p m t => some (BitVec.ofNat 32 (0x7C000000 + d.toNat * 2097152 + a.toNat * 65536 + p.toNat * 2048 + m.toNat * 256 + t.toNat * 16))
  | .vcvts d a p m t => some (BitVec.ofNat 32 (0x7C000001 + d.toNat * 2097152 + a.toNat * 65536 + p.toNat * 2048 + m.toNat * 256 + t.toNat * 16))
  | .vquant d a b m t => some (BitVec.ofNat 32 (0x7C000002 + d.toNat * 2097152 + a.toNat * 65536 + b.toNat * 2048 + m.toNat * 256 + t.toNat * 16))
  | .vdeq d a b m t => some (BitVec.ofNat 32 (0x7C000003 + d.toNat * 2097152 + a.toNat * 65536 + b.toNat * 2048 + m.toNat * 256 + t.toNat * 16))
  | .vpack d a b m t => some (BitVec.ofNat 32 (0x7C000004 + d.toNat * 2097152 + a.toNat * 65536 + b.toNat * 2048 + m.toNat * 256 + t.toNat * 16))
  | .vunpk d a p m t => some (BitVec.ofNat 32 (0x7C000005 + d.toNat * 2097152 + a.toNat * 65536 + p.toNat * 2048 + m.toNat * 256 + t.toNat * 16))
  | .vrmix d a b => some (BitVec.ofNat 32 (0x80000000 + d.toNat * 2097152 + a.toNat * 65536 + b.toNat * 2048))
  | .vaddq d a b => some (BitVec.ofNat 32 (0x80000001 + d.toNat * 2097152 + a.toNat * 65536 + b.toNat * 2048))
  | .veqq d a b => some (BitVec.ofNat 32 (0x80000002 + d.toNat * 2097152 + a.toNat * 65536 + b.toNat * 2048))
  | .qbind q a => some (BitVec.ofNat 32 (0x84000000 + q.toNat * 4194304 + a.toNat * 131072))
  | .qunbind q => some (BitVec.ofNat 32 (0x84000001 + q.toNat * 4194304))
  | .qpush q a => some (BitVec.ofNat 32 (0x84000002 + q.toNat * 4194304 + a.toNat * 131072))
  | .qpop q d l => some (BitVec.ofNat 32 (0x84000003 + q.toNat * 4194304 + d.toNat * 131072 + l.toNat * 256))
  | .qpushv q a => some (BitVec.ofNat 32 (0x84000004 + q.toNat * 4194304 + a.toNat * 131072))
  | .qpopv q d l => some (BitVec.ofNat 32 (0x84000005 + q.toNat * 4194304 + d.toNat * 131072 + l.toNat * 256))
  | .qpopt q d b => some (BitVec.ofNat 32 (0x84000006 + q.toNat * 4194304 + d.toNat * 131072 + b.toNat * 4096))
  | .qstat q d => some (BitVec.ofNat 32 (0x84000007 + q.toNat * 4194304 + d.toNat * 131072))
  | .mlease l => some (BitVec.ofNat 32 (0x88000000 + l.toNat))
  | .mrels => some (BitVec.ofNat 32 (0x88000010))
  | .mma z a b => some (BitVec.ofNat 32 (0x88000020 + z.toNat * 2097152 + a.toNat * 65536 + b.toNat * 2048))
  | .mzero z => some (BitVec.ofNat 32 (0x88000030 + z.toNat * 2097152))
  | .mdrain l => some (BitVec.ofNat 32 (0x88000040 + l.toNat))
  | .mprog d => some (BitVec.ofNat 32 (0x88000050 + d.toNat * 2097152))
  | .mresume => some (BitVec.ofNat 32 (0x88000060))
  | .mscale a => some (BitVec.ofNat 32 (0x88000070 + a.toNat * 65536))
  | .mstat d => some (BitVec.ofNat 32 (0x88000080 + d.toNat * 2097152))
  | .zbind z a => some (BitVec.ofNat 32 (0x8C000000 + z.toNat * 2097152 + a.toNat * 65536))
  | .zunbind z => some (BitVec.ofNat 32 (0x8C000010 + z.toNat * 2097152))
  | .zget d z b => some (BitVec.ofNat 32 (0x8C000020 + d.toNat * 2097152 + z.toNat * 65536 + b.toNat * 2048))
  | .zlbl d z => some (BitVec.ofNat 32 (0x8C000030 + d.toNat * 2097152 + z.toNat * 65536))
  | .copy d a c => some (BitVec.ofNat 32 (0x90000000 + d.toNat * 2097152 + a.toNat * 65536 + c.toNat * 2048))
  | .copym d a c => some (BitVec.ofNat 32 (0x90000010 + d.toNat * 2097152 + a.toNat * 65536 + c.toNat * 2048))
  | .copyrd d a c => some (BitVec.ofNat 32 (0x90000020 + d.toNat * 2097152 + a.toNat * 65536 + c.toNat * 2048))
  | .bfree a => some (BitVec.ofNat 32 (0x90000030 + a.toNat * 65536))
  | .cpwait a c s => some (BitVec.ofNat 32 (0x90000040 + a.toNat * 65536 + c.toNat * 2048 + s.toNat))
  | .cpmark d c => some (BitVec.ofNat 32 (0x90000050 + d.toNat * 2097152 + c.toNat * 2048))
  | .cpui a c => some (BitVec.ofNat 32 (0x90000060 + a.toNat * 65536 + c.toNat * 2048))
  | .cpstat d c => some (BitVec.ofNat 32 (0x90000070 + d.toNat * 2097152 + c.toNat * 2048))
  | .tspawn a => some (BitVec.ofNat 32 (0x94000000 + a.toNat * 65536))
  | .commit => some (BitVec.ofNat 32 (0x94000010))
  | .tabort k => some (BitVec.ofNat 32 (0x94000020 + k.toNat * 2048))
  | .depset d a b => some (BitVec.ofNat 32 (0x94000030 + d.toNat * 2097152 + a.toNat * 65536 + b.toNat * 2048))
  | .depdec a => some (BitVec.ofNat 32 (0x94000040 + a.toNat * 65536))
  | .depget d a l => some (BitVec.ofNat 32 (0x94000050 + d.toNat * 2097152 + a.toNat * 65536 + l.toNat))
  | .tself d => some (BitVec.ofNat 32 (0x94000060 + d.toNat * 2097152))
  | .twork a => some (BitVec.ofNat 32 (0x94000070 + a.toNat * 65536))
  | .tpin d a l => some (BitVec.ofNat 32 (0x94000080 + d.toNat * 2097152 + a.toNat * 65536 + l.toNat))
  | .lblget d a k => some (BitVec.ofNat 32 (0x98000000 + d.toNat * 2097152 + a.toNat * 65536 + k.toNat * 2048))
  | .lblpage d a => some (BitVec.ofNat 32 (0x98000010 + d.toNat * 2097152 + a.toNat * 65536))
  | .lblsub d a b => some (BitVec.ofNat 32 (0x98000020 + d.toNat * 2097152 + a.toNat * 65536 + b.toNat * 2048))
  | .srd d s => some (BitVec.ofNat 32 (0x9C000000 + d.toNat * 2097152 + s.toNat * 16))
  | .swr d a s => some (BitVec.ofNat 32 (0x9C000001 + d.toNat * 2097152 + a.toNat * 65536 + s.toNat * 16))
  | .sset d a s => some (BitVec.ofNat 32 (0x9C000002 + d.toNat * 2097152 + a.toNat * 65536 + s.toNat * 16))
  | .sclr d a s => some (BitVec.ofNat 32 (0x9C000003 + d.toNat * 2097152 + a.toNat * 65536 + s.toNat * 16))
  | .scall c => some (BitVec.ofNat 32 (0x9C000004 + c.toNat * 16))
  | .mcall c => some (BitVec.ofNat 32 (0x9C000005 + c.toNat * 16))
  | .rets => some (BitVec.ofNat 32 (0x9C000006))
  | .retm => some (BitVec.ofNat 32 (0x9C000007))
  | .retu => some (BitVec.ofNat 32 (0x9C000008))
  | .idle => some (BitVec.ofNat 32 (0x9C000009))
  | .halt => some (BitVec.ofNat 32 (0x9C00000A))
  | .brk c => some (BitVec.ofNat 32 (0x9C00000B + c.toNat * 16))
  | .trapi a c => some (BitVec.ofNat 32 (0x9C00000C + a.toNat * 65536 + c.toNat * 16))
  | .xlinvS1 a => some (BitVec.ofNat 32 (0x9C00000D + a.toNat * 65536))
  | .xlinvS2 a => some (BitVec.ofNat 32 (0x9C20000D + a.toNat * 65536))
  | .nop => some (BitVec.ofNat 32 (0xA0000000))
  | .align w => some (BitVec.ofNat 32 (0xA0000010 + w.toNat))
  | .pref a k => some (BitVec.ofNat 32 (0xA0000020 + a.toNat * 65536 + k.toNat))
  | .spin => some (BitVec.ofNat 32 (0xA0000030))
  | .frmWrite _ _ _ => none
  | .fflagsAccess _ _ _ => none
  | .logbaseWrite _ _ _ _ => none
  | .spillbaseWrite _ _ _ _ => none
  | .hlaWrite _ _ _ => none
  | .winWrite _ _ _ _ => none
  | .blblWrite _ _ _ _ => none
  | .bfmtWrite _ _ _ _ => none
  | .gfflagsClear _ _ _ => none
  | .hnoteRead _ => none
  | .serrcpWrite _ _ => none
  | .sipndSoftWrite _ _ _ => none
  | .fstatWrite _ _ => none
  | .notify _ _ _ => none
  | .recctlGo _ => none
  | .recoveryImageFetched _ => none
  | .hostRegisterWrite _ _ _ => none
  | .tdispTransition _ _ => none
  | .getVersion _ => none
  | .getCapabilities _ => none
  | .negotiateAlgorithms _ => none
  | .getDigests _ => none
  | .getCertificate _ => none
  | .challenge _ => none
  | .getMeasurements _ => none
  | .keyExchange _ => none
  | .finish _ => none
  | .endSession _ => none
  | .identify _ => none
  | .resync _ => none
  | .signal _ => none
  | .note _ => none
  | .partGrant _ => none
  | .partReturn _ => none
  | .partConfig _ => none
  | .labelIntern _ => none
  | .rtLoad _ => none
  | .s2Root _ => none
  | .launch _ => none
  | .hartLaunchDispatch _ _ => none
  | .preempt _ => none
  | .preemptDeadline _ => none
  | .resume _ => none
  | .endLaunch _ => none
  | .policyAdd _ => none
  | .policyDel _ => none
  | .budgetSet _ => none
  | .scrubSet _ => none
  | .counters _ => none
  | .vfCreate _ => none
  | .vfDestroy _ => none
  | .vfConfig _ => none
  | .fwStage _ => none
  | .fwCommit _ => none
  | .errlogRead _ => none
  | .unknownCommand _ => none
  | .functionLevelReset _ => none
  | .packageReset => none
  | .boot _ => none
  | .domainAdmission _ => none
  | .hostModuleTraining _ => none
  | .linkFailure _ => none
  | .flitResend _ => none
  | .routeTimeout _ => none
  | .thermalTrip => none
  | .thermalRecovery => none
  | .issueQuantum _ => none
  | .groveFetch _ _ => none
  | .alignTimeout _ => none
  | .classLWriteback _ => none
  | .readRequest _ _ _ => none
  | .autoPublication _ _ => none
  | .recordApply _ _ => none
  | .recordAck _ _ => none
  | .recordResend _ _ => none
  | .logErrorDetected _ _ => none
  | .releaseCompletion _ => none
  | .acquireRequest _ _ => none
  | .atomicApply _ => none
  | .viewBufferExpiry _ => none
  | .acquiredEntryExpiry _ => none
  | .releaseTagExpiry => none
  | .egressCheck _ _ => none
  | .hostWriteReject _ _ => none
  | .replicaCollapse _ _ => none
  | .shadowCopy _ _ => none
  | .stage2Service _ _ _ => none
  | .xlinvCompletion _ => none
  | .bankZeroCompletion _ => none
  | .queueMessageArrival _ _ => none
  | .qstall _ => none
  | .leaseGrant _ => none
  | .grantPeriodExpiry _ => none
  | .mmaStart _ => none
  | .mmaCompletion _ => none
  | .mmaSuspend _ => none
  | .mscaleWord _ => none
  | .copySegment _ => none
  | .copyUnitApply _ => none
  | .copyrdUnitApply _ => none
  | .copyCompletion _ => none
  | .bfreeCombine _ _ => none
  | .taskRelease _ => none
  | .taskDispatch _ _ => none
  | .commitRequest _ => none
  | .commitRedecision _ _ => none
  | .commitReply _ => none
  | .taskCancel _ => none
  | .depsetApply _ => none
  | .counterDecrement _ => none
  | .canopyCheck _ => none
  | .backupStart _ _ _ => none
  | .contextRotation _ => none
  | .supervisorInterrupt => none
  | .eventEntry => none
  | .userInterrupt => none
  | .idleWake _ => none
  | .budgetPeriod => none
  | .energyTick _ _ => none
  | .scrubSector _ _ _ => none
  | .checkerMismatch _ _ => none
  | .unpinnableError _ _ => none
  | .spareSubstitution _ => none
  | .reservedEncoding _ => none
  | .groveFlagArrival _ => none
  | .routeReturn _ _ => none
  | .issueGating _ _ => none
  | .flrCompletion _ => none
  | .fwCommitCompletion => none
  | .substitutionCompletion _ => none

/-- The instruction that the decoder reads from a word numbered as spec/opcode_table.json numbers it. -/
noncomputable def decodeTableWord (nbits w : Nat) : Option Instr :=
  match decode (BitVec.ofNat 32 (w % 2 ^ nbits)) with
  | .ok i => some i
  | .error _ => none

end Sys2Proof
end

