-- ==== Sys2Proof/Machine/Fetch.lean ====
section
/-!
DEFINITION. Fetch through the grove port and the instruction buffer (01 R24, R25, R401, 17 R330, R331),
and the REPF frame (03 R61, R62).
-/

namespace Sys2Proof.Machine

/-- What a fetch gives: a word, a fault, or a wait for a held request. -/
inductive Got
  | word (w : IWord)
  | fault (c : Cause)
  | wait
  deriving DecidableEq, Repr

/-- The instruction-buffer block that holds an address for the acting hart. -/
def heldBlock (h : Hart) (a : Dword) : Option FetchBlock :=
  h.ibuf.find? fun b => b.addr == blockOf a && b.root == h.s1base && b.launch == h.launch.getD 0

/-- One sector of a block, or the cause that keeps it from being fetched (17 R330). -/
def fetchSector (s : State) (a : Dword) : State × Except Cause (List Byte) :=
  match addrFault s s.agent false true [(a, 32)] with
  | some _ => (s, .error .fetch)
  | none =>
    match readPart s needFetch a 32 with
    | (s, .ok (bs, _)) => (s, .ok bs)
    | (s, .error t) => (s, .error (if t.cause = .ecc then .ecc else .fetch))

/-- The fault of a fetched sector. -/
def sectorFault (r : Except Cause (List Byte)) : Option Cause :=
  match r with
  | .ok _ => none
  | .error c => some c

/-- The bytes of a fetched sector. -/
def sectorBytes (r : Except Cause (List Byte)) : List Byte :=
  match r with
  | .ok bs => bs
  | .error _ => List.replicate 32 0

/-- Whether a request is for a block under a launch's translation context (01 R24). -/
def FetchReq.is (r : FetchReq) (addr root : Dword) (launch : Nat) : Bool :=
  r.addr == addr && r.root == root && r.launch == launch

/-- The block that a hart's request names, in one spelling (01 R24, 11 R183): its S-space name or V-address, and the
translation context. -/
def FetchReq.block (s : State) (hart : Nat) (r : FetchReq) : Dword × Dword × Nat :=
  (normalise s (hart / 4) r.addr, r.root, r.launch)

/-- Change every hart the state lists. -/
def mapHarts (s : State) (f : Nat → Hart → Hart) : State :=
  { s with hart := f s.hgid s.hart, harts := s.harts.map fun p => (p.1, f p.1 p.2) }

/-- Whether ALIGN holds a request of hart k for a block, in the grove of a hart. -/
def holdsFor (s : State) (hart : Nat) (b : Dword × Dword × Nat) (k : Nat) (h : Hart) : Bool :=
  groveOf (k / 4) == groveOf (hart / 4) && h.fetch.any fun q => q.hold.isSome && q.block s k == b

/-- A request is made by a hart: the requests of its grove's other cores that ALIGN holds for the same block
are made with it, and, as those cores then request the block too, those of its own core (01 R25). A request that is
itself held is none yet (notes/assumptions/49.md). -/
def releaseHeld (s : State) (hart : Nat) (r : FetchReq) : State :=
  let b := r.block s hart
  let others := (knownHarts s).any fun k => k / 4 != hart / 4 && holdsFor s hart b k (getHart s k)
  mapHarts s fun k h =>
    if (k / 4 != hart / 4 || others) && holdsFor s hart b k h then
      { h with fetch := h.fetch.map fun q => { q with hold := none } }
    else h

/-- The acting hart requests a block its buffer does not hold (01 R24, R401); after ALIGN the request is held
until the bound passes, counted from now (07 R142). Another core's request for the block that was made before and
still waits at the port does not end the hold (DESIGN CHOICE: notes/assumptions/114.md). -/
def requestBlock (s : State) (a : Dword) : State :=
  let h := s.hart
  let r : FetchReq :=
    { addr := a, root := h.s1base, launch := h.launch.getD 0, hold := h.alignHold.map fun n => s.cycle + n }
  let s := { s with hart := { h with fetch := some r, alignHold := none } }
  if r.hold.isSome then s else releaseHeld s s.hgid r

/-- The request that a hart has made and the port has not served. -/
def Hart.asks (h : Hart) : Option FetchReq := h.fetch.filter fun r => r.hold.isNone

/-- The block of an address as the acting hart's load path delivers it (17 R330). -/
def readBlock (s : State) (a : Dword) : State × FetchBlock :=
  let (s, lo) := fetchSector s a
  let (s, hi) := fetchSector s (a + 32)
  (s, { addr := a, root := s.hart.s1base, launch := s.hart.launch.getD 0,
        bytes := BitVec.ofNat 512 (packLanes 8 ((sectorBytes lo ++ sectorBytes hi).map BitVec.toNat)),
        faultLo := sectorFault lo, faultHi := sectorFault hi })

/-- The buffered block that the last BRC asked to keep (07 R137). -/
def Hart.pinned (h : Hart) : Option FetchBlock := h.ibuf.find? fun o => h.keepBlock == some o.addr

/-- The block that stays beside a new one (01 R24): the one the last BRC asked to keep (07 R137), else the
one delivered last (DESIGN CHOICE: notes/assumptions/50.md). -/
def keptBlock (h : Hart) (a : Dword) : List FetchBlock :=
  (((h.pinned.filter fun o => o.addr != a).toList ++ h.ibuf.filter fun o => o.addr != a)).take 1

/-- A hart receives a block. A buffered block whose fault was never reported counts as fetched again when it
is replaced (17 R330, 19 R372 counter 15). A block kept for a BRC has been kept for it once (07 R137). -/
def Hart.receive (h : Hart) (b : FetchBlock) : Hart :=
  let kept := keptBlock h b.addr
  let gone := h.ibuf.filter fun o => o.addr != b.addr && !kept.contains o
  { h.dropFaults (h.ibuf.filter fun o => !kept.contains o) with
    ibuf := b :: kept
    keepBlock := if !gone.isEmpty && h.pinned.isSome then none else h.keepBlock
    fetch := none
    redirect := 0
    stall := none
    waitRoute := none }

/-- Another hart of the grove whose request is for the same block receives it in the same cycle (01 R24), as its
own load path delivers it (R401, 11 R227); not if that path must wait. -/
def joinBlock (s : State) (hart : Nat) : State :=
  let (t, b) := readBlock (focus s hart) (((getHart s hart).asks.map (·.addr)).getD 0)
  if t.away.isSome then s else { setHart s hart ((getHart s hart).receive b) with tick := t.tick }

/-- The harts but the acting one whose requests the port serves with a request of the acting hart: of its grove,
for the same block under the same context (01 R24). The rule speaks of requests of different cores in one cycle; those
of one core, and those made in an earlier cycle that still wait, are served together too (DESIGN CHOICE:
notes/assumptions/91.md). -/
def sameRequest (s : State) (a : Dword) : List Nat :=
  let r : FetchReq := { addr := a, root := s.hart.s1base, launch := s.hart.launch.getD 0, hold := none }
  (s.harts.map Prod.fst).eraseDups.filter fun k =>
    k != s.hgid && groveOf (k / 4) == groveOf s.cid &&
      (getHart s k).asks.any fun q => q.block s k == r.block s s.hgid

/-- The port delivers a block to the acting hart, and to every hart of the grove whose request is for the
same block under the same context (01 R24). -/
def deliverBlock (s : State) (a : Dword) : State :=
  let (t, b) := readBlock s a
  (sameRequest s a).foldl joinBlock { t with hart := t.hart.receive b }

/-- The harts of a core with a request that the port can serve: not one that waits for an unreachable
package (21 R391). -/
def askers (s : State) (core : Nat) : List Nat :=
  ((List.range 4).map fun i => core * 4 + i).filter fun h =>
    let x := getHart s h
    x.asks.isSome && !(x.waitRoute.any s.pk.unreachable.contains)

/-- The hart whose request the port of a grove serves next: round-robin by grove position, after the one
served last (01 R24); of several harts of a core the lowest-numbered, and a request whose block waits for Understory's
service of stage 2 (17 R339) keeps the port's turn (DESIGN CHOICE: notes/assumptions/91.md). -/
def portNext (s : State) (grove : Nat) : Option Nat :=
  let first := (getGrove s grove).port + 1
  ((List.range 16).map fun i => ((groveCores grove)[(first + i) % 16]?).getD 0).findSome? fun c =>
    (askers s c).head?

/-- The word of a block at an address. -/
def blockWord (b : FetchBlock) (a : Dword) : Got :=
  match if bits a 5 1 = 0 then b.faultLo else b.faultHi with
  | some c => .fault c
  | none => .word (BitVec.ofNat 32 (b.bytes.toNat / 2 ^ (8 * bits a 0 6)))

/-- Fetch the word at an address for the acting hart: the code bound first (17 R330), then the buffer;
otherwise the block is requested, and the hart waits for the port (01 R401). A block with a fault is fetched
again after the fault is reported; where the fault of an older class L instruction is taken in its place (17 R322), it
has not been reported. -/
def fetchAt (s : State) (a : Dword) : State × Got :=
  let h := s.hart
  if h.mode = .user ∧ ¬ (h.codeBase.toNat ≤ a.toNat ∧ a.toNat < h.codeBase.toNat + h.codeSize) then
    (s, .fault .codebound)
  else
    match heldBlock h a with
    | none =>
      if h.fetch.any (·.is (blockOf a) h.s1base (h.launch.getD 0)) then (s, .wait)
      else (requestBlock s (blockOf a), .wait)
    | some b =>
      match blockWord b a with
      | .fault c =>
        let without := fun (h : Hart) => { h with ibuf := h.ibuf.filter fun o => o.addr != b.addr }
        if windowsWait s then (s, .fault c)
        else if windowsFault s then (onHart s fun h => without (h.dropFaults [b]), .fault c)
        else (onHart s without, .fault c)
      | g => (s, g)

/-! ### Frames -/

/-- Whether a major opcode is allowed in a frame (03 R61). -/
def frameMajor (m : Nat) : Bool :=
  (1 ≤ m && m ≤ 9) || m == 0x0B || (0x19 ≤ m && m ≤ 0x1B) || (0x1D ≤ m && m ≤ 0x1F)

/-- Which of the fields d, a, b, c of a word name a register that REPF steps (03 R62, 09 R150). -/
def frameUses (w : IWord) : Bool × Bool × Bool × Bool :=
  match num w 26 6 with
  | 0x01 => (true, true, !(decide (23 ≤ num w 4 7) && decide (num w 4 7 ≤ 29)), false)
  | 0x02 | 0x03 | 0x04 | 0x05 | 0x06 | 0x07 => (true, true, false, false)
  | 0x08 => (true, false, false, false)
  | 0x09 => (true, true, decide (num w 6 5 < 13), false)
  | 0x0B | 0x1B => (true, true, true, true)
  | 0x19 => (!(decide (21 ≤ num w 0 6) && decide (num w 0 6 ≤ 24)), true, decide (num w 0 6 < 26), false)
  | 0x1A => (!(decide (10 ≤ num w 0 6) && decide (num w 0 6 ≤ 12)), true, decide (num w 0 6 < 13), false)
  | 0x1D =>
    let fn := num w 0 7
    if [0, 1, 2, 3, 4, 5, 6, 9, 12, 13].contains fn then (true, true, true, false)
    else if fn = 7 ∨ fn = 8 then (true, true, num w 7 1 == 1, false)
    else if fn = 10 ∨ fn = 11 then (true, true, false, false)
    else if fn = 14 ∨ fn = 19 ∨ fn = 20 then (true, false, false, false)
    else (false, false, false, false)
  | 0x1E =>
    let fn := num w 0 7
    if fn = 1 ∨ fn = 2 then (true, true, true, false)
    else if fn = 0 ∨ fn = 3 ∨ fn = 4 then (true, true, false, false)
    else if fn = 5 ∨ fn = 6 ∨ fn = 7 then (true, false, false, false)
    else if fn = 8 then (false, true, false, false)
    else (false, false, false, false)
  | 0x1F =>
    let fn := num w 0 4
    (true, true, fn == 2 || fn == 3 || fn == 4, false)
  | _ => (false, false, false, false)

/-- Step one 5-bit field of a word. -/
def stepField (w : IWord) (lo : Nat) (use : Bool) (by_ : Nat) : IWord :=
  if use then
    (w &&& ~~~(BitVec.ofNat 32 (31 * 2 ^ lo))) ||| BitVec.ofNat 32 ((num w lo 5 + by_) % 32 * 2 ^ lo)
  else w

/-- A captured word as it executes in iteration j (03 R62). -/
def stepWord (f : Frame) (w : IWord) : IWord :=
  let (d, a, b, c) := frameUses w
  stepField (stepField (stepField (stepField w 21 d (f.iter * f.sd.toNat)) 16 a (f.iter * f.sa.toNat))
    11 b (f.iter * f.sb.toNat)) 6 c (f.iter * f.sc.toNat)

/-- The word of a frame in progress. -/
def frameWord (f : Frame) : IWord := stepWord f ((f.words[f.pos]?).getD 0)

/-- Whether the acting hart is in the bubble of a transfer: its next instruction has not been delivered, though the
buffer holds its block (07 R136). -/
def bubbling (s : State) (h : Hart) : Bool := decide (s.cycle < h.redirect) && (heldBlock h h.pc).isSome

/-- What capturing words found. -/
inductive Captured
  | words (l : List IWord)
  | fault (c : Cause) (a : Dword)
  | wait
  deriving DecidableEq, Repr

/-- Capture n words from an address, checking each in order: code bound, fetch, error, major opcode
(03 R61). -/
def capture (s : State) (a : Dword) : Nat → List IWord → State × Captured
  | 0, acc => (s, .words acc)
  | n + 1, acc =>
    match fetchAt s a with
    | (s, .wait) => (s, .wait)
    | (s, .fault c) => (s, .fault c a)
    | (s, .word w) =>
      if frameMajor (num w 26 6) then capture s (a + 4) n (acc ++ [w]) else (s, .fault .frame a)

/-- REPF (03 R61, 07 R138): n and i hold the counts less one. -/
def execRepf (n : BitVec 4) (i : BitVec 8) (d a b c : BitVec 3) (s : State) :
    Host.Outcome State Fault Refusal :=
  match capture s (s.hart.pc + 4) (n.toNat + 1) [] with
  | (s, .wait) => ok (pause s)
  | (s, .fault q e) => ok (raise s q e)
  | (s, .words ws) =>
    ok (onHart s fun h =>
      { h.jump (h.pc + 4) with
        frame := some { words := ws, iters := i.toNat + 1, sd := d, sa := a, sb := b, sc := c, iter := 0,
                        pos := 0, base := h.pc } })

/-- Apply a function with another hart as the acting one. -/
def asHart (s : State) (hart : Nat) (f : State → State) : State :=
  if hart = s.hgid then f s else focus (f (focus s hart)) s.hgid

/-- GROVE_FETCH (01 R24, R401): the port serves the request whose turn it is, and remembers the position. A
block bound for an unreachable package makes the hart wait for the route (21 R391). -/
def execGroveFetch (hart : Nat) (addr : Dword) (s : State) : Host.Outcome State Fault Refusal :=
  let g := groveOf (hart / 4)
  if portNext s g = some hart ∧ (getHart s hart).asks.any (fun r => r.addr == addr) then
    let t := asHart (setGrove s g { getGrove s g with port := posInGrove (hart / 4) }) hart fun s =>
      deliverBlock s addr
    ok (match t.away with
      | some (.route p) => setHart s hart { getHart s hart with waitRoute := some p }
      | _ => t)
  else ok s

/-- ALIGN_TIMEOUT (07 R142): the wait bound of a held fetch request has passed, and the request is made. -/
def execAlignTimeout (hart : Nat) (s : State) : Host.Outcome State Fault Refusal :=
  let h := getHart s hart
  match h.fetch with
  | none => ok s
  | some r =>
    match r.hold with
    | none => ok s
    | some t =>
      let r := { r with hold := none }
      ok (releaseHeld { setHart s hart { h with fetch := some r, stall := none } with cycle := max s.cycle t }
        hart r)

end Sys2Proof.Machine
end

