-- ==== Sys2Proof/Machine/Queue.lean ====
section
/-!
DEFINITION. Receive queues, mailbox counters and the QOP instructions (13 R229 to R235, R259).
-/

namespace Sys2Proof.Machine

/-- The launch that occupies a core: the launch of a hart that is loaded on it (13 R229). -/
def coreLaunch (s : State) (core : Nat) : Option Nat :=
  ((List.range 4).filterMap fun i =>
    let h := getHart s (core * 4 + i)
    if h.run = .unloaded then none else h.launch).head?

/-- A receive queue of a core. -/
def queueAt (s : State) (core q : Nat) : List Message := ((getCore s core).queues[q]?).getD []

/-- The senders waiting at a queue. -/
def sendersAt (s : State) (core q : Nat) : List Message := ((getCore s core).senders[q]?).getD []

/-- Replace a receive queue. -/
def setQueue (s : State) (core q : Nat) (l : List Message) : State :=
  let c := getCore s core
  setCore s core { c with queues := c.queues.setIfInBounds q l }

/-- Replace the senders waiting at a queue. -/
def setSenders (s : State) (core q : Nat) (l : List Message) : State :=
  let c := getCore s core
  setCore s core { c with senders := c.senders.setIfInBounds q l }

/-- Whether a queue has an entry that is neither occupied nor assigned (13 R231). -/
def hasRoom (s : State) (core q : Nat) : Bool :=
  (queueAt s core q).length + (sendersAt s core q).length < 8

/-- Bind a q register. -/
def Hart.bind (h : Hart) (q : BitVec 4) (b : Binding) : Hart :=
  { h with q := h.q.setIfInBounds q.toNat b }

/-- The binding of a q register. -/
def Hart.binding (h : Hart) (q : BitVec 4) : Binding := (h.q[q.toNat]?).getD .none

/-- The checks of QBIND on a binding word, in order (13 R230): a binding or a cause. -/
def bindCheck (s : State) (w : Dword) : Except Cause Binding :=
  let kind := bits w 60 4
  let num : BitVec 4 := BitVec.ofNat 4 (bits w 32 4)
  let cgid : BitVec 20 := BitVec.ofNat 20 (bits w 0 20)
  if bits w 36 24 ≠ 0 ∨ bits w 20 12 ≠ 0 then .error .illegal
  else if kind = 1 then
    if cgid.toNat / 512 ≠ (cgidOf s s.cid).toNat / 512 then .error .diecross
    else if !inService s (cgid.toNat % 4096) then .error .addr
    else if !samePartition s s.cid (cgid.toNat % 4096) then .error .win
    else .ok (.send num cgid)
  else if cgid ≠ 0 then .error .illegal
  else if kind = 2 then .ok (.recv num)
  else if kind = 3 ∧ num.toNat < 8 then .ok (.port (BitVec.ofNat 3 num.toNat))
  else .error .illegal

/-- QBIND (13 R230). Messages pushed through an old send binding have all been accepted, since a push
completes only then. STVAL is the binding word, except for ILLEGAL (notes/assumptions/32.md). -/
def execQbind (q : BitVec 4) (a : Reg) (s : State) : Host.Outcome State Fault Refusal :=
  let w := s.hart.rx a
  if inTask s.hart ∧ 1 ≤ bits w 60 4 ∧ bits w 60 4 ≤ 3 then ok (raise s .taskctx 0)
  else
    match bindCheck s w with
    | .error .illegal => ok (illegal s)
    | .error c => ok (raise s c w)
    | .ok b => ok (onHart s fun h => (h.bind q b).retire)

/-- QUNBIND (13 R234). -/
def execQunbind (q : BitVec 4) (s : State) : Host.Outcome State Fault Refusal :=
  ok (onHart s fun h => (h.bind q .none).retire)

/-- Push a message (13 R231, R232): accepted at once, or waiting at the sender until an entry is assigned
to it, with which the push completes; after more than QLIMIT cycles it takes QSTALL. STVAL of the WIN of a
refused push is the target's CGID (DESIGN CHOICE: notes/assumptions/52.md). -/
def push (s : State) (q : BitVec 4) (data : VReg) (wide : Bool) : State :=
  if inTask s.hart then raise s .taskctx 0
  else
    match s.hart.binding q with
    | .send num cgid =>
      let t := cgid.toNat % 4096
      let n := num.toNat
      if s.hart.sendWait.isSome then
        let limit := bits s.core.qlimit 0 32
        if limit ≠ 0 ∧ s.hart.waitSince.any (fun c => c + limit < s.cycle) then
          raise s .qstall (q.setWidth 64)
        else stall s
      else if coreLaunch s t ≠ s.hart.launch then raise (countRefusal s t) .win (dw cgid.toNat)
      else
        let m : Message :=
          { data := data, wide := wide, label := hlaMask s, hart := s.hgid, qreg := q, error := false
            keeper := false, sess := none, launch := s.hart.launch, lidx := s.hart.lidx }
        if hasRoom s t n then onHart (setQueue s t n (queueAt s t n ++ [m])) Hart.retire
        else
          let s := setSenders s t n (sendersAt s t n ++ [m])
          stall { s with hart := { s.hart with sendWait := some (t * 16 + n, q) } }
    | _ => illegal s

/-- QPUSH (13 R234). -/
def execQpush (q : BitVec 4) (a : Reg) (s : State) : Host.Outcome State Fault Refusal :=
  ok (push s q ((s.hart.rx a).setWidth 512) false)

/-- QPUSHV (13 R234). -/
def execQpushv (q : BitVec 4) (a : Reg) (s : State) : Host.Outcome State Fault Refusal :=
  ok (push s q (s.hart.rv a) true)

/-- What a pop finds: nothing yet, an erroneous message (which is discarded), a message, or the value of a
mailbox counter (13 R231, R233, R234, R259). -/
inductive Popped
  | empty
  | error (s : State)
  | got (s : State) (data : VReg)

/-- Take the oldest message, or one from the counter, without waiting. A mailbox pop lets the core's loads
see what .rel commands have written: the view buffer is read anew (R259). -/
def pop (s : State) (b : Binding) : Popped :=
  match b with
  | .recv num =>
    match queueAt s s.cid num.toNat with
    | [] => .empty
    | m :: rest =>
      let s := setQueue s s.cid num.toNat rest
      if m.error then .error s else .got (widenHla s m.label) m.data
  | .port p =>
    let n := (s.core.mailbox[p.toNat]?).getD 0
    if n = 0 then .empty
    else
      .got { s with core := { s.core with
        mailbox := s.core.mailbox.setIfInBounds p.toNat (n - 1), view := [] } } (n.setWidth 512)
  | _ => .empty

/-- Whether QPOP takes a binding. -/
def popKind (b : Binding) : Bool :=
  match b with
  | .recv _ => true
  | .port _ => true
  | _ => false

/-- Whether QPOPV takes a binding. -/
def recvKind (b : Binding) : Bool :=
  match b with
  | .recv _ => true
  | _ => false

/-- The destination of a pop that took a doubleword or 64 bytes. -/
def popDest (r : Reg) (wide : Bool) (v : VReg) : Dest := if wide then .v r v else .x r (v.setWidth 64)

/-- The ECC trap `t` of a pop with no window, which has taken its message in error out of the queue. It waits for
outstanding class L instructions and gives way to the fault of one (17 R322), whose trap is `w`; the message stays till
then. -/
def popError (s w t : State) : State :=
  if windowsWait s then stall s
  else if windowsFault s then w
  else t

/-- QPOP and QPOPV (13 R234), class L: with a window a pop that finds nothing waits behind it, and without one
the hart waits. STVAL of the ECC of an erroneous message is the q register number (DESIGN CHOICE:
notes/assumptions/53.md). -/
def popInto (s : State) (q : BitVec 4) (r : Reg) (wide : Bool) (l : BitVec 4) : State :=
  match pop s (s.hart.binding q) with
  | .empty =>
    if s.hart.lookahead l = 0 then stall s
    else issueL s l (.pop (s.hart.binding q) q r wide) 0 false none
  | .error t =>
    if s.hart.lookahead l = 0 then popError s (raiseL s .ecc (q.setWidth 64)) (raiseL t .ecc (q.setWidth 64))
    else issueL t l (popDest r wide 0) 0 false (some ⟨.ecc, q.setWidth 64⟩)
  | .got s v => issueL s l (popDest r wide v) 0 false none

/-- QPOP (13 R234). -/
def execQpop (q : BitVec 4) (d : Reg) (l : BitVec 4) (s : State) : Host.Outcome State Fault Refusal :=
  if inTask s.hart then ok (raise s .taskctx 0)
  else if popKind (s.hart.binding q) then ok (popInto s q d false l)
  else ok (illegal s)

/-- QPOPV: VT is not applied (13 R234). -/
def execQpopv (q : BitVec 4) (d : Reg) (l : BitVec 4) (s : State) : Host.Outcome State Fault Refusal :=
  if inTask s.hart then ok (raise s .taskctx 0)
  else if recvKind (s.hart.binding q) then ok (popInto s q d true l)
  else ok (illegal s)

/-- Change a class L instruction in progress of the acting hart. -/
def Hart.setPend (h : Hart) (seq : Nat) (f : Pending → Pending) : Hart :=
  { h with pend := h.pend.map fun p => if p.seq = seq then f p else p }

/-- Let one pop that waits behind its window take its message, if it has come (13 R233, R234). -/
def arrivePop (s : State) (p : Pending) : State :=
  match p.dest with
  | .pop b q r wide =>
    match pop s b with
    | .empty => s
    | .error s => onHart s fun h => h.setPend p.seq fun p => { p with fault := some ⟨.ecc, q.setWidth 64⟩ }
    | .got s v => onHart s fun h => h.setPend p.seq fun p => { p with dest := popDest r wide v, out := false }
  | _ => s

/-- Let every pop that waits behind its window take its message, oldest first. -/
def arrivePops (s : State) : State := s.hart.pend.foldl arrivePop s

/-- QPOPT: pops without waiting, and x[rb] says whether it did (13 R234). -/
def execQpopt (q : BitVec 4) (d b : Reg) (s : State) : Host.Outcome State Fault Refusal :=
  let bd := s.hart.binding q
  if inTask s.hart then ok (raise s .taskctx 0)
  else if !popKind bd || (b == d && b != 0) then ok (illegal s)
  else
    match pop s bd with
    | .empty => ok (onHart s fun h => (h.wx b 0).retire)
    | .error t => ok (popError s (raiseWindow s) (raise t .ecc (q.setWidth 64)))
    | .got s v => ok (onHart s fun h => ((h.wx d (v.setWidth 64)).wx b 1).retire)

/-- QSTAT's value (13 R235). -/
def qstat (s : State) (q : BitVec 4) : Dword :=
  match s.hart.binding q with
  | .none => 0
  | .send num cgid =>
    let n := ((sendersAt s (cgid.toNat % 4096) num.toNat).filter fun m =>
      m.hart == s.hgid && m.qreg == q && !m.keeper).length
    dw (1 * 2 ^ 60 + min n 255 * 2 ^ 48 + num.toNat * 2 ^ 32 + cgid.toNat)
  | .recv num => dw (2 * 2 ^ 60 + min (queueAt s s.cid num.toNat).length 255 * 2 ^ 48 + num.toNat * 2 ^ 32)
  | .port p =>
    dw (3 * 2 ^ 60 + min ((s.core.mailbox[p.toNat]?).getD 0).toNat 255 * 2 ^ 48 + p.toNat * 2 ^ 32)

/-- QSTAT (13 R235). -/
def execQstat (q : BitVec 4) (d : Reg) (s : State) : Host.Outcome State Fault Refusal :=
  ok (onHart s fun h => (h.wx d (qstat s q)).retire)

/-- A word of the scale keeper is refused: MREF of the session its command ran in (13 R249). -/
def Hart.refuseWord (h : Hart) (sess : Option Nat) : Hart :=
  { h with lease := h.lease.map fun l => if sess = some l.id then { l with mref := true } else l }

/-- A word of the scale keeper is refused: the target counts it, and its session, which may be open in the hart or in a
context saved off it, has MREF (13 R231, R249). -/
def refuseKeeper (s : State) (core : Nat) (m : Message) : State :=
  let s := countRefusal s core
  let s := setHart s m.hart ((getHart s m.hart).refuseWord m.sess)
  match m.launch.bind (getLaunch s) with
  | some l => setLaunch s { l with contexts := l.contexts.map fun e => (e.1, e.2.refuseWord m.sess) }
  | none => s

/-- QUEUE_MESSAGE_ARRIVAL (13 R231): the oldest waiting message takes a freed entry, and its push completes;
or it is refused when its launch does not occupy the core: a refused push is executed again and raises WIN, a
refused MSCALE word is dropped and sets MREF (R249). -/
def execQueueMessageArrival (core q : Nat) (s : State) : Host.Outcome State Fault Refusal :=
  match sendersAt s core q with
  | [] => ok s
  | m :: rest =>
    let h := getHart s m.hart
    if coreLaunch s core ≠ m.launch then
      let s := setSenders s core q rest
      ok (if m.keeper then refuseKeeper s core m
        else setHart s m.hart { h with sendWait := none, stall := none })
    else if (queueAt s core q).length < 8 then
      let s := setQueue (setSenders s core q rest) core q (queueAt s core q ++ [m])
      ok (if m.keeper then s else setHart s m.hart h.retire)
    else ok s

/-- QSTALL (13 R232): a hart whose push has waited for more than QLIMIT cycles takes the trap. -/
def execQstall (hart : Nat) (s : State) : Host.Outcome State Fault Refusal :=
  let h := getHart s hart
  let limit := bits (getCore s (hart / 4)).qlimit 0 32
  match h.sendWait, h.waitSince with
  | some (_, q), some c =>
    if limit ≠ 0 ∧ c + limit < s.cycle then
      ok (asHart s hart fun s => raise s .qstall (q.setWidth 64))
    else ok s
  | _, _ => ok s

end Sys2Proof.Machine
end

