-- ==== Sys2Proof/Machine/Matrix.lean ====
section
/-!
DEFINITION. The matrix array (13 R236 to R250): lease sessions and grant periods, operand descriptors and
their checks, the chunk arithmetic of 05 R94 to R105, commands, suspension and resumption, and the scale
keeper.
-/

namespace Sys2Proof.Machine

/-! ### Lease sessions and grant periods (R236, R237) -/

/-- The grove key of a hart. -/
def hartGrove (hart : Nat) : Nat := groveOf (hart / 4)

/-- A hart's place in the round-robin order: grove position of its core, then hart number (R236). -/
def arrayOrder (hart : Nat) : Nat := posInGrove (hart / 4) * 4 + hart % 4

/-- The next waiter in round-robin order after a hart (R236). -/
def nextWaiter (last : Nat) (ws : List Nat) : Option Nat :=
  let dist := fun w => (arrayOrder w + 64 - arrayOrder last - 1) % 64
  ws.foldl (fun best w => match best with
    | none => some w
    | some b => if dist w < dist b then some w else some b) none

/-- Complete the hart's MLEASE windows: the grant has come. -/
def Hart.granted (h : Hart) : Hart :=
  { h with pend := h.pend.map fun p => if p.dest = .lease then { p with dest := .none } else p }

/-- Give the array to a hart (R236). -/
def grantTo (s : State) (grove hart : Nat) : State :=
  let g := getGrove s grove
  let s := setGrove s grove
    { g with
      holder := some hart
      lastHolder := hart
      periodStart := s.cycle
      periodCmds := 0
      waiters := g.waiters.filter fun w => w != hart }
  setHart s hart (getHart s hart).granted

/-- Pass a free array to the next waiter. -/
def passArray (s : State) (grove : Nat) : State :=
  let g := getGrove s grove
  match g.holder, nextWaiter g.lastHolder g.waiters with
  | none, some w => grantTo s grove w
  | _, _ => s

/-- End the grant period (R236): the same holder begins a new one when no other hart waits; otherwise the
array passes on and the holder rejoins the waiters. -/
def endPeriod (s : State) (grove : Nat) : State :=
  let g := getGrove s grove
  match g.holder with
  | none => s
  | some p =>
    let s := endHold s grove
    let g := getGrove s grove
    if g.waiters.isEmpty then
      setGrove s grove { g with holder := some p, periodStart := s.cycle, periodCmds := 0 }
    else passArray (setGrove s grove { g with waiters := g.waiters ++ [p] }) grove

/-- A new session (R247). -/
def Lease.open (id : Nat) : Lease :=
  { id := id, flags := 0, iov := false, mref := false, satc := 0, susp := none }

/-- Whether the instruction is being executed again after a wait. -/
def rewaiting (h : Hart) : Bool := h.waitSince.isSome

/-- Join the waiters; a free array with no other waiter is granted at once (R236). -/
def requestArray (s : State) : State :=
  let k := hartGrove s.hgid
  let g := getGrove s k
  if g.holder = some s.hgid then s
  else
    let s := setGrove s k { g with waiters := (g.waiters.filter fun w => w != s.hgid) ++ [s.hgid] }
    if g.holder.isNone ∧ g.waiters.isEmpty then grantTo s k s.hgid else s

/-- MLEASE (R250): opens a session and requests a grant; no effect when a session is open (R237). -/
def execMlease (l : BitVec 4) (s : State) : Host.Outcome State Fault Refusal :=
  if s.hart.lease.isSome ∧ !rewaiting s.hart then ok (issueL s l .none 0 false none)
  else
    let s :=
      if s.hart.lease.isSome then s
      else
        let (n, s) := draw s
        requestArray { s with hart := { s.hart with lease := some (Lease.open n) } }
    if (getGrove s (hartGrove s.hgid)).holder = some s.hgid then ok (issueL s l .none 0 false none)
    else if s.hart.lookahead l = 0 then ok (stall s)
    else ok (issueL s l .lease 0 false none)

/-- MRELS (R250, R248). -/
def execMrels (s : State) : Host.Outcome State Fault Refusal :=
  ok (onHart (passArray (closeLease s s.hgid) (hartGrove s.hgid)) Hart.retire)

/-- LEASE_GRANT (R236): a free array passes to the next waiting hart. -/
def execLeaseGrant (grove : Nat) (s : State) : Host.Outcome State Fault Refusal := ok (passArray s grove)

/-- GRANT_PERIOD_EXPIRY (R236): 65,536 cycles since the grant period began. -/
def execGrantPeriodExpiry (grove : Nat) (s : State) : Host.Outcome State Fault Refusal :=
  let g := getGrove s grove
  if g.holder.isSome then ok (endPeriod { s with cycle := max s.cycle (g.periodStart + 65536) } grove)
  else ok s

/-! ### Operands (R238, R239) -/

/-- An operand resolved at issue: place, extents, format, side table and load conversion. -/
structure Operand where
  addr : Dword
  stride : Nat
  rows : Nat
  k : Nat
  et : Nat
  mx : Bool
  g : Nat
  side : Dword
  lfmt : Nat
  lcv : Bool
  acq : Bool
  slice : Bool
  deriving DecidableEq, Repr

/-- Whether an address is in S-space, the alias included. -/
def inSlice (s : State) (core : Nat) (e : Dword) : Bool :=
  match formOf s core e with
  | .slice _ _ => true
  | _ => false

/-- The BFMT word of the bank that holds a slice address, 0 for any other address (R240). -/
def formatAt (s : State) (core : Nat) (e : Dword) : Dword :=
  match formOf s core e with
  | .slice c off => ((getCore s (c.toNat % 4096)).bfmt[bankOf off]?).getD 0
  | _ => 0

/-- An address of the slice that holds `e`, at another offset. -/
def sameSlice (s : State) (core : Nat) (e : Dword) (off : Nat) : Dword :=
  match formOf s core e with
  | .slice c _ => sAddress c off
  | _ => e

/-- Resolve an operand descriptor with the format word of its bank (R238, R239). -/
def operandOf (s : State) (core : Nat) (d : BitVec 256) (bf : Dword) : Operand :=
  let addr := dw (dbits d 0 64)
  let sl := inSlice s core addr
  { addr := addr
    stride := dbits d 64 32
    rows := dbits d 96 16
    k := dbits d 128 24
    et := if sl then bits bf 0 4 else dbits d 152 4
    mx := if sl then bit bf 4 else dbits d 156 1 == 1
    g := if sl then bits bf 5 2 else dbits d 157 2
    side := if sl then sameSlice s core addr (bits bf 34 17 * 4) else dw (dbits d 192 64)
    lfmt := dbits d 160 4
    lcv := dbits d 164 1 == 1
    acq := dbits d 159 1 == 1
    slice := sl }

/-- Whether the operand holds q codes. -/
def Operand.isQ (o : Operand) : Bool := (o.et == 14 || o.et == 15) && !o.mx

/-- The group size of a G code (R238). -/
def groupSize (g : Nat) : Nat := 32 * 2 ^ g

/-- Bytes of a side-table entry, 0 when there is no table (05 R97). -/
def Operand.entry (o : Operand) : Nat := if o.isQ then 4 else if o.mx then 1 else 0

/-- Groups or blocks along K (05 R97). -/
def Operand.groups (o : Operand) : Nat := if o.isQ then o.k / groupSize o.g else o.k / 32

/-- Bytes of one row. -/
def Operand.rowBytes (o : Operand) : Nat := o.k * elemWidth o.et / 8

/-- The classes of operand formats that R101 pairs. -/
inductive FmtClass
  | f16 | b16 | f8 | mx8 | mx4 | q | s8
  deriving DecidableEq, Repr

/-- The class of an unscaled element type, none for one no pair accepts (05 R101). -/
def etClass (et : Nat) : Option FmtClass :=
  match et with
  | 0 => some .s8
  | 4 => some .s8
  | 8 => some .f16
  | 9 => some .b16
  | 12 => some .f8
  | 13 => some .f8
  | 14 => some .q
  | 15 => some .q
  | _ => none

/-- The class of an operand after load conversion, none for a format no pair accepts (R239, 05 R101). -/
def Operand.cls (o : Operand) : Option FmtClass :=
  if o.lcv then if o.mx || !([8, 9, 10, 12, 13].contains o.et) then none else etClass o.lfmt
  else if o.mx then
    if o.et = 12 ∨ o.et = 13 then some .mx8 else if o.et = 15 then some .mx4 else none
  else etClass o.et

/-- The pairings of 05 R101: plain float, MX, q, integer. -/
inductive PairKind
  | plain | mx | q | int
  deriving DecidableEq, Repr

/-- An accepted pair: its kind and its chunk along K (05 R101). -/
structure Pairing where
  kind : PairKind
  chunk : Nat
  deriving DecidableEq, Repr

/-- The pairing of two operands, or the reason code that refuses it (05 R101, 13 R241). -/
def pairing (a b : Operand) : Except Nat Pairing :=
  match a.cls, b.cls with
  | some .q, some .q => if a.g = b.g then .ok ⟨.q, groupSize a.g⟩ else .error 5
  | some .q, some .b16 => .ok ⟨.q, groupSize a.g⟩
  | some .b16, some .q => .ok ⟨.q, groupSize b.g⟩
  | some .f16, some .f16 => .ok ⟨.plain, 32⟩
  | some .b16, some .b16 => .ok ⟨.plain, 32⟩
  | some .f8, some .f8 => .ok ⟨.plain, 64⟩
  | some .mx8, some .mx8 => .ok ⟨.mx, 64⟩
  | some .mx4, some .mx4 => .ok ⟨.mx, 32⟩
  | some .s8, some .s8 => .ok ⟨.int, 64⟩
  | _, _ => .error 1

/-! ### Checks at issue (R241) -/

/-- Whether n bytes at an address lie in the own slice of the acting hart, where it may read them. -/
def ownBlock (s : State) (e : Dword) (n : Nat) : Option Nat :=
  match formOf s s.cid e with
  | .slice c off =>
    if c = cgidOf s s.cid ∧ (addrCheck s s.agent false true e n).isNone then some off else none
  | _ => none

/-- Read n bytes of the own slice as a number. -/
def readOwn (s : State) (off n : Nat) : Nat := memRead s.mem (sliceKey s.cid off) n

/-- The checks on a list of own-slice blocks: all ADDR checks, then all ALIGN checks (R241, steps 3 and
4), then an uncorrectable error. -/
def blockFault (s : State) (es : List Dword) (n : Nat) : Option Trap :=
  match es.find? fun e => (ownBlock s e n).isNone with
  | some e => some ⟨.addr, e⟩
  | none =>
    match es.find? fun e => e.toNat % n != 0 with
    | some e => some ⟨.align, e⟩
    | none =>
      (es.find? fun e => isMarked s (sliceKey s.cid ((ownBlock s e n).getD 0))).map fun e => ⟨.ecc, e⟩

/-- Rows 1 to 7 of 11 R184 for a whole range (R241 step 5, R253 step 5). `die` keeps it on the issuing
core's die. -/
def rangeFault (s : State) (write die : Bool) (e : Dword) (n : Nat) : Option Trap :=
  match addrCheck s s.agent write die e n with
  | some c => some ⟨c, e⟩
  | none =>
    match formOf s s.cid e with
    | .slice c _ => if samePartition s s.cid (c.toNat % 4096) then none else some ⟨.win, e⟩
    | _ => none

/-- The ranges an operand reads: its rows and its side table (R241 step 5). -/
def Operand.ranges (o : Operand) : List (Dword × Nat) :=
  (o.addr, (max o.rows 1 - 1) * o.stride + max o.rowBytes 1) ::
    if o.entry = 0 ∨ (!o.slice ∧ o.side = 0) then []
    else [(o.side, max 1 (max o.rows 1 * o.groups * o.entry))]

/-- The first failing range of a list. -/
def firstRange (s : State) : List (Dword × Nat) → Option Trap
  | [] => none
  | (e, n) :: l =>
    match rangeFault s false true e n with
    | some t => some t
    | none => firstRange s l

/-- Whether a range of a slice lies in banks of one format: ET, MX and G agree (R239). -/
def oneFormat (s : State) (core : Nat) (bf : Dword) (e : Dword) (n : Nat) : Bool :=
  match formOf s core e with
  | .slice c off =>
    (List.range ((off + n - 1) / 0x8000 + 1)).all fun b =>
      decide (b < off / 0x8000) ||
        bits (((getCore s (c.toNat % 4096)).bfmt[b]?).getD 0) 0 7 == bits bf 0 7
  | _ => true

/-- The reasons of R241 that concern one operand. `d` is its descriptor. -/
def operandReasons (s : State) (core : Nat) (d : BitVec 256) (bf : Dword) (o : Operand) : List Nat :=
  let reserved := dbits d 112 16 != 0 || dbits d 165 27 != 0
  let table := if o.slice then dbits d 152 7 != 0 || dbits d 192 64 != 0
    else if o.entry = 0 then o.side != 0 else o.side == 0
  let shape := o.stride % 16 != 0 || decide (o.stride < o.rowBytes) || decide (o.rows < 16) ||
    decide (128 < o.rows) || o.rows % 16 != 0 || (!o.slice && o.g == 3)
  let conv := o.lcv && !([8, 9, 12, 13].contains o.lfmt)
  (if reserved || table || shape || conv then [6] else []) ++
    if o.slice && !(o.ranges.all fun r => oneFormat s core bf r.1 r.2) then [4] else []

/-- The reasons that concern the pair and the tile (R241): rows, columns and whether it is s32. Every q pair
accumulates in f32 (05 R101), whatever its groups. G = 3 names no chunk, so K is not judged against one: it is reason
6 alone. -/
def pairReasons (a b : Operand) (tile : Option (Nat × Nat × Bool)) : List Nat :=
  let pr := pairing a b
  let chunk := match pr with
    | .ok p => if p.kind = .q ∧ (a.g = 3 ∨ b.g = 3) then 1 else p.chunk
    | .error _ => 1
  (match pr with
    | .error r => [r]
    | .ok _ => []) ++
  (if a.k ≠ b.k ∨ a.k = 0 ∨ a.k % chunk ≠ 0 then [2] else []) ++
  (match tile with
    | none => []
    | some (r, c, ty) =>
      let wrong : Bool := match pr with
        | .ok p => decide (p.kind = .int) != ty
        | .error r => r == 5 && ty
      if a.rows ≠ r ∨ b.rows ≠ c ∨ wrong then [3] else [])

/-- The least of a list of reason codes. -/
def leastReason : List Nat → Option Nat
  | [] => none
  | r :: l => some (l.foldl min r)

/-- Steps 5 and 6 of R241 on two descriptors. -/
def operandFault (s : State) (da db : BitVec 256) (fa fb : Dword) (tile : Option (Nat × Nat × Bool)) :
    Option Trap :=
  let a := operandOf s s.cid da fa
  let b := operandOf s s.cid db fb
  match firstRange s (a.ranges ++ b.ranges) with
  | some t => some t
  | none =>
    (leastReason (operandReasons s s.cid da fa a ++ operandReasons s s.cid db fb b ++
      pairReasons a b tile)).map fun r => ⟨.mfmt, dw r⟩

/-! ### Chunk arithmetic (05 R94 to R104) -/

/-- One row of an operand over one chunk: element values, E8M0 scales of its blocks, the q scale, the
number of saturated load conversions. -/
structure RowData where
  vals : List FVal
  exps : List Nat
  scale : Option FVal
  sat : Nat
  deriving DecidableEq, Repr

/-- The n codes of w bits in a run of bytes, even codes low (05 R98). -/
def codesOf (w n : Nat) (bs : List Byte) : List Nat :=
  let v := ofBytes bs
  (List.range n).map fun i => v / 2 ^ (w * i) % 2 ^ w

/-- The value of an element and whether its load conversion saturated (R239, 05 R78, R94). `z` is the
zero point of a q group. A signalling NaN that is converted on load enters the chunk as the quiet canonical
NaN of 05 R91, so it sets no NV there (DESIGN CHOICE: notes/assumptions/46.md). -/
def Operand.value (o : Operand) (z c : Nat) : FVal × Bool :=
  if o.isQ then (.fin (decide (c < z)) (if c < z then z - c else c - z) 0, false)
  else if o.et = 0 then (.fin (decide (sval 8 c < 0)) (sval 8 c).natAbs 0, false)
  else if o.et = 4 then (.fin false c 0, false)
  else if o.mx ∧ o.et = 15 then (Fmt.e2m1.val c, false)
  else if o.lcv then
    let t := Fmt.ofElem o.lfmt
    let (r, _, sat) := fToFSat t .rne ((Fmt.ofElem o.et).val c)
    (t.val r, sat)
  else ((Fmt.ofElem o.et).val c, false)

/-- A row's data from its element bytes and its side-table bytes. -/
def Operand.rowData (o : Operand) (n : Nat) (bs side : List Byte) : RowData :=
  let z := ((side[2]?).getD 0).toNat % (if o.et = 15 then 16 else 256)
  let vs := (codesOf (elemWidth o.et) n bs).map (o.value z)
  { vals := vs.map Prod.fst
    exps := if o.mx then side.map BitVec.toNat else []
    scale := if o.isQ then some (Fmt.f16.val (ofBytes (side.take 2))) else none
    sat := (vs.filter Prod.snd).length }

/-- A value times a power of two. -/
def FVal.shift (v : FVal) (k : Int) : FVal :=
  match v with
  | .fin n m e => .fin n m (e + k)
  | v => v

/-- The block scale exponents of the elements of a chunk: eA + eB - 254 (05 R102). -/
def blockShift (a b : RowData) (i : Nat) : Int :=
  ((a.exps[i / 32]?).getD 127 : Nat) + ((b.exps[i / 32]?).getD 127 : Nat) - 254

/-- Whether a value is a negative zero. -/
def FVal.isNegZero (v : FVal) : Bool :=
  match v with
  | .fin true 0 _ => true
  | _ => false

/-- Whether a value is finite. -/
def FVal.isFin (v : FVal) : Bool :=
  match v with
  | .fin _ _ _ => true
  | _ => false

/-- The exact sum of finite values; an exact zero is negative only when every term is −0 (05 R102). -/
def exactSum (l : List FVal) : FVal :=
  let (v, q) := sumTerms (finTerms l)
  .fin (if v = 0 then l.all FVal.isNegZero else decide (v < 0)) v.natAbs q

/-- The q scale of a chunk: the product of the scales that there are (05 R104). -/
def chunkScale (a b : RowData) : Option (FVal × Bool) :=
  match a.scale, b.scale with
  | some x, some y => some (mulVals x y)
  | some x, none => some (x, false)
  | none, some y => some (y, false)
  | none, none => none

/-- Round an exact value to f32 once (05 R102). -/
def roundF32 (v : FVal) : Nat × Flags :=
  match v with
  | .nan _ => (Fmt.f32.nan, 0)
  | .inf n => (Fmt.f32.signed n Fmt.f32.infCode, 0)
  | .fin n m e => deliver Fmt.f32 .rne n m e false

/-- The sum of a chunk's products before any q scale, with NV (05 R102, R103). -/
def chunkSum (mx : Bool) (a b : RowData) : FVal × Flags :=
  let ps := List.zipWith mulVals a.vals b.vals
  let vs := ps.map Prod.fst
  let bad := ps.any Prod.snd
  let sig := (a.vals ++ b.vals).any fun v => v == .nan true
  let pos := vs.any fun v => v == .inf false
  let neg := vs.any fun v => v == .inf true
  let full := mx && (a.exps ++ b.exps).any fun e => e == 255
  let nv : Flags := if bad || sig || (pos && neg) then flagNV else 0
  if vs.any FVal.isNan || full || (pos && neg) then (.nan false, nv)
  else if pos then (.inf false, nv)
  else if neg then (.inf true, nv)
  else if mx then (exactSum (vs.mapIdx fun i v => v.shift (blockShift a b i)), nv)
  else (exactSum vs, nv)

/-- t, or term, of a chunk as an f32 code, with its flags (05 R102 to R104). Where a q scale is zero and P or E is
not, the zero that comes of their product has the exclusive or of their signs (DESIGN CHOICE:
notes/assumptions/107.md). -/
def chunkTerm (mx : Bool) (a b : RowData) : Nat × Flags :=
  let (p, nv) := chunkSum mx a b
  match chunkScale a b with
  | none =>
    let (t, fl) := roundF32 p
    (t, nv ||| fl)
  | some (sc, bad) =>
    let zero := match p with
      | .fin _ 0 _ => true
      | _ => false
    if zero && sc.isFin then (0, nv)
    else
      let (v, bad') := mulVals sc p
      let sig := a.scale == some (.nan true) || b.scale == some (.nan true)
      let (t, fl) := roundF32 v
      (t, nv ||| fl ||| (if bad || bad' || sig then flagNV else 0))

/-- The exact sum of an integer chunk (05 R104). -/
def chunkInt (a b : RowData) : Int :=
  (sumTerms (finTerms (List.zipWith (fun x y => (mulVals x y).1) a.vals b.vals))).1

/-- chunk_update: the new accumulator, flags, and integer overflow (05 R102 to R104). -/
def chunkUpdate (kind : PairKind) (acc : Nat) (a b : RowData) : Nat × Flags × Bool :=
  match kind with
  | .int =>
    let v := sval 32 acc + chunkInt a b
    (wrapInt 32 v, 0, decide (v < -2 ^ 31 ∨ 2 ^ 31 ≤ v))
  | k =>
    let (t, fl) := chunkTerm (k == .mx) a b
    let (r, fl') := fAdd Fmt.f32 .rne acc t
    (r, fl ||| fl', false)

/-! ### Running a command -/

/-- The agent of a command's reads. -/
def ArrayCmd.agent (c : ArrayCmd) : Agent :=
  { core := c.hart / 4, mode := if c.user then .user else .supervisor, root := c.root,
    launch := some c.launch }

/-- Read one row over one chunk with its side-table entries (R238, 05 R97): row r, elements from `start`
on, n of them. -/
def readRow (s : State) (ag : Agent) (o : Operand) (r start n : Nat) :
    State × Except Trap (RowData × Mask) :=
  let w := elemWidth o.et
  match engineBytes s ag (o.addr + dw (r * o.stride + start * w / 8)) (n * w / 8) with
  | (s, .error t) => (s, .error t)
  | (s, .ok (bs, m)) =>
    if o.entry = 0 then (s, .ok (o.rowData n bs [], m))
    else
      let unit := if o.isQ then groupSize o.g else 32
      let cnt := if o.isQ then 1 else n / 32
      match engineBytes s ag (o.side + dw (o.entry * (r * o.groups + start / unit))) (o.entry * cnt) with
      | (s, .error t) => (s, .error t)
      | (s, .ok (sb, m')) => (s, .ok (o.rowData n bs sb, m ||| m'))

/-- What a running command has done so far. -/
structure RunAcc where
  s : State
  label : Mask
  flags : Flags
  iov : Bool
  sat : Nat

/-- Add what a row brought. -/
def RunAcc.read (a : RunAcc) (s : State) (d : RowData) (m : Mask) : RunAcc :=
  { a with s := s, label := a.label ||| m, sat := a.sat + d.sat }

/-- Read rows of the B operand for a chunk, in ascending order. -/
def readCols (ag : Agent) (o : Operand) (start n : Nat) :
    List Nat → RunAcc → RunAcc × Except Trap (List RowData)
  | [], a => (a, .ok [])
  | j :: l, a =>
    match readRow a.s ag o j start n with
    | (s, .error t) => ({ a with s := s }, .error t)
    | (s, .ok (d, m)) =>
      match readCols ag o start n l (a.read s d m) with
      | (a, .error t) => (a, .error t)
      | (a, .ok ds) => (a, .ok (d :: ds))

/-- Update the elements of one row of the tile, from a key on (R244). -/
def updateRow (kind : PairKind) (d : RowData) : Nat → List RowData → RunAcc → RunAcc
  | _, [], a => a
  | key, b :: l, a =>
    let (v, fl, ov) := chunkUpdate kind (memRead a.s.mem key 4) d b
    updateRow kind d (key + 4) l
      { a with
        s := { a.s with mem := memWrite a.s.mem key 4 v }
        flags := a.flags ||| fl
        iov := a.iov || ov }

/-- Apply a chunk to a list of rows; the row at which a read faulted, if any (R244, R248). -/
def runRows (ag : Agent) (kind : PairKind) (o : Operand) (cols : List RowData) (start n key width : Nat) :
    List Nat → RunAcc → RunAcc × Option (Nat × Trap)
  | [], a => (a, none)
  | i :: l, a =>
    match readRow a.s ag o i start n with
    | (s, .error t) => ({ a with s := s }, some (i, t))
    | (s, .ok (d, m)) =>
      runRows ag kind o cols start n key width l
        (updateRow kind d (key + i * width) cols (a.read s d m))

/-- Apply chunks in ascending order, the first of them from row `row` on; chunk, row and fault where the
command is suspended, if it is (R244, R248). -/
def runChunks (ag : Agent) (p : Pairing) (oa ob : Operand) (key rows cols : Nat) :
    List Nat → Nat → RunAcc → RunAcc × Option (Nat × Nat × Trap)
  | [], _, a => (a, none)
  | c :: l, row, a =>
    match readCols ag ob (c * p.chunk) p.chunk (List.range cols) a with
    | (a, .error t) => (a, some (c, row, t))
    | (a, .ok bs) =>
      match runRows ag p.kind oa bs (c * p.chunk) p.chunk key (cols * 4)
          ((List.range rows).drop row) a with
      | (a, some (i, t)) => (a, some (c, i, t))
      | (a, none) => runChunks ag p oa ob key rows cols l 0 a

/-- The operands of a command. -/
def ArrayCmd.operands (s : State) (c : ArrayCmd) (a b : BitVec 256) : Operand × Operand :=
  (operandOf s (c.hart / 4) a ((c.bfmt[0]?).getD 0), operandOf s (c.hart / 4) b ((c.bfmt[1]?).getD 0))

/-- What running a command comes to: the progress at which it is suspended with its fault, none when it
is done, and its multiply-accumulates. -/
structure RunResult where
  acc : RunAcc
  stop : Option (Nat × Nat × Trap)
  macs : Nat

/-- Run an MMA from where it stands, or an MZERO (R244, R248, R250). An MSCALE advances by words. -/
def runCommand (s : State) (c : ArrayCmd) : RunResult :=
  let a0 : RunAcc := { s := s, label := 0, flags := 0, iov := false, sat := 0 }
  let rows := tileRows c.tile
  let cols := tileCols c.tile
  let key := sliceKey (c.hart / 4) (tileOff c.tile)
  match c.op with
  | .mma _ da db =>
    let (a, b) := c.operands s da db
    match pairing a b with
    | .error _ => { acc := a0, stop := none, macs := 0 }
    | .ok p =>
      let (r, stop) := runChunks c.agent p a b key rows cols
        ((List.range (a.k / p.chunk)).drop c.chunk) c.row a0
      { acc := r, stop := stop, macs := rows * cols * a.k }
  | .zero _ =>
    { acc := { a0 with s := { s with mem := memZero s.mem key (key + rows * cols * 4) } }
      stop := none, macs := 0 }
  | .scale .. => { acc := a0, stop := none, macs := 0 }

/-- Whether a hart still is in the context that issued a command. -/
def ArrayCmd.current (c : ArrayCmd) (h : Hart) : Bool := h.launch == some c.launch && h.lidx == c.lidx

/-- Set a tile register's label, if the register still is the one the command named (R243). -/
def setTileLabel (s : State) (c : ArrayCmd) (z : BitVec 3) (f : State → Lsid → State × Lsid) : State :=
  let h := getHart s c.hart
  match (h.z[z.toNat]?).getD none with
  | some t =>
    if c.current h ∧ t.word = c.tile then
      let (s, l) := f s t.lsid
      let h := getHart s c.hart
      setHart s c.hart { h with z := h.z.setIfInBounds z.toNat (some { t with lsid := l }) }
    else s
  | none => s

/-- The banks a run of slice bytes touches. -/
def banksOf (r : Run) : List Nat :=
  (List.range ((r.1 + r.2 - 1) / 0x8000 + 1)).filter fun b => r.1 / 0x8000 ≤ b

/-- Widen the label of every bank of a run. -/
def widenBanks (s : State) (launch : Option Nat) (core : Nat) (m : Mask) : List Nat → State
  | [] => s
  | b :: l => widenBanks (widenBank s launch core b m) launch core m l

/-- Change the lease session that a command was issued in, if it is still open (R247). -/
def onSession (s : State) (c : ArrayCmd) (f : Lease → Lease) : State :=
  let h := getHart s c.hart
  setHart s c.hart { h with lease := h.lease.map fun l => if some l.id = c.sess then f l else l }

/-- Enter what a run read and raised: the tile's and its banks' labels (R243), the session's status
(R247, 05 R105) and GFFLAGS (05 R90). -/
def recordRun (c : ArrayCmd) (z : BitVec 3) (a : RunAcc) : State :=
  let handle := handleAt a.s (c.hart / 4)
  let s := if a.label = 0 then a.s
    else
      let s := setTileLabel a.s c z fun s l => unionLabel s handle (some c.launch) l a.label
      widenBanks s (some c.launch) (c.hart / 4) a.label (banksOf (tileRun c.tile))
  let s := onSession s c fun l =>
    { l with flags := l.flags ||| a.flags, iov := l.iov || a.iov, satc := min 65535 (l.satc + a.sat) }
  flagsToGrove s (hartGrove c.hart) (arrayFlags a.flags a.iov)

/-- Credit multiply-accumulates to the issuing hart (15 R303). A command of a task is credited also when its hart
runs tasks of another launch by then, as RWC goes on from task to task (15 R279), and its tenant counts the work
(19 R372). That of a context that has ended is counted for the tenant only. -/
def creditMacs (s : State) (c : ArrayCmd) (macs : Nat) : State :=
  let h := getHart s c.hart
  let n := h.macRem + macs
  let credited := { h with rwc := h.rwc + dw (n / 16384), macRem := n % 16384 }
  if c.current h then setHart s c.hart { credited with perf := bump h.perf 3 (n / 16384) }
  else
    let carries := c.task && h.tasks
    let s := if carries then setHart s c.hart credited else s
    match tenantOf s (c.hart / 4) with
    | some t => countTenant s t 3 (if carries then n / 16384 else macs / 16384)
    | none => s

/-- Whether a command's hart has an earlier one that is not in the queue, behind which it stays queued: one suspended
(R248), or one that was saved with the context and is not back yet (R246, R266). -/
def heldBehind (s : State) (c : ArrayCmd) : Bool :=
  let h := getHart s c.hart
  c.current h && (!h.parked.isEmpty || h.lease.any fun l => l.susp.isSome)

/-- The command the array takes next, in acceptance order (R246). -/
def nextCommand (s : State) (g : Grove) : Option ArrayCmd := g.queue.find? fun c => !heldBehind s c

/-- Whether the release that a command's .acq asked for has completed (11 R214). -/
def acqDone (s : State) (c : ArrayCmd) : Bool :=
  match c.rel with
  | some st => !isForming (getCore s (c.hart / 4)) st
  | none => true

/-- Put commands of a hart before its first command in a queue, at the end when it has none. -/
def requeueCommands (hart : Nat) (cs : List ArrayCmd) : List ArrayCmd → List ArrayCmd
  | [] => cs
  | d :: l => if d.hart = hart then cs ++ d :: l else d :: requeueCommands hart cs l

/-- A hart's commands that were saved with its context, and are not behind a suspended one, stand in the array's
queue again when there is room: after those accepted before, and before what the hart has issued since (R246,
R266). -/
def unpark (s : State) (hart : Nat) : State :=
  let h := getHart s hart
  let k := hartGrove hart
  let g := getGrove s k
  if h.parked.isEmpty ∨ h.run = .unloaded ∨ h.lease.any (fun l => l.susp.isSome) ∨ 8 < g.queue.length + h.parked.length then s
  else setGrove (setHart s hart { h with parked := [] }) k { g with queue := requeueCommands hart h.parked g.queue }

/-- The saved commands of a list of harts stand in their queues again. -/
def unparkAll (s : State) : List Nat → State
  | [] => s
  | h :: l => unparkAll (unpark s h) l

/-- The listed harts of a grove. -/
def groveHarts (s : State) (grove : Nat) : List Nat := (knownHarts s).filter fun h => hartGrove h == grove

/-- MMA_START (R246): the array starts the next accepted command; it moves to the head of the queue. -/
def execMmaStart (grove : Nat) (s : State) : Host.Outcome State Fault Refusal :=
  if (getGrove s grove).running then ok s
  else
    let s := unparkAll s (groveHarts s grove)
    let g := getGrove s grove
    match nextCommand s g with
    | some c =>
      if acqDone s c then
        ok (setGrove s grove { g with running := true, queue := c :: g.queue.erase c })
      else ok s
    | none => ok s

/-- The command that runs. -/
def runningCommand (g : Grove) : Option ArrayCmd := if g.running then g.queue.head? else none

/-- The running command leaves the array. -/
def leaveArray (s : State) (grove : Nat) : State :=
  let g := getGrove s grove
  setGrove s grove { g with running := false, queue := g.queue.tail }

/-! ### The scale keeper (R249) -/

/-- The group size of an MSCALE: G for q operands, 32 otherwise. -/
def scaleGroup (a b : Operand) : Nat :=
  if a.isQ ∧ !a.lcv then groupSize a.g else if b.isQ ∧ !b.lcv then groupSize b.g else 32

/-- The biased exponent field of an element after load conversion, 0 for integers, and whether the conversion
saturated. -/
def Operand.expField (o : Operand) (c : Nat) : Nat × Bool :=
  if o.et < 8 then (0, false)
  else
    let t := Fmt.ofElem (if o.lcv then o.lfmt else o.et)
    let (code, sat) : Nat × Bool := if o.lcv then
        let (r, _, sat) := fToFSat t .rne ((Fmt.ofElem o.et).val c)
        (r, sat)
      else (c, false)
    (code / 2 ^ t.f % 2 ^ t.e, sat)

/-- What a keeper finds for a group: the largest exponent, the labels read, and the load conversions that
saturated (R239, R249). -/
structure GroupExp where
  exp : Nat
  mask : Mask
  sat : Nat
  deriving DecidableEq, Repr

/-- The exponent of row r for group g of size gs (R249). -/
def rowExp (s : State) (ag : Agent) (o : Operand) (gs g r : Nat) : State × Except Trap GroupExp :=
  if o.entry = 0 then
    let w := elemWidth o.et
    match engineBytes s ag (o.addr + dw (r * o.stride + g * gs * w / 8)) (gs * w / 8) with
    | (s, .error t) => (s, .error t)
    | (s, .ok (bs, m)) =>
      let es := (codesOf w gs bs).map o.expField
      (s, .ok { exp := (es.map Prod.fst).foldl max 0, mask := m, sat := (es.filter Prod.snd).length })
  else
    match engineBytes s ag (o.side + dw (o.entry * (r * o.groups + g))) o.entry with
    | (s, .error t) => (s, .error t)
    | (s, .ok (bs, m)) =>
      (s, .ok { exp := if o.mx then ofBytes bs else ofBytes (bs.take 2) / 2 ^ 10 % 32, mask := m, sat := 0 })

/-- The largest exponent over a list of rows. -/
def maxExp (ag : Agent) (o : Operand) (gs g : Nat) : List Nat → State → State × Except Trap GroupExp
  | [], s => (s, .ok { exp := 0, mask := 0, sat := 0 })
  | r :: l, s =>
    match rowExp s ag o gs g r with
    | (s, .error t) => (s, .error t)
    | (s, .ok x) =>
      match maxExp ag o gs g l s with
      | (s, .error t) => (s, .error t)
      | (s, .ok y) => (s, .ok { exp := max x.exp y.exp, mask := x.mask ||| y.mask, sat := x.sat + y.sat })

/-- The word of group g with the label of the bytes read for it, and its saturations (R249). -/
def scaleWord (s : State) (c : ArrayCmd) (da db : BitVec 256) : State × Except Trap (Dword × Mask × Nat) :=
  let (a, b) := c.operands s da db
  let gs := scaleGroup a b
  match maxExp c.agent a gs c.chunk (List.range a.rows) s with
  | (s, .error t) => (s, .error t)
  | (s, .ok x) =>
    match maxExp c.agent b gs c.chunk (List.range b.rows) s with
    | (s, .error t) => (s, .error t)
    | (s, .ok y) =>
      (s, .ok (dw (x.exp % 2 ^ 16 + y.exp % 2 ^ 16 * 2 ^ 16 + (x.exp + y.exp) % 2 ^ 16 * 2 ^ 32 +
        c.chunk % 2 ^ 16 * 2 ^ 48), x.mask ||| y.mask, x.sat + y.sat))

/-- The number of groups of an MSCALE. -/
def scaleCount (s : State) (c : ArrayCmd) (da db : BitVec 256) : Nat :=
  let (a, b) := c.operands s da db
  a.k / scaleGroup a b

/-- Whether a word of a keeper's context still waits at its sender. -/
def keeperWaits (c : ArrayCmd) (co : Core) (q : Nat) : Bool :=
  ((co.senders[q]?).getD []).any fun m =>
    m.keeper && m.hart == c.hart && m.launch == some c.launch && m.lidx == c.lidx

/-- Send one word of a keeper to a peer's queue: accepted, waiting, or refused with MREF (R231, R249). -/
def sendWord (s : State) (c : ArrayCmd) (peer q : Nat) (w : Dword) (m : Mask) : State :=
  let msg : Message :=
    { data := w.setWidth 512, wide := false, label := m, hart := c.hart, qreg := 0, error := false, keeper := true
      sess := c.sess, launch := some c.launch, lidx := c.lidx }
  if coreLaunch s peer ≠ some c.launch then refuseKeeper s peer msg
  else
    if hasRoom s peer q then setQueue s peer q (queueAt s peer q ++ [msg])
    else setSenders s peer q (sendersAt s peer q ++ [msg])

/-- MSCALE_WORD (R249): the running keeper sends the word of its group to the next peer, once its last
word no longer waits. The word is formed once per group. -/
def execMscaleWord (grove : Nat) (s : State) : Host.Outcome State Fault Refusal :=
  let g := getGrove s grove
  match runningCommand g with
  | some c =>
    match c.op with
    | .scale da db peers q =>
      let waits := peers.any fun p => keeperWaits c (getCore s (p.toNat % 4096)) q.toNat
      if waits || decide (scaleCount s c da db ≤ c.chunk) then ok s
      else
        let (s, r) : State × Except Trap (Dword × Mask × Nat) := match c.word with
          | some (w, m) => (s, .ok (w, m, 0))
          | none => scaleWord s c da db
        match r with
        | .error _ => ok s
        | .ok (w, m, sat) =>
          let s := onSession s c fun l => { l with satc := min 65535 (l.satc + sat) }
          let s := match peers[c.sent]? with
            | some p => sendWord s c (p.toNat % 4096) q.toNat w m
            | none => s
          let c' := if c.sent + 1 < peers.length then { c with sent := c.sent + 1, word := some (w, m) }
            else { c with sent := 0, chunk := c.chunk + 1, word := none }
          let g := getGrove s grove
          ok (setGrove s grove { g with queue := c' :: g.queue.tail })
    | _ => ok s
  | none => ok s

/-- Whether a running command has nothing left to do but complete, with the state its completion leaves. -/
def completeCommand (s : State) (c : ArrayCmd) : Option State :=
  match c.op with
  | .mma z _ _ =>
    let r := runCommand s c
    match r.stop with
    | none => some (creditMacs (recordRun c z r.acc) c r.macs)
    | some _ => none
  | .zero z =>
    let r := runCommand s c
    some (setTileLabel r.acc.s c z fun s' _ => (s', 0))
  | .scale da db peers q =>
    let waits := peers.any fun p => keeperWaits c (getCore s (p.toNat % 4096)) q.toNat
    if !waits && decide (scaleCount s c da db ≤ c.chunk) then some s else none

/-- MMA_COMPLETION (R244, R246): the running command writes its last element and completes. -/
def execMmaCompletion (grove : Nat) (s : State) : Host.Outcome State Fault Refusal :=
  match runningCommand (getGrove s grove) with
  | some c =>
    match completeCommand s c with
    | some s => ok (leaveArray s grove)
    | none => ok s
  | none => ok s

/-- How far a command gets before a read of it faults: its state, progress and fault (R248). -/
def suspendRun (s : State) (c : ArrayCmd) : Option (State × ArrayCmd × Trap) :=
  match c.op with
  | .mma z _ _ =>
    let r := runCommand s c
    match r.stop with
    | some (ch, row, t) => some (recordRun c z r.acc, { c with chunk := ch, row := row }, t)
    | none => none
  | .zero _ => none
  | .scale da db _ _ =>
    if scaleCount s c da db ≤ c.chunk ∨ c.word.isSome then none
    else
      match scaleWord s c da db with
      | (s, .error t) => some (s, c, t)
      | (_, .ok _) => none

/-- Suspend a command in its session: the array, if the hart holds it, passes on under R236 (R248). Where no other hart
waits the hart keeps it, with a new grant period (DESIGN CHOICE: notes/assumptions/109.md). -/
def suspendIn (s : State) (grove : Nat) (c : ArrayCmd) (t : Trap) : State :=
  let s := onSession s c fun l => { l with susp := some (c, t) }
  if (getGrove s grove).holder = some c.hart then endPeriod s grove else s

/-- Discard the queued commands of a closed session that follow one of it that faulted (R248,
notes/assumptions/62.md). -/
def dropSuccessors (s : State) (grove : Nat) (c : ArrayCmd) : State :=
  let g := getGrove s grove
  let follows := fun (d : ArrayCmd) => d.hart == c.hart && d.launch == c.launch && d.lidx == c.lidx && d.sess == c.sess
  setGrove s grove { g with queue := g.queue.filter fun d => !follows d }

/-- MMA_SUSPEND (R248): a read of the running command faults. The command leaves the array, and its hart takes
MFAULT at its next boundary (17 R327). The command waits suspended in its session; one whose session has been
closed is discarded with its queued successors (notes/assumptions/62.md). -/
def execMmaSuspend (grove : Nat) (s : State) : Host.Outcome State Fault Refusal :=
  match runningCommand (getGrove s grove) with
  | some c =>
    match suspendRun s c with
    | some (s, c, t) =>
      let s := leaveArray s grove
      let h := getHart s c.hart
      if c.current h then
        let s := setHart s c.hart
          { h with commandFaults := h.commandFaults ++ [{ trap := ⟨.mfault, t.val⟩, resume := none }] }
        ok (if h.lease.any fun l => some l.id == c.sess then suspendIn s grove c t else dropSuccessors s grove c)
      else ok s
    | none => ok s
  | none => ok s

/-! ### The instructions (R250) -/

/-- Whether the acting hart has a bound z register. -/
def tileOf (h : Hart) (z : BitVec 3) : Option Tile := (h.z[z.toNat]?).getD none

/-- Accept a command into the queue (R246). A command with ACQ set first forms a release (11 R214). -/
def acceptCommand (s : State) (op : ArrayOp) (tile : Dword) (bfmt : List Dword) (acq : Bool) : State :=
  let (s, rel) := if acq then
      let (s, st) := formRelease s s.cid
      (settle s s.cid, some st)
    else (s, none)
  let k := hartGrove s.hgid
  let g := getGrove s k
  let c : ArrayCmd :=
    { hart := s.hgid, launch := s.hart.launch.getD 0, lidx := s.hart.lidx, op := op, tile := tile,
      root := s.hart.s1base, user := s.hart.mode == .user, task := inTask s.hart, bfmt := bfmt,
      chunk := 0, row := 0, sent := 0, word := none, sess := s.hart.lease.map (·.id), rel := rel }
  setGrove s k { g with queue := g.queue ++ [c] }

/-- The commands of a hart that a suspension keeps from the array: the suspended one and those saved behind it
(R248, R266). -/
def Hart.kept (h : Hart) : List ArrayCmd := (h.lease.bind (·.susp)).toList.map Prod.fst ++ h.parked

/-- Whether the array's queue has no place for another command of the acting hart, the places of the commands
that it is to take back counted (R246; notes/assumptions/96.md). -/
def queueFull (s : State) : Bool :=
  decide (8 ≤ (getGrove s (hartGrove s.hgid)).queue.length + s.hart.kept.length)

/-- What a grant-needing instruction does first: LEASE without a session, and a wait without a grant (R237) or
while the queue has no place for what it adds (R246). -/
def withGrant (s : State) (full : Bool) (k : State → State) : State :=
  let g := getGrove s (hartGrove s.hgid)
  if s.hart.lease.isNone then raise s .lease 0
  else if g.holder ≠ some s.hgid then stall s
  else if full then stall s
  else k s

/-- Count an MMA command in the grant period, which ends with the 64th (R236). -/
def countCommand (s : State) : State :=
  let k := hartGrove s.hgid
  let g := getGrove s k
  let s := setGrove s k { g with periodCmds := g.periodCmds + 1 }
  if 64 ≤ g.periodCmds + 1 then endPeriod s k else s

/-- A descriptor in the own slice as a number. -/
def descAt (s : State) (e : Dword) (n : Nat) : Nat := readOwn s ((ownBlock s e n).getD 0) n

/-- MMA (R241, R244). -/
def execMma (z : BitVec 3) (a b : Reg) (s : State) : Host.Outcome State Fault Refusal :=
  ok (withGrant s (queueFull s) fun s =>
    match tileOf s.hart z with
    | none => illegal s
    | some t =>
      let ea := s.hart.rx a
      let eb := s.hart.rx b
      match blockFault s [ea, eb] 32 with
      | some t => raise s t.cause t.val
      | none =>
        let da : BitVec 256 := BitVec.ofNat 256 (descAt s ea 32)
        let db : BitVec 256 := BitVec.ofNat 256 (descAt s eb 32)
        let fa := formatAt s s.cid (dw (dbits da 0 64))
        let fb := formatAt s s.cid (dw (dbits db 0 64))
        match operandFault s da db fa fb (some (tileRows t.word, tileCols t.word, tileInt t.word)) with
        | some t => raise s t.cause t.val
        | none =>
          let acq := dbits da 159 1 == 1 || dbits db 159 1 == 1
          onHart (countCommand (acceptCommand s (.mma z da db) t.word [fa, fb] acq)) Hart.retire)

/-- MZERO: needs no grant (R237, R250). -/
def execMzero (z : BitVec 3) (s : State) : Host.Outcome State Fault Refusal :=
  ok (match tileOf s.hart z with
    | none => illegal s
    | some t =>
      if queueFull s then stall s
      else onHart (acceptCommand s (.zero z) t.word [] false) Hart.retire)

/-- MDRAIN (R250). -/
def execMdrain (l : BitVec 4) (s : State) : Host.Outcome State Fault Refusal :=
  if drained s then ok (issueL s l .none 0 false none)
  else if s.hart.lookahead l = 0 then ok (stall s)
  else ok (issueL s l .drain 0 false none)

/-- The progress of a suspended command (R248). -/
def progress (h : Hart) : Dword :=
  match h.lease.bind (·.susp) with
  | none => 0
  | some (c, t) =>
    let (ms, z, row) := match c.op with
      | .scale .. => (1, 0, 0)
      | .mma z _ _ => (0, z.toNat, c.row)
      | .zero z => (0, z.toNat, c.row)
    dw (2 ^ 63 + ms * 2 ^ 62 + z * 2 ^ 56 + row % 128 * 2 ^ 48 + t.cause.code * 2 ^ 40 +
      c.chunk % 2 ^ 32)

/-- MPROG (R248). -/
def execMprog (d : Reg) (s : State) : Host.Outcome State Fault Refusal :=
  ok (onHart s fun h => (h.wx d (progress h)).retire)

/-- MRESUME (R248): with nothing suspended it has no effect and waits for no grant (notes/assumptions/96.md). Else it
waits until the array's queue has room for what it puts back (R246). -/
def execMresume (s : State) : Host.Outcome State Fault Refusal :=
  match s.hart.lease with
  | none => ok (raise s .lease 0)
  | some l =>
    if l.susp.isNone then ok (onHart s Hart.retire)
    else
      let k := hartGrove s.hgid
      let g := getGrove s k
      ok (withGrant s (decide (8 < g.queue.length + s.hart.kept.length)) fun s =>
        let s := setGrove s k { g with queue := requeueCommands s.hgid s.hart.kept g.queue }
        onHart s fun h => { h.retire with lease := some { l with susp := none }, parked := [] })

/-- The status of the lease session (R247). -/
def leaseStatus (s : State) : Dword :=
  match s.hart.lease with
  | none => 0
  | some l =>
    let g := getGrove s (hartGrove s.hgid)
    let held := g.holder == some s.hgid
    let f := fun (m : Flags) => (l.flags &&& m != 0).toNat
    dw (held.toNat * 2 ^ 63 + 2 ^ 62 + l.susp.isSome.toNat * 2 ^ 61 +
      (if held then min g.periodCmds 64 else 0) * 2 ^ 48 + l.satc * 2 ^ 32 + l.mref.toNat * 2 ^ 6 +
      l.iov.toNat * 2 ^ 5 + f flagNV * 2 ^ 4 + f flagOF * 2 ^ 2 + f flagUF * 2 + f flagNX)

/-- MSTAT (R247). -/
def execMstat (d : Reg) (s : State) : Host.Outcome State Fault Refusal :=
  ok (onHart s fun h => (h.wx d (leaseStatus s)).retire)

/-- The 4-byte CGIDs of a list in the own slice. -/
def cgidList (s : State) (off n : Nat) : List (BitVec 32) :=
  (List.range n).map fun i => BitVec.ofNat 32 (readOwn s (off + 4 * i) 4)

/-- The check of one peer, as QBIND checks a send binding (R230, R249). -/
def peerCheck (s : State) (p : BitVec 32) : Option Cause :=
  let c := p.toNat % 2 ^ 20
  if p.toNat / 2 ^ 20 ≠ 0 then some .illegal
  else if c / 512 ≠ (cgidOf s s.cid).toNat / 512 then some .diecross
  else if !inService s (c % 4096) then some .addr
  else if !samePartition s s.cid (c % 4096) then some .win
  else none

/-- The first peer that fails, as its trap; ILLEGAL names the instruction word (notes/assumptions/32.md). -/
def peerFault (s : State) : List (BitVec 32) → Option Trap
  | [] => none
  | p :: l =>
    match peerCheck s p with
    | some .illegal => some ⟨.illegal, s.hart.iword.setWidth 64⟩
    | some c => some ⟨c, p.setWidth 64⟩
    | none => peerFault s l

/-- MSCALE (R249). -/
def execMscale (a : Reg) (s : State) : Host.Outcome State Fault Refusal :=
  ok (if inTask s.hart then raise s .taskctx 0
    else
      withGrant s (queueFull s) fun s =>
        let e := s.hart.rx a
        match blockFault s [e] 32 with
        | some t => raise s t.cause t.val
        | none =>
          let blk : BitVec 256 := BitVec.ofNat 256 (descAt s e 32)
          let n := dbits blk 128 5
          let q : BitVec 4 := BitVec.ofNat 4 (dbits blk 136 4)
          if n = 0 ∨ 16 < n ∨ dbits blk 133 3 ≠ 0 ∨ dbits blk 140 52 ≠ 0 then raise s .illegal e
          else
            let ea := dw (dbits blk 0 64)
            let eb := dw (dbits blk 64 64)
            match blockFault s [ea, eb] 32 with
            | some t => raise s t.cause t.val
            | none =>
              let da : BitVec 256 := BitVec.ofNat 256 (descAt s ea 32)
              let db : BitVec 256 := BitVec.ofNat 256 (descAt s eb 32)
              let fa := formatAt s s.cid (dw (dbits da 0 64))
              let fb := formatAt s s.cid (dw (dbits db 0 64))
              match operandFault s da db fa fb none with
              | some t => raise s t.cause t.val
              | none =>
                let el := dw (dbits blk 192 64)
                match ownBlock s el (4 * n) with
                | none => raise s .addr el
                | some off =>
                  let ps := cgidList s off n
                  match peerFault s ps with
                  | some t => raise s t.cause t.val
                  | none =>
                    let acq := dbits da 159 1 == 1 || dbits db 159 1 == 1
                    onHart (acceptCommand s (.scale da db (ps.map (BitVec.setWidth 20)) q) 0 [fa, fb] acq)
                      Hart.retire)

end Sys2Proof.Machine
end

