-- ==== Sys2Proof/Machine/Tile.lean ====
section
/-!
DEFINITION. Tile registers and the ZT instructions (13 R242, R243, R251).
-/

namespace Sys2Proof.Machine

/-- Whether a command of the acting hart that names a tile register has not completed: queued, running or
suspended (R242, R251). -/
def tileBusy (s : State) (z : BitVec 3) : Bool :=
  let names := fun (c : ArrayCmd) => c.hart == s.hgid && c.current s.hart &&
    match c.op with
    | .mma z' _ _ => z' == z
    | .zero z' => z' == z
    | .scale .. => false
  (getGrove s (hartGrove s.hgid)).queue.any names ||
    s.hart.kept.any names

/-- The storage that the tile registers of a core's contexts hold, but for one of the acting hart
(R242, 17 R334). -/
def otherTiles (s : State) (z : BitVec 3) : List Run :=
  let own := (hartTiles s.hart).filter fun t => t.1 != z.toNat
  let other := (List.range 4).flatMap fun i =>
    if s.cid * 4 + i = s.hgid then [] else hartTiles (getHart s (s.cid * 4 + i))
  let away := s.pk.launches.flatMap fun l =>
    (l.contexts.filter fun c => c.1 / 4 == s.cid).flatMap fun c => hartTiles c.2
  (own ++ other ++ away).map fun t => tileRun t.2

/-- Whether a ZBIND word may be bound: zero fields, an offset that is a multiple of 256, storage within
the slice that overlaps nothing (R242). -/
def bindable (s : State) (z : BitVec 3) (w : Dword) : Bool :=
  let r := tileRun w
  let busy := systemArea :: logRun s.core :: (coreContexts s s.cid).map spillRun ++
    openWindows s.core ++ otherTiles s z
  bits w 27 37 == 0 && bits w 19 1 == 0 && bits w 0 8 == 0 &&
    decide (r.1 + r.2 ≤ capacity s s.cid) && busy.all fun b => !overlap r b

/-- The union of the labels of the banks that hold a run of the own slice. -/
def runMask (s : State) (r : Run) : Mask :=
  (banksOf r).foldl (fun m b => m ||| bankMask s s.cid b) 0

/-- ZBIND (R242). -/
def execZbind (z : BitVec 3) (a : Reg) (s : State) : Host.Outcome State Fault Refusal :=
  let w := s.hart.rx a
  if (tileOf s.hart z).isSome && tileBusy s z then ok (stall s)
  else if bindable s z w then
    let (s, l) := unionLabel s (handleAt s s.cid) s.hart.launch 0 (runMask s (tileRun w))
    ok (onHart s fun h =>
      { h with z := h.z.setIfInBounds z.toNat (some { word := w, lsid := l }) }.retire)
  else ok (illegal s)

/-- ZUNBIND: no effect on an unbound register (R251). -/
def execZunbind (z : BitVec 3) (s : State) : Host.Outcome State Fault Refusal :=
  if tileBusy s z then ok (stall s)
  else ok (onHart s fun h => { h with z := h.z.setIfInBounds z.toNat none }.retire)

/-- ZGET: 16 elements of row x[rb][6:0] from column 16 × x[rb][9:7] (R251). STVAL of ADDR is the value of
x[rb] (notes/assumptions/32.md). -/
def execZget (d : Reg) (z : BitVec 3) (b : Reg) (s : State) : Host.Outcome State Fault Refusal :=
  match tileOf s.hart z with
  | none => ok (illegal s)
  | some t =>
    let v := s.hart.rx b
    let i := bits v 0 7
    let col := 16 * bits v 7 3
    if tileRows t.word ≤ i ∨ tileCols t.word ≤ col then ok (raise s .addr v)
    else if tileBusy s z then ok (stall s)
    else
      let key := sliceKey s.cid (tileOff t.word + (i * tileCols t.word + col) * 4)
      if isMarked s key || isMarked s (key + 32) then
        ok (issueL s 0 (.v d 0) 0 false (some ⟨.ecc, sAddress (cgidOf s s.cid) (sliceOff key)⟩))
      else
        let data : VReg := BitVec.ofNat 512 (memRead s.mem key 64)
        ok (issueL (widenHla s (maskAt s s.cid t.lsid)) 0 (.v d data) 0 false none)

/-- ZLBL (R251). -/
def execZlbl (d : Reg) (z : BitVec 3) (s : State) : Host.Outcome State Fault Refusal :=
  match tileOf s.hart z with
  | none => ok (illegal s)
  | some t => ok (onHart s fun h => (h.wx d (dw t.lsid.toNat)).retire)

end Sys2Proof.Machine
end

