-- ==== Sys2Proof/Machine/Copy.lean ====
section
/-!
DEFINITION. Streamers (13 R252 to R265): token charges (19 R366, R367), copy descriptors and their checks,
conversion (05 R91 to R94), segments and units, channels and watermarks, mailbox counters, multicast groups
and the CP instructions.
-/

namespace Sys2Proof.Machine

/-! ### Token charges (19 R366, R367) -/

/-- Take up to `n` tokens from idle tenants, lowest number first (R367). -/
def lend (n : Nat) : List Tenant → Nat × List Tenant
  | [] => (n, [])
  | t :: l =>
    if t.chargedNow || t.chargedLast then
      let (m, l) := lend n l
      (m, t :: l)
    else
      let k := min n t.balance
      let (m, l) := lend (n - k) l
      (m, { t with balance := t.balance - k } :: l)

/-- Tenants in ascending order. -/
def sortTenants (l : List Tenant) : List Tenant := l.mergeSort fun a b => decide (a.num ≤ b.num)

/-- Charge n tokens to a tenant; none when the shortfall cannot be covered (R367). -/
def charge (s : State) (t n : Nat) : Option State :=
  let x := getTenant s t
  if x.refill = 0 then some s
  else if n ≤ x.balance then some (setTenant s { x with balance := x.balance - n, chargedNow := true })
  else
    let short := n - x.balance
    let others := sortTenants (s.pk.tenants.filter fun y => y.num != t)
    let (left, others) := lend short others
    if left = 0 ∧ x.debt + short ≤ x.refill then
      let s := { s with pk := { s.pk with tenants := others ++ [x] } }
      some (setTenant s { x with balance := 0, debt := x.debt + short, chargedNow := true })
    else none

/-! ### Formats and conversion (R255, 05 R91 to R94) -/

/-- ET of a format code: ET, MX, G in bits [3:0], 4, [6:5]. -/
def fmtEt (f : Nat) : Nat := f % 16
/-- MX of a format code. -/
def fmtMx (f : Nat) : Bool := f / 16 % 2 == 1
/-- G of a format code. -/
def fmtG (f : Nat) : Nat := f / 32 % 4
/-- Whether a format code names q codes. -/
def fmtQ (f : Nat) : Bool := (fmtEt f == 14 || fmtEt f == 15) && !fmtMx f
/-- Whether a format code has a side table (05 R97). -/
def fmtTable (f : Nat) : Bool := fmtQ f || fmtMx f
/-- Whether MX, if set, stands with an element type that allows it (R239). -/
def fmtValid (f : Nat) : Bool := !fmtMx f || [12, 13, 15].contains (fmtEt f)

/-- Whether two sides hold one format: G counts only for q codes (R255). -/
def fmtSame (a b : Nat) : Bool := a % 32 == b % 32 && (!fmtQ a || fmtG a == fmtG b)

/-- What a side-table entry gives for an element: q scale and zero point, or an E8M0 scale. -/
structure SideEntry where
  scale : FVal
  zero : Nat
  exp : Nat
  deriving DecidableEq, Repr

/-- A side-table entry from its bytes (05 R97). -/
def SideEntry.ofBytes (f : Nat) (bs : List Byte) : SideEntry :=
  { scale := Fmt.f16.val (Machine.ofBytes (bs.take 2))
    zero := ((bs[2]?).getD 0).toNat % (if fmtEt f = 15 then 16 else 256)
    exp := ((bs[0]?).getD 0).toNat }

/-- No side table. -/
def SideEntry.none : SideEntry := { scale := .fin false 1 0, zero := 0, exp := 127 }

/-- The exact value of an element code (05 R78, R93, R95). -/
def decodeElem (f : Nat) (e : SideEntry) (c : Nat) : FVal :=
  let et := fmtEt f
  if fmtQ f then (qDecode c e.scale e.zero).1
  else if et < 8 then
    let v : Int := if elemSigned et then sval (elemWidth et) c else (c : Int)
    .fin (decide (v < 0)) v.natAbs 0
  else
    let t := if et = 15 then Fmt.e2m1 else Fmt.ofElem et
    if fmtMx f then (if e.exp = 255 then .nan false else (t.val c).shift ((e.exp : Int) - 127))
    else t.val c

/-- The code of a value in a destination format, with whether it saturated (05 R91 to R94). -/
def encodeElem (f : Nat) (e : SideEntry) (v : FVal) : Nat × Bool :=
  let et := fmtEt f
  let w := elemWidth et
  if fmtQ f then
    let (c, _, sat) := qEncode v e.scale e.zero w
    (c, sat)
  else if et < 8 then
    let (n, fl) := fToInt v .rne (elemSigned et) w
    (wrapInt w n, fl &&& flagNV != 0 && !v.isNan)
  else
    let t := if et = 15 then Fmt.e2m1 else Fmt.ofElem et
    if fmtMx f then
      if e.exp = 255 then (t.nan, false)
      else
        let (c, _, sat) := fToFSat t .rne (v.shift (127 - (e.exp : Int)))
        (c, sat)
    else
      let (c, _, sat) := fToFSat t .rne v
      (c, sat)

/-! ### Copy commands -/

/-- Fields of a copy descriptor (R252). -/
def CopyCmd.src (c : CopyCmd) : Dword := dw (dbits c.desc 0 64)
def CopyCmd.dst (c : CopyCmd) : Dword := dw (dbits c.desc 64 64)
def CopyCmd.len (c : CopyCmd) : Nat := dbits c.desc 128 32
def CopyCmd.relBit (c : CopyCmd) : Bool := dbits c.desc 161 1 == 1
def CopyCmd.conv (c : CopyCmd) : Bool := dbits c.desc 162 1 == 1 && !fmtSame c.sfmt c.dfmt
def CopyCmd.mbx (c : CopyCmd) : Bool := dbits c.desc 163 1 == 1
def CopyCmd.mcgid (c : CopyCmd) : BitVec 20 := BitVec.ofNat 20 (dbits c.desc 320 20)
def CopyCmd.midx (c : CopyCmd) : Nat := dbits c.desc 340 3
def CopyCmd.rcount (c : CopyCmd) : Nat := dbits c.desc 384 7
def CopyCmd.smbox (c : CopyCmd) : Nat := dbits c.desc 392 3
def CopyCmd.rmbox (c : CopyCmd) : Nat := dbits c.desc 396 3
def CopyCmd.rty (c : CopyCmd) : Nat := dbits c.desc 384 3

/-- Element widths of the two sides in bits: bytes without conversion. -/
def CopyCmd.ws (c : CopyCmd) : Nat := if c.conv then elemWidth (fmtEt c.sfmt) else 8
def CopyCmd.wd (c : CopyCmd) : Nat := if c.conv then elemWidth (fmtEt c.dfmt) else 8

/-- The agent of a copy command's accesses. -/
def CopyCmd.agent (c : CopyCmd) : Agent :=
  { core := c.hart / 4, mode := if c.user then .user else .supervisor, root := c.root,
    launch := c.launch }

/-- Destination bytes whose first source byte lies before source byte p. -/
def CopyCmd.dstOf (c : CopyCmd) (p : Nat) : Nat :=
  let e := (8 * p + c.ws - 1) / c.ws
  (e * c.wd + 7) / 8

/-- Bytes the destination takes. -/
def CopyCmd.dstLen (c : CopyCmd) : Nat := c.len * 8 / c.ws * c.wd / 8

/-- The core field of a COPYM destination replaced by a receiver's (R260). -/
def atReceiver (d : Dword) (r : BitVec 20) : Dword := sAddress r (bits d 0 19)

/-- Bytes of an element type RTY (R261). -/
def rtyBytes (rty : Nat) : Nat :=
  match rty with
  | 0 => 4
  | 1 => 8
  | 2 => 4
  | 3 => 8
  | _ => 2

/-! ### Checks at issue (R253) -/

/-- The format code of a slice address: low bits of its bank's BFMT (R240). -/
def sliceFmt (s : State) (e : Dword) : Nat := bits (formatAt s s.cid e) 0 7

/-- The format and side table of a side: from the bank for S-space, from the descriptor otherwise
(R255). -/
def sideFormat (s : State) (e : Dword) (fmt : Nat) (table : Nat) : Nat × Nat :=
  if inSlice s s.cid e then
    (sliceFmt s e, (sameSlice s s.cid e (bits (formatAt s s.cid e) 34 17 * 4)).toNat)
  else (fmt, table)

/-- Whether a reserved or must-be-zero field of a descriptor is not zero (R252). -/
def copyReserved (s : State) (kind : CopyKind) (c : CopyCmd) : Bool :=
  let d := c.desc
  let conv := dbits d 162 1 == 1
  let extra := match kind with
    | .multicast => dbits d 391 1 + dbits d 395 1 + dbits d 399 49 != 0
    | .reduce => dbits d 387 61 != 0
    | .copy => dbits d 384 64 != 0
  let list := match kind with
    | .multicast => false
    | _ => dbits d 448 64 != 0
  let noS := inSlice s s.cid c.src || !conv || !fmtTable (dbits d 176 7)
  let noD := inSlice s s.cid c.dst || !conv || !fmtTable (dbits d 184 7)
  dbits d 167 9 != 0 || dbits d 183 1 != 0 || dbits d 191 1 != 0 || dbits d 343 41 != 0 || extra || list ||
    (noS && dbits d 192 64 != 0) || (noD && dbits d 256 64 != 0)

/-- Whether a list repeats an element. -/
def repeats (l : List (BitVec 32)) : Bool := l.eraseDups.length != l.length

/-- Step 3 of R253, with the alignment rule of COPYRD (R261). The receiver list must lie in the own
slice. -/
def copyIllegal (s : State) (kind : CopyKind) (c : CopyCmd) (e : Dword) : Except Trap (List (BitVec 20)) :=
  let d := c.desc
  let bad : Except Trap (List (BitVec 20)) := .error ⟨.illegal, e⟩
  let conv := dbits d 162 1 == 1
  if copyReserved s kind c || c.len == 0 || 4 < dbits d 164 3 then bad
  else
    match kind with
    | .copy => .ok []
    | .reduce =>
      let n := rtyBytes c.rty
      if conv || 6 ≤ c.rty || c.len % n != 0 || c.src.toNat % n != 0 || c.dst.toNat % n != 0 then bad
      else .ok []
    | .multicast =>
      let sdst := bit c.dst 63 && inSlice s s.cid c.dst
      if conv || c.rcount == 0 || 64 < c.rcount || !sdst then bad
      else
        let el := dw (dbits d 448 64)
        match ownBlock s el (4 * c.rcount) with
        | none => .error ⟨.addr, el⟩
        | some off =>
          let rs := cgidList s off c.rcount
          if repeats rs || rs.any fun r => r.toNat / 2 ^ 20 != 0 then bad
          else .ok (rs.map (BitVec.setWidth 20))

/-- Whether n bytes at an address are wholly private memory of the own core: all in its slice, outside every open
window (11 R189, 13 R265). -/
def wholePrivate (s : State) (e : Dword) (n : Nat) : Bool :=
  match formOf s s.cid e with
  | .slice c off =>
    c == cgidOf s s.cid && decide (off + n ≤ capacity s s.cid) &&
      (openWindows s.core).all fun w => !overlap w (off, n)
  | _ => false

/-- The package of a COPYM's DST, which its receivers keep (R260): another than the issuing one is DIECROSS (R253). -/
def farMulticast (s : State) (c : CopyCmd) : Option Trap :=
  match c.kind, formOf s s.cid c.dst with
  | .multicast, .slice d _ => if d.toNat / 4096 = s.pk.pkg then none else some ⟨.diecross, c.dst⟩
  | _, _ => none

/-- The check of MCGID under rows 1 to 7 of 11 R184 (R253). -/
def mailboxFault (s : State) (c : BitVec 20) : Option Trap :=
  let t := c.toNat % 4096
  if (localCore s c).isNone then some ⟨.diecross, c.setWidth 64⟩
  else if !inService s t then some ⟨.addr, c.setWidth 64⟩
  else if !samePartition s s.cid t then some ⟨.win, c.setWidth 64⟩
  else none

/-- The first fault of a list of checks. -/
def firstFault : List (Option Trap) → Option Trap
  | [] => none
  | some t :: _ => some t
  | none :: l => firstFault l

/-- Steps 4 to 6 of R253 for a command whose formats and receivers are resolved. A CONV between two sides of one
format copies bytes, so that LEN need not hold whole elements of it (R255; DEDUCED: notes/assumptions/105.md). -/
def copyFault (s : State) (c : CopyCmd) : Option Trap :=
  let dsts := match c.kind with
    | .multicast => c.recvs.map (atReceiver c.dst)
    | _ => [c.dst]
  let n := max 1 c.dstLen
  let fmtBad (f : Nat) (e : Dword) (len : Nat) : Bool :=
    let sl := inSlice s s.cid e
    !fmtValid f || (!sl && fmtG f == 3) || (sl && !oneFormat s s.cid (dw f) e len)
  let whole := c.len * 8 % c.ws == 0 && c.len * 8 / c.ws * c.wd % 8 == 0
  let wantsConv := dbits c.desc 162 1 == 1
  if inTask s.hart && (c.mbx || !wholePrivate s c.dst n) then some ⟨.taskctx, 0⟩
  else
    match firstFault (rangeFault s false false c.src c.len :: farMulticast s c ::
        dsts.map (fun d => rangeFault s true false d n) ++
        [if c.mbx then mailboxFault s c.mcgid else none]) with
    | some t => some t
    | none =>
      if wantsConv && (fmtBad c.sfmt c.src c.len || fmtBad c.dfmt c.dst n || !whole) then
        some ⟨.mfmt, 7⟩
      else none

/-! ### Channels (R257, R258, R264) -/

/-- A channel of a hart. -/
def Hart.chan (h : Hart) (i : Nat) : Channel := (h.chans[i]?).getD Channel.fresh

/-- Record a failure of a command (R256, R264). -/
def failCopy (s : State) (c : CopyCmd) (q : Cause) : State := onChan s c (Channel.fail · q c.id)

/-- Add saturated conversions and float flags to a channel's status (R264). -/
def Channel.note (ch : Channel) (sat : Nat) (fl : Flags) : Channel :=
  let n := min 65535 (bits ch.stat 32 16 + sat)
  let keep := ch.stat &&& ~~~(0x0000FFFF00000000 : Dword)
  { ch with stat := keep ||| dw (n * 2 ^ 32) ||| dw (fl.toNat * 2 ^ 48) }

/-! ### Mailboxes and groups (R259, R260) -/

/-- Add to a mailbox counter, which saturates (R259). -/
def addMailbox (s : State) (core i n : Nat) : State :=
  let co := getCore s core
  let v := min (2 ^ 32 - 1) (((co.mailbox[i]?).getD 0).toNat + n)
  setCore s core { co with mailbox := co.mailbox.setIfInBounds i (BitVec.ofNat 32 v) }

/-- The group of a sender core and counter. -/
def groupOf (co : Core) (smbox : Nat) : Option Group := co.groups.find? fun g => g.smbox == smbox

/-- Put a group. -/
def putGroup (co : Core) (g : Group) : Core :=
  { co with groups := g :: co.groups.filter fun o => o.smbox != g.smbox }

/-- Whether every receiver of a group has freed every round, those of commands still under way counted
(R260). -/
def groupIdle (s : State) (core : Nat) (g : Group) : Bool :=
  g.rounds == g.freed &&
    !(s.pk.copies.any fun c => c.kind == .multicast && c.hart / 4 == core && c.smbox == g.smbox &&
      !c.recvs.isEmpty)

/-- A new group of a receiver set. -/
def newGroup (smbox : Nat) (rs : List Nat) : Group :=
  { smbox := smbox, members := rs, rounds := rs.map fun _ => 0, freed := rs.map fun _ => 0, counted := 0 }

/-- Whether two receiver sets are equal. -/
def sameSet (a b : List Nat) : Bool := a.all b.contains && b.all a.contains

/-- Fix the receiver set of a COPYM's group, none when an unfinished group has another set (R260). -/
def joinGroup (s : State) (c : CopyCmd) : Option State :=
  let core := c.hart / 4
  let rs := c.recvs.map BitVec.toNat
  let co := getCore s core
  match groupOf co c.smbox with
  | some g =>
    if sameSet g.members rs then some s
    else if groupIdle s core g then some (setCore s core (putGroup co (newGroup c.smbox rs)))
    else none
  | none => some (setCore s core (putGroup co (newGroup c.smbox rs)))

/-- Add one for a member in a list of counts beside the members. -/
def addCount (who : Nat) : List Nat → List Nat → List Nat
  | m :: ms, n :: ns => (if m = who then n + 1 else n) :: addCount who ms ns
  | _, ns => ns

/-- The count of a member. -/
def countOf (who : Nat) : List Nat → List Nat → Nat
  | m :: ms, n :: ns => if m = who then n else countOf who ms ns
  | _, _ => 0

/-- The least of a list of counts. -/
def leastOf : List Nat → Nat
  | [] => 0
  | n :: l => l.foldl min n

/-- All of a receiver's units are applied: its RMBOX rises, and the round is delivered (R260). -/
def deliverRound (s : State) (c : CopyCmd) (r : BitVec 20) : State :=
  let s := addMailbox s (r.toNat % 4096) c.rmbox 1
  let core := c.hart / 4
  let co := getCore s core
  match groupOf co c.smbox with
  | some g => setCore s core (putGroup co { g with rounds := addCount r.toNat g.members g.rounds })
  | none => s

/-! ### Issue (R253, R257) -/

/-- The log of the acting core as a command's reads see it at issue: with .acq no older than the hart's loads
(11 R214), so its records count; without, none. -/
def imageLog (s : State) (c : CopyCmd) : List Record := if dbits c.desc 160 1 = 1 then s.core.log else []

/-- Where the source overlaps a destination, the source bytes as they stand at issue, as far as they can be read
(R255). -/
def issueImage (s : State) (c : CopyCmd) : List (Option Byte) :=
  let a := (normalise s s.cid c.src).toNat
  let meets := fun (d : Dword) =>
    decide ((normalise s s.cid d).toNat < a + c.len) && decide (a < (normalise s s.cid d).toNat + c.dstLen)
  let hit := if c.kind = .multicast then c.recvs.any fun r => meets (atReceiver c.dst r) else meets c.dst
  if hit then
    (List.range c.len).map fun i =>
      let e := c.src + dw i
      (keyOf s c.agent e).map fun k =>
        sectorByte (overlay (normalise s s.cid e &&& ~~~31) c.root none (imageLog s c) (memSector s.mem k)) (bits e 0 5)
  else []

/-- The priority class of the acting hart's commands: its task's, or its launch's (R262). -/
def copyPrio (s : State) : Nat :=
  match s.hart.launch.bind (getLaunch s) with
  | none => 7
  | some l =>
    match s.hart.task with
    | some t =>
      if inTask s.hart then
        ((l.regs.find? fun r => r.id == t.reg).map fun r => dbits r.desc 54 3).getD l.prio
      else l.prio
    | none => l.prio

/-- The command of a descriptor as the acting hart issues it. -/
def newCopy (s : State) (kind : CopyKind) (ch : Nat) (d : BitVec 512) : CopyCmd :=
  let c : CopyCmd :=
    { key := s.pk.nextCopy, hart := s.hgid, launch := s.hart.launch, lidx := s.hart.lidx, era := s.hart.era,
      part := handleAt s s.cid, ch := ch, id := (s.hart.chan ch).next, kind := kind, desc := d, recvs := [],
      label := hlaMask s, root := s.hart.s1base, user := s.hart.mode == .user, prio := copyPrio s,
      task := if inTask s.hart then s.hart.task.map fun t => (t.reg, t.run) else none, rel := none,
      sfmt := 0, dfmt := 0, soff := 0, doff := 0, pos := 0, units := [], held := none, reported := false,
      parked := none, paid := false, mboxDone := false, image := [], arrived := s.pk.nextCopy }
  let (sf, so) := sideFormat s c.src (dbits d 176 7) (dbits d 192 64)
  let (df, do_) := sideFormat s c.dst (dbits d 184 7) (dbits d 256 64)
  { c with sfmt := sf, dfmt := df, soff := so, doff := do_ }

/-- Send a command on its way: the channel hands out its identity (R257). -/
def sendCopy (s : State) (d : Reg) (c : CopyCmd) : State :=
  let h := s.hart.withChan c.ch fun k => { k with next := k.next + 1, live := k.live ++ [c.id] }
  let h := h.wx d (c.id.setWidth 64)
  { s with
    hart := h.retire
    pk := { s.pk with copies := s.pk.copies ++ [c], nextCopy := s.pk.nextCopy + 1 } }

/-- Complete a command at issue with nothing sent: its identity is used and at once covered (R260). -/
def refuseCopy (s : State) (d : Reg) (c : CopyCmd) (q : Cause) : State :=
  onHart s fun h =>
    ((h.withChan c.ch fun k => ({ k with next := k.next + 1 }.fail q c.id)).wx d (c.id.setWidth 64)).retire

/-- Start a command whose checks have passed: with ACQ a release is formed first (11 R214). -/
def startCopy (s : State) (d : Reg) (c : CopyCmd) : State :=
  let s0 := s
  match (if c.kind = .multicast then joinGroup s c else some s) with
  | none => refuseCopy s d c .illegal
  | some s =>
    if dbits c.desc 160 1 = 1 then
      let (s, st) := formRelease s s.cid
      sendCopy (settle s s.cid) d { c with rel := some st, image := issueImage s0 c }
    else sendCopy s d { c with image := issueImage s0 c }

/-- COPY, COPYM and COPYRD (R253, R265). -/
def issueCopy (s : State) (kind : CopyKind) (d a : Reg) (ch : BitVec 3) : State :=
  let e := s.hart.rx a
  if inTask s.hart ∧ kind ≠ .copy then raise s .taskctx 0
  else if 16 ≤ (s.hart.chan ch.toNat).live.length then stall s
  else
    match blockFault s [e] 64 with
    | some t => raise s t.cause t.val
    | none =>
      let c := newCopy s kind ch.toNat (BitVec.ofNat 512 (descAt s e 64))
      match copyIllegal s kind c e with
      | .error t => raise s t.cause t.val
      | .ok rs =>
        let c := { c with recvs := rs }
        match copyFault s c with
        | some t => raise s t.cause t.val
        | none => startCopy s d c

/-- COPY (R253). -/
def execCopy (d a : Reg) (c : BitVec 3) (s : State) : Host.Outcome State Fault Refusal :=
  ok (issueCopy s .copy d a c)

/-- COPYM (R260). -/
def execCopym (d a : Reg) (c : BitVec 3) (s : State) : Host.Outcome State Fault Refusal :=
  ok (issueCopy s .multicast d a c)

/-- COPYRD (R261). -/
def execCopyrd (d a : Reg) (c : BitVec 3) (s : State) : Host.Outcome State Fault Refusal :=
  ok (issueCopy s .reduce d a c)

/-- BFREE (R260): its message goes to the sender's core; a sender outside the package has no group of this
core, so it is dropped and recorded, under identity 0, as a BFREE has none (DESIGN CHOICE:
notes/assumptions/104.md). -/
def execBfree (a : Reg) (s : State) : Host.Outcome State Fault Refusal :=
  let v := s.hart.rx a
  if inTask s.hart then ok (raise s .taskctx 0)
  else
    match localCore s (BitVec.ofNat 20 (bits v 0 20)) with
    | some t =>
      let co := getCore s t
      let s := setCore s t { co with frees := co.frees ++ [(bits v 20 3, s.hart.contextRef s.hgid)] }
      ok (onHart { s with pk := { s.pk with nextCopy := s.pk.nextCopy + 1 } } Hart.retire)
    | none => ok (onHart s fun h => (h.withChan 0 (Channel.fail · .illegal 0)).retire)

/-- Homes within a scope of a core (11 R200). -/
def homeInScope (core scope key : Nat) : Bool := inHomeRegion scope (homeNum key) core

/-- CPWAIT (R257): waits until the identity is covered, then reads anew what lies within the scope
(11 R215; notes/assumptions/13.md). -/
def execCpwait (a : Reg) (c : BitVec 3) (sc : BitVec 4) (s : State) : Host.Outcome State Fault Refusal :=
  let id : BitVec 32 := BitVec.ofNat 32 (bits (s.hart.rx a) 0 32)
  if (s.hart.chan c.toNat).covered id then
    let s := { s with core := { s.core with
      view := s.core.view.filter fun v => !homeInScope s.cid sc.toNat v.key } }
    ok (issueL s 0 .none 0 false none)
  else ok (stall s)

/-- CPMARK (R257). -/
def execCpmark (d : Reg) (c : BitVec 3) (s : State) : Host.Outcome State Fault Refusal :=
  ok (onHart s fun h => (h.wx d ((h.chan c.toNat).mark.setWidth 64)).retire)

/-- CPUI (R258): a later arming withdraws a pending interrupt that has not been taken. -/
def execCpui (a : Reg) (c : BitVec 3) (s : State) : Host.Outcome State Fault Refusal :=
  let id : BitVec 32 := BitVec.ofNat 32 (bits (s.hart.rx a) 0 32)
  ok (onHart s fun h =>
    (h.withChan c.toNat fun k => { k with armed := some id, due := false }.fire).retire)

/-- CPSTAT: the status, which it clears (R264). -/
def execCpstat (d : Reg) (c : BitVec 3) (s : State) : Host.Outcome State Fault Refusal :=
  ok (onHart s fun h =>
    let v := (h.chan c.toNat).stat
    ((h.withChan c.toNat fun k => { k with stat := 0 }).wx d v).retire)

/-! ### Segments (R254 to R256, R262) -/

/-- A copy command by key. -/
def getCopy (s : State) (key : Nat) : Option CopyCmd := s.pk.copies.find? fun c => c.key == key

/-- Replace a copy command that has the same key. -/
def setCopy (s : State) (c : CopyCmd) : State :=
  { s with pk := { s.pk with copies := s.pk.copies.map fun o => if o.key = c.key then c else o } }

/-- The streamer a command's next segment waits at: the home of its first source byte (R254). -/
def streamerOf (s : State) (c : CopyCmd) : Nat :=
  match keyOf s c.agent (c.src + dw c.pos) with
  | some k => homeNum k
  | none => c.hart / 4

/-- Whether a command's launch is saved, so that its slices are not there to be read (13 R266). -/
def copyStopped (s : State) (c : CopyCmd) : Bool := (c.launch.bind (getLaunch s)).any fun l => !l.saved.isEmpty

/-- Whether a command has a segment to send and may send it: not held, not parked, not stopped, its .acq done. -/
def copyWaiting (s : State) (c : CopyCmd) : Bool :=
  decide (c.pos < c.len) && c.held.isNone && c.parked.isNone && !copyStopped s c &&
    match c.rel with
    | some st => !isForming (getCore s (c.hart / 4)) st
    | none => true

/-- The class of a command now: 7 once its launch has spent its energy (R262, 19 R369). -/
def copyClass (s : State) (c : CopyCmd) : Nat :=
  if (c.launch.bind (getLaunch s)).any (·.spent) then 7 else c.prio

/-- Whether a command comes before another at a streamer: higher class, then the older arrival (R262). -/
def copyBefore (s : State) (a b : CopyCmd) : Bool :=
  decide (copyClass s a < copyClass s b) ||
    (copyClass s a == copyClass s b && decide (a.arrived < b.arrived))

/-- A command whose last segment has been sent arrives at the streamer of its next one, if that is another
(R254, R262). -/
def arriveCopy (s : State) (before c : CopyCmd) : State :=
  if c.pos < c.len ∧ streamerOf s c ≠ streamerOf s before then
    { setCopy s { c with arrived := s.pk.nextCopy } with
      pk := { (setCopy s { c with arrived := s.pk.nextCopy }).pk with nextCopy := s.pk.nextCopy + 1 } }
  else setCopy s c

/-- Whether a streamer picks this command's segment next (R262). -/
def copyPicked (s : State) (c : CopyCmd) : Bool :=
  copyWaiting s c &&
    !(s.pk.copies.any fun o => copyWaiting s o && copyBefore s o c && streamerOf s o == streamerOf s c)

/-- Bytes of the next segment: up to the next 64 KiB boundary of the source (R254). -/
def segmentBytes (c : CopyCmd) : Nat := min (c.len - c.pos) (65536 - (c.src + dw c.pos).toNat % 65536)

/-- An address in each 64 KiB page that n bytes touch. -/
def pagesOf (e : Dword) (n : Nat) : List Dword :=
  e :: (List.range ((e.toNat % 65536 + n - 1) / 65536)).map fun i =>
    dw ((e.toNat / 65536 + i + 1) * 65536)

/-- The first page of a list whose translation is missing (R256). Other failures are found unit by unit. -/
def missingPage (ag : Agent) (n : Need) : List Dword → State → State × Option Trap
  | [], s => (s, none)
  | e :: l, s =>
    match formOf s ag.core e with
    | .virt va =>
      match translate s ag n va with
      | (s, .error c) => if c = n.page then (s, some ⟨c, e⟩) else missingPage ag n l s
      | (s, .ok _) => missingPage ag n l s
    | _ => missingPage ag n l s

/-- Elements per side-table entry of a format (R255). -/
def fmtUnit (f : Nat) : Nat := if fmtQ f then groupSize (fmtG f) else 32

/-- Bytes of a side-table entry. -/
def fmtEntry (f : Nat) : Nat := if fmtQ f then 4 else 1

/-- The address of the entry of element j (R255). -/
def entryAddr (f table j : Nat) : Dword := dw (table + j / fmtUnit f * fmtEntry f)

/-- Read the side-table entry of element j of a side (R255). -/
def readEntry (s : State) (ag : Agent) (f table j : Nat) : State × Except Trap SideEntry :=
  if fmtTable f then
    match engineBytes s ag (entryAddr f table j) (fmtEntry f) with
    | (s, .error t) => (s, .error t)
    | (s, .ok (bs, _)) => (s, .ok (SideEntry.ofBytes f bs))
  else (s, .ok SideEntry.none)

/-- Convert elements from j on, given their source codes (R255, 05 R94); with the number that saturated
among those whose first destination bit is at or after `first`. -/
def convertElems (ag : Agent) (c : CopyCmd) (first : Nat) :
    Nat → List Nat → State → State × Except Trap (List Nat × Nat)
  | _, [], s => (s, .ok ([], 0))
  | j, v :: l, s =>
    match readEntry s ag c.sfmt c.soff j with
    | (s, .error t) => (s, .error t)
    | (s, .ok es) =>
      match readEntry s ag c.dfmt c.doff j with
      | (s, .error t) => (s, .error t)
      | (s, .ok ed) =>
        let (code, sat) := encodeElem c.dfmt ed (decodeElem c.sfmt es v)
        match convertElems ag c first (j + 1) l s with
        | (s, .error t) => (s, .error t)
        | (s, .ok (cs, n)) => (s, .ok (code :: cs, n + if sat && decide (first ≤ j * c.wd) then 1 else 0))

/-- Source bytes as a command reads them: where source and destination overlap, either the byte at issue
or the byte that stands there now (R255; notes/assumptions/19.md). -/
def sourceBytes (s : State) (c : CopyCmd) (off n : Nat) : State × Except Trap (List Byte × Mask) :=
  match engineBytes s c.agent (c.src + dw off) n with
  | (s, .error t) => (s, .error t)
  | (s, .ok (bs, m)) =>
    if c.image.isEmpty then (s, .ok (bs, m))
    else
      let (k, s) := draw s
      (s, .ok (bs.mapIdx fun i b =>
        match (c.image[off + i]?).getD none with
        | some b' => if Config.copyChoice k i then b' else b
        | none => b, m))

/-- Destination bytes a to b - 1 of a command, their label and the saturations among them. -/
def copyBytes (s : State) (c : CopyCmd) (a b : Nat) : State × Except Trap (List Byte × Mask × Nat) :=
  if !c.conv then
    match sourceBytes s c a (b - a) with
    | (s, .error t) => (s, .error t)
    | (s, .ok (bs, m)) => (s, .ok (bs, m, 0))
  else
    let e0 := 8 * a / c.wd
    let e1 := (8 * b + c.wd - 1) / c.wd
    let lo := e0 * c.ws / 8
    let hi := (e1 * c.ws + 7) / 8
    match sourceBytes s c lo (hi - lo) with
    | (s, .error t) => (s, .error t)
    | (s, .ok (bs, m)) =>
      let v := ofBytes bs
      let codes := (List.range (e1 - e0)).map fun i => v / 2 ^ ((e0 + i) * c.ws - 8 * lo) % 2 ^ c.ws
      match convertElems c.agent c (8 * a) e0 codes s with
      | (s, .error t) => (s, .error t)
      | (s, .ok (cs, sat)) => (s, .ok (bytesOf (b - a) (packLanes c.wd cs / 2 ^ (8 * a - e0 * c.wd)), m, sat))

/-- The unit of one destination sector for one receiver. -/
def unitOf (c : CopyCmd) (addr : Dword) (recv : Nat) (r : Except Trap (List Byte × Mask × Nat)) (n : Nat) :
    CopyUnit :=
  match r with
  | .error t =>
    { addr := addr &&& ~~~31, mask := (pieceOf addr (List.replicate n 0) false).mask, data := 0,
      label := c.label, recv := recv, fail := some t.cause }
  | .ok (bs, m, _) =>
    let p := pieceOf addr bs false
    { addr := p.addr, mask := p.mask, data := p.data, label := c.label ||| m, recv := recv, fail := none }

/-- The units of one destination piece: one, or one for each receiver (R254, R260). -/
def unitsOf (c : CopyCmd) (a n : Nat) (r : Except Trap (List Byte × Mask × Nat)) : List CopyUnit :=
  match c.kind with
  | .multicast => c.recvs.mapIdx fun i q => unitOf c (atReceiver c.dst q + dw a) i r n
  | _ => [unitOf c (c.dst + dw a) 0 r n]

/-- Form the units of the destination pieces of a segment, from destination byte a on (R254). An uncorrectable error
in what it reads is met by the streamer (19 R381). -/
def formUnits (c : CopyCmd) : List (Dword × Nat) → Nat → State → List CopyUnit → Nat →
    State × List CopyUnit × Nat
  | [], _, s, us, sat => (s, us, sat)
  | (_, n) :: l, a, s, us, sat =>
    match copyBytes s c a (a + n) with
    | (s, .ok (bs, m, k)) => formUnits c l (a + n) s (us ++ unitsOf c a n (.ok (bs, m, k))) (sat + k)
    | (s, .error t) =>
      formUnits c l (a + n) (engineMet s c.agent (.streamer c.hart) t) (us ++ unitsOf c a n (.error t)) sat

/-- What a destination page must grant (R254). -/
def copyNeed (c : CopyCmd) : Need := if c.kind = .reduce then { needWrite with r := true } else needWrite

/-- The pages of the side tables that destination bytes lo to hi - 1 need. -/
def tablePages (c : CopyCmd) (lo hi : Nat) : List Dword :=
  let side := fun (f t : Nat) =>
    if c.conv && fmtTable f then
      let a := entryAddr f t (8 * lo / c.wd)
      let b := entryAddr f t (8 * hi / c.wd)
      pagesOf a ((b - a).toNat + fmtEntry f)
    else []
  side c.sfmt c.soff ++ side c.dfmt c.doff

/-- Translate every page a segment touches (R254): the fault that holds it, if there is one. -/
def segmentFault (s : State) (c : CopyCmd) (n : Nat) : State × Option Trap :=
  let lo := c.dstOf c.pos
  let hi := c.dstOf (c.pos + n)
  match missingPage c.agent needRead (pagesOf (c.src + dw c.pos) n ++ tablePages c lo hi) s with
  | (s, some t) => (s, some t)
  | (s, none) =>
    match c.kind with
    | .multicast => (s, none)
    | _ => missingPage c.agent (copyNeed c) (pagesOf (c.dst + dw lo) (hi - lo)) s

/-- Hold a segment (R256): its hart takes the cause at its next boundary; a halted hart's launch ends; one of a
context that is not resident restarts with it (R266); the rest of a command whose hart or task has gone is discarded
(R265; notes/assumptions/31.md). -/
def holdSegment (s : State) (c : CopyCmd) (t : Trap) : State :=
  let h := getHart s c.hart
  let discard := failCopy (setCopy s { c with pos := 2 ^ 32 }) c t.cause
  if !c.current h then
    if (c.launch.bind (getLaunch s)).any c.savedIn then setCopy s { c with held := some t, reported := false }
    else discard
  else if h.run = .halted then
    match c.launch with
    | some l => finishLaunch s l 11 (dw t.cause.code)
    | none => discard
  else if c.task.isSome ∧ c.task ≠ h.task.map (fun k => (k.reg, k.run)) then discard
  else
    let s := setCopy s { c with held := some t, reported := false }
    setHart s c.hart { h with commandFaults := h.commandFaults ++ [{ trap := t, resume := none }] }

/-- Charge a segment of n bytes to a tenant's budget, once (19 R366); none while tokens are short. -/
def chargeSegment (s : State) (c : CopyCmd) (n : Nat) : Option State :=
  match tenantOf s (c.hart / 4) with
  | some t => if c.paid then some s else charge s t ((n + 4095) / 4096)
  | none => some s

/-- COPY_SEGMENT (R254, R262): a streamer picks the command's next segment, charges it, translates its
pages and sends its units. -/
def execCopySegment (key : Nat) (s : State) : Host.Outcome State Fault Refusal :=
  match getCopy s key with
  | none => ok s
  | some c =>
    if !copyPicked s c then ok s
    else
      let n := segmentBytes c
      match chargeSegment s c n with
      | none => ok (setCopy s { c with parked := some s.cycle })
      | some s =>
        match segmentFault s c n with
        | (s, some t) => ok (holdSegment s { c with paid := true } t)
        | (s, none) =>
          let s := countOwner s c 1 n
          let lo := c.dstOf c.pos
          let hi := c.dstOf (c.pos + n)
          let pieces := if lo = hi then [] else parts (c.dst + dw lo) (hi - lo)
          let (s, us, sat) := formUnits c pieces lo s [] 0
          let s := onChan s c (Channel.note · sat 0)
          let last := decide (c.len ≤ c.pos + n)
          let early := last && c.mbx && !c.relBit && c.kind != .multicast && !c.mboxDone
          let s := if early then addMailbox s (c.mcgid.toNat % 4096) c.midx 1 else s
          ok (arriveCopy s c { c with
            pos := c.pos + n, units := c.units ++ us, mboxDone := c.mboxDone || early, paid := false })

/-! ### Units (R256, R261) -/

/-- A unit of a command has been applied or dropped: it leaves the list, and a receiver with no unit left
has its round delivered (R260). -/
def unitDone (s : State) (key recv : Nat) : State :=
  match getCopy s key with
  | none => s
  | some c =>
    let c := { c with units := c.units.tail }
    let s := setCopy s c
    if c.kind = .multicast ∧ c.len ≤ c.pos ∧ ¬ c.units.any (fun u => u.recv == recv) then
      match c.recvs[recv]? with
      | some r => deliverRound s c r
      | none => s
    else s

/-- COPY_UNIT_APPLY (R254, R256): the oldest unit of a command is applied at its home, or dropped. -/
def execCopyUnitApply (key : Nat) (s : State) : Host.Outcome State Fault Refusal :=
  match getCopy s key with
  | none => ok s
  | some c =>
    match c.kind, c.units with
    | .reduce, _ => ok s
    | _, [] => ok s
    | _, u :: _ =>
      match u.fail with
      | some q => ok (unitDone (failCopy s c q) key u.recv)
      | none =>
        match applyAt s c.agent false u.addr u.mask u.data u.label with
        | (s, none) => ok (unitDone s key u.recv)
        | (s, some q) => ok (unitDone (failCopy s c q) key u.recv)

/-- The sum of two elements of an RTY type, with float flags (R261). -/
def addElem (rty : Nat) (a b : Nat) : Nat × Flags :=
  match rty with
  | 0 => ((a + b) % 2 ^ 32, 0)
  | 1 => ((a + b) % 2 ^ 64, 0)
  | 2 => fAdd .f32 .rne a b
  | 3 => fAdd .f64 .rne a b
  | 4 => fAdd .b16 .rne a b
  | _ => fAdd .f16 .rne a b

/-- A sector with the masked elements of another added in (R261). -/
def addSector (rty : Nat) (mask : BitVec 32) (old new : Sector) : Sector × Flags :=
  let n := rtyBytes rty
  let rs := (List.range (32 / n)).map fun i =>
    let a := old.toNat / 2 ^ (8 * n * i) % 2 ^ (8 * n)
    let b := new.toNat / 2 ^ (8 * n * i) % 2 ^ (8 * n)
    if mask.getLsbD (n * i) then addElem rty a b else (a, 0)
  (BitVec.ofNat 256 (packLanes (8 * n) (rs.map Prod.fst)), unionFlags (rs.map Prod.snd))

/-- Perform one reduce unit at its home (R261): ADDR for host memory, ECC for a bad destination sector, whose consumer
is the streamer (19 R381). -/
def applyReduce (s : State) (c : CopyCmd) (u : CopyUnit) : State × Option Cause × Flags :=
  let ag := c.agent
  let bad := fun (s : State) => (engineMet s ag (.streamer c.hart) ⟨.ecc, u.addr⟩, some Cause.ecc, (0 : Flags))
  match formOf s ag.core u.addr with
  | .bad => (s, some .addr, 0)
  | .slice t off =>
    let key := sectorKey (sliceKey (t.toNat % 4096) off)
    let (d, fl) := addSector c.rty u.mask (memSector s.mem key) u.data
    if isMarked s key then bad s
    else
      match applySlice s ag false (t.toNat % 4096) off u.mask d u.label with
      | (s, none) => (s, none, fl)
      | (s, some q) => (s, some q, 0)
  | .virt va =>
    match translate s ag (copyNeed c) va with
    | (s, .error q) => (s, some q, 0)
    | (s, .ok pl) =>
      let s := reach s pl.key
      if entU pl.leaf then (s, some .addr, 0)
      else if isMarked s pl.key then bad s
      else
        let (d, fl) := addSector c.rty u.mask (memSector s.mem (sectorKey pl.key)) u.data
        match applyPage s ag pl u.mask d u.label with
        | (s, none) => (s, none, fl)
        | (s, some q) => (s, some q, 0)

/-- COPYRD_UNIT_APPLY (R261): the oldest unit of a reduce is added at its home, or dropped. -/
def execCopyrdUnitApply (key : Nat) (s : State) : Host.Outcome State Fault Refusal :=
  match getCopy s key with
  | none => ok s
  | some c =>
    match c.kind, c.units with
    | .reduce, u :: _ =>
      match u.fail with
      | some q => ok (unitDone (failCopy s c q) key u.recv)
      | none =>
        match applyReduce s c u with
        | (s, none, fl) => ok (unitDone (onChan s c (Channel.note · 0 fl)) key u.recv)
        | (s, some q, _) => ok (unitDone (failCopy s c q) key u.recv)
    | _, _ => ok s

/-- Whether a command has sent and applied everything. -/
def copyDone (c : CopyCmd) : Bool := decide (c.len ≤ c.pos) && c.units.isEmpty && c.held.isNone

/-- COPY_COMPLETION (R257): a command is complete; with REL its mailbox rises now (R259), and MARK
moves. -/
def execCopyCompletion (key : Nat) (s : State) : Host.Outcome State Fault Refusal :=
  match getCopy s key with
  | none => ok s
  | some c =>
    if !copyDone c then ok s
    else
      let s := if c.mbx && !c.mboxDone && c.kind != .multicast && decide (c.pos < 2 ^ 32) then
          addMailbox s (c.mcgid.toNat % 4096) c.midx 1
        else s
      let s := coverCopy s c
      ok { s with pk := { s.pk with copies := s.pk.copies.filter fun o => o.key != key } }

/-- BFREE_COMBINE (R260): the oldest BFREE that has reached a sender's counter is counted; the sender's
mailbox rises with the least of its receivers. One that does not belong is dropped and recorded in its issuer's
channel 0, under identity 0, as a BFREE has none (DESIGN CHOICE: notes/assumptions/104.md). -/
def execBfreeCombine (core smbox : Nat) (s : State) : Host.Outcome State Fault Refusal :=
  let co := getCore s core
  match co.frees.find? fun f => f.1 == smbox with
  | none => ok s
  | some f =>
    let co := { co with frees := co.frees.erase f }
    let s := setCore s core co
    let who := (cgidOf s (f.2.hart / 4)).toNat
    let drop := onContext s f.2 fun h => h.withChan 0 (Channel.fail · .illegal 0)
    match groupOf co smbox with
    | none => ok drop
    | some g =>
      if !g.members.contains who ||
          decide (countOf who g.members g.rounds ≤ countOf who g.members g.freed) then ok drop
      else
        let freed := addCount who g.members g.freed
        let low := leastOf freed
        let s := setCore s core (putGroup co { g with freed := freed, counted := low })
        ok (if g.counted < low then addMailbox s core smbox (low - g.counted) else s)

end Sys2Proof.Machine
end

