-- ==== Sys2Proof/Machine/Start.lean ====
section
/-!
DEFINITION. How a hart starts: Understory's placement of logs and spill areas (11 R403), the state of a
hart at start (01 R28, 17 R340, 19 R358), and the state of a core when a launch starts on it (13 R229).
-/

namespace Sys2Proof.Machine

/-- Whether a placement keeps the bounds of 11 R403: log pages and spill pages (all four harts) within a
capacity, above the system area, apart from each other. -/
def placementOk (cap logPages spillPages : Nat) (p : Placement) : Bool :=
  decide (1 ≤ p.logPage) && decide ((p.logPage + logPages) * 4096 ≤ cap) &&
    decide (p.spillPage * 4096 < cap) &&
    (spillPages == 0 ||
      (decide (1 ≤ p.spillPage) && decide ((p.spillPage + spillPages) * 4096 ≤ cap) &&
        (decide (p.spillPage + spillPages ≤ p.logPage) || decide (p.logPage + logPages ≤ p.spillPage))))

/-- A placement with the log at the top of the slice and the spill areas below it. -/
def topPlacement (cap logPages spillPages : Nat) : Placement :=
  { logPage := cap / 4096 - logPages, spillPage := cap / 4096 - logPages - spillPages }

/-- The placement of a launch on a core: the one chosen for its capacity, else the environment's choice if
it keeps the bounds (11 R403; notes/assumptions/22.md). -/
def placementFor (s : State) (l : Launch) (core : Nat) (at_ : Placement) : Option Placement :=
  let cap := capacity s core
  match assocGet l.place cap with
  | some p => some p
  | none => if placementOk cap l.logPages l.spill at_ then some at_ else none

/-- Keep the placement of a capacity for the life of the launch. -/
def keepPlacement (s : State) (key core : Nat) (p : Placement) : State :=
  match getLaunch s key with
  | some l => setLaunch s { l with place := assocSet l.place (capacity s core) p }
  | none => s

/-- The offset of a hart's spill area (11 R403): SPILL KiB each, hart 0 lowest. -/
def spillOffset (l : Launch) (p : Placement) (hart : Nat) : Nat := p.spillPage * 4096 + hart % 4 * (l.spill * 1024)

/-- A core as a launch starts on it: log placed and written to LOGBASE and LOGSIZE (11 R403), receive
queues empty and mailbox counters 0 (13 R229). -/
def Core.placed (c : Core) (key : Nat) (l : Launch) (p : Placement) : Core :=
  { c with
    logbase := dw (p.logPage * 4096)
    logsize := dw (l.logPages * 4096)
    queues := Vector.replicate 16 []
    mailbox := Vector.replicate 8 0
    groups := []
    frees := []
    owner := some key }

/-- x registers at a start: the listed ones, every other one 0. -/
def startRegs : List (Nat × Dword) → Vector Dword 32
  | [] => Vector.replicate 32 0
  | (i, v) :: l => (startRegs l).setIfInBounds i v

/-- The alias address one byte past the top of a spill area (01 R28, 15 R279). -/
def spillTop (off size : Nat) : Dword := dw (2 ^ 62 + off + size)

/-- A hart as it starts afresh under a partition: every register 0 but those that the partition and the
placement give it (01 R28, 17 R314, R340, 19 R358). -/
def freshStart (s : State) (hart : Nat) (key : Option Nat) (lidx off size : Nat) : Hart :=
  let p := partOrNone s (hart / 4)
  let h := Hart.fresh hart
  { h with
    run := .running
    spillbase := dw off
    spillsize := dw size
    s1base := p.s1base
    sup := { h.sup with tvec := p.stvec.getD 0 }
    mach := { h.mach with tvec := Config.machineVector }
    launch := key
    lidx := lidx
    slice := p.slice
    era := s.pk.nextCopy }

/-- Whether a hart launch has harts or contexts on a core (01 R29, 17 R334). -/
def hartLaunchOn (s : State) (core : Nat) : Bool :=
  s.pk.launches.any fun l =>
    !l.isTask && l.state != .queued && l.state != .preempted &&
      (l.contexts.any (fun c => c.1 / 4 == core) ||
        (List.range 4).any fun i => (getHart s (core * 4 + i)).launch == some l.key)

/-- The launch whose tasks run on a core: of a hart that runs one, or that is reserved for a backup (15 R307). -/
def taskLaunchOn (s : State) (core : Nat) : Option Nat :=
  ((List.range 4).filterMap fun i =>
    let h := getHart s (core * 4 + i)
    if h.run = .unloaded then h.reserved.map Prod.fst else h.launch).head?

end Sys2Proof.Machine
end

