-- ==== Sys2Proof/Machine/SysReg.lean ====
section
/-!
DEFINITION. System registers (03 R38 to R50, 17 R317 to R321, R345): access checks, reads, writes, and the
register accesses the spec gives steps of their own.
-/

namespace Sys2Proof.Machine

/-- Whether an address names a register (03 R40, R49, R50). -/
def srAssigned (a : Nat) : Bool :=
  [0x001, 0x002, 0x003, 0x010, 0x011, 0x012, 0x013, 0x020, 0x021, 0x030, 0x040, 0x041, 0x042, 0x048,
    0x049, 0x04A, 0x050, 0x300, 0x301, 0x302, 0x303, 0x304, 0x305, 0x308, 0x800, 0x801, 0x802].contains a
    || (0x100 ≤ a && a ≤ 0x113) || (0x120 ≤ a && a ≤ 0x12B) || (0x130 ≤ a && a ≤ 0x13B)

/-- Registers that are read-only in every mode (03 R38). -/
def srReadOnly (a : Nat) : Bool := [0x020, 0x021, 0x030, 0x042, 0x012, 0x10D].contains a

/-- Registers that user mode only reads (03 R40). -/
def srUserRo (a : Nat) : Bool := [0x040, 0x041, 0x048, 0x049, 0x050].contains a

/-- The access checks of 03 R38, in the order of its rows. -/
def srCheck (mode : Mode) (op : SrOp) (a : Nat) : Option Cause :=
  let w := op != .read
  if !srAssigned a then some .illegal
  else if (a / 0x100 = 1 ∧ mode = .user) ∨ (a / 0x100 = 3 ∧ mode ≠ .machine) then some .priv
  else if w && a / 0x100 == 8 then some .illegal
  else if w && srReadOnly a then some .illegal
  else if (op = .set ∨ op = .clear) ∧ a = 0x10F then some .illegal
  else if w && mode == .user && srUserRo a then some .priv
  else none

/-- SIPND (17 R316, R319): SOFT, and the computed pending bits. -/
def sipnd (s : State) : Dword :=
  let p := partOf s s.cid
  (if s.hart.soft then 1 else 0) ||| (if s.hart.stimecmp.toNat ≤ (dw s.cycle).toNat then 2 else 0) |||
    (if p.any (fun p => !p.notes.isEmpty) then 4 else 0) |||
    (if p.any (fun p => !p.errors.isEmpty) then 8 else 0)

/-- Read one trap register set (17 R317, R318, R323). -/
def trapReg (r : TrapRegs) (i : Nat) : Dword :=
  match i with
  | 0 => r.status | 1 => r.tvec | 2 => r.epc | 3 => r.cause | 4 => r.tval | 5 => r.lacount | _ => r.xpc

/-- SNSTAT (17 R320). -/
def snstat (p : Partition) : Dword :=
  dw (p.notes.length * 2 ^ 32 + (if p.ovf then 256 else 0) + p.errors.length)

/-- LOGFILL (03 R46). -/
def logfill (co : Core) : Dword :=
  dw ((co.log.filter fun r => !r.pubd).length * 2 ^ 16 + co.log.length)

/-- TOPOCAP (01 R17). -/
def topocap (s : State) : Dword :=
  dw (s.pk.pkg * 2 ^ 56 + s.pk.domsz * 2 ^ 48 + dieOf s.cid * 2 ^ 45 + s.cid % 512 * 2 ^ 36 +
    s.hgid % 4 * 2 ^ 34 + (getDie s (dieOf s.cid)).groves.toNat)

/-- SRAMCAP of a die (01 R20). -/
def sramcap (stacked : Bool) : Dword := if stacked then 0xFFF0180 else 0x03F00C0

/-- Whether a bank is absent (01 R19). -/
def bankAbsent (s : State) (n : Nat) : Bool := 6 ≤ n && !(getDie s (dieOf s.cid)).stacked

/-- The value of a system register. -/
def srRead (s : State) (a : Nat) : Dword :=
  let h := s.hart
  let co := s.core
  match a with
  | 0x001 => h.frm.setWidth 64
  | 0x002 => h.fflags.setWidth 64
  | 0x003 => h.vt
  | 0x010 => h.uivec
  | 0x011 => h.uien
  | 0x012 => h.uicause
  | 0x013 => h.uiepc
  | 0x020 => dw s.cycle
  | 0x021 => h.rwc
  | 0x030 => dw ((cgidOf s s.cid).toNat * 4 + s.hgid % 4)
  | 0x040 => co.logbase
  | 0x041 => co.logsize
  | 0x042 => logfill co
  | 0x048 => h.spillbase
  | 0x049 => h.spillsize
  | 0x04A => h.ovfptr
  | 0x050 => h.hla.setWidth 64
  | 0x105 => h.sup.lacount
  | 0x106 => co.qlimit
  | 0x107 => (arriveFlags s.cycle (getGrove s (groveOf s.cid))).gfflags.setWidth 64
  | 0x108 => h.sup.xpc
  | 0x109 => h.sien.setWidth 64
  | 0x10A => sipnd s
  | 0x10B => h.stimecmp
  | 0x10C => h.s1base
  | 0x10D => ((partOf s s.cid).bind fun p => p.notes.head?).getD 0
  | 0x10E => snstat (partOrNone s s.cid)
  | 0x10F => 0
  | 0x305 => h.mach.lacount
  | 0x308 => h.mach.xpc
  | 0x800 => 0x10202020
  | 0x801 => sramcap (getDie s (dieOf s.cid)).stacked
  | 0x802 => topocap s
  | _ =>
    if a / 8 = 0x20 then trapReg h.sup (a % 8)
    else if a / 8 = 0x60 then trapReg h.mach (a % 8)
    else if a / 16 = 0x11 then (co.win[a % 16]?).getD 0
    else if a / 16 = 0x12 then (if bankAbsent s (a % 16) then 0 else (co.bfmt[a % 16]?).getD 0)
    else if a / 16 = 0x13 then (if bankAbsent s (a % 16) then 0 else (co.blbl[a % 16]?).getD 0)
    else 0

/-- XSTATUS after a write (17 R317, R321): `top` is the highest mode code MDS takes. -/
def statusWrite (old v : Dword) (top : Nat) : Dword :=
  let rw : Dword := 0xC1
  let m := if bits v 4 2 ≤ top then v &&& 0x30 else old &&& 0x30
  (old &&& 0xC00) ||| (v &&& rw) ||| m

/-- A trap register set after a write of register i. A return goes to what XEPC holds (17 R324): with another address
written to it, the places recorded at the trap's entry are those of its window no longer. -/
def TrapRegs.write (r : TrapRegs) (i top : Nat) (v : Dword) : TrapRegs :=
  match i with
  | 0 => { r with status := statusWrite r.status v top }
  | 1 => { r with tvec := v &&& ~~~3 }
  | 2 => { r with
      epc := v &&& ~~~3
      path := if r.path.head?.any (fun p => p.pc == v &&& ~~~3) then r.path else [] }
  | 3 => { r with cause := v &&& 0xC0000000000000FF }
  | 4 => { r with tval := v }
  | 5 => { r with lacount := v &&& 0x7FFF000F }
  | _ => { r with xpc := v &&& ~~~3 }

/-- Whether a BFMT value is allowed (13 R240). -/
def bfmtOk (v : Dword) : Bool :=
  bits v 5 2 != 3 && (!bit v 4 || [12, 13, 15].contains (bits v 0 4))

/-- What a register write does: a new state, ILLEGAL, or ADDR with an address. -/
inductive Written
  | done (s : State)
  | illegal
  | addr (e : Dword)
  | wait (s : State)

/-- Whether LOGBASE and LOGSIZE are allowed on a core (03 R46, 11 R185, R212). -/
def logOk (s : State) (co : Core) : Bool :=
  let b := co.logbase.toNat
  let z := co.logsize.toNat
  decide (0x1000 ≤ b) && decide (b + z ≤ capacity s s.cid) && decide (4 * 4096 ≤ z) &&
    decide (z ≤ 48 * 4096) && windowsClear co (coreContexts s s.cid)

/-- Write LOGBASE or LOGSIZE (03 R46). -/
def writeLog (s : State) (size : Bool) (v : Dword) : Written :=
  let v := v &&& 0x7F000
  let co := if size then { s.core with logsize := v } else { s.core with logbase := v }
  if s.core.log.isEmpty && logOk s co then .done { s with core := co } else .illegal

/-- Write SPILLBASE or SPILLSIZE (03 R47, 11 R212). -/
def writeSpill (s : State) (size : Bool) (v : Dword) : Written :=
  let h := if size then { s.hart with spillsize := v &&& 0x1FFFF } else { s.hart with spillbase := v &&& 0x7FFFF }
  let r := spillRun h
  let s' := { s with hart := h }
  if r.1 % 4096 = 0 ∧ r.2 % 4096 = 0 ∧ r.2 ≤ 65536 ∧ (r.2 = 0 ∨ r.1 + r.2 ≤ capacity s s.cid) ∧
      !overlap r systemArea ∧ !overlap r (logRun s.core) ∧ windowsClear s.core (coreContexts s' s.cid) then
    .done s'
  else .illegal

/-- Write HLA (03 R48). -/
def writeHla (s : State) (v : Dword) : Written :=
  let l : Lsid := BitVec.ofNat 10 (bits v 0 10)
  if ((partOf s s.cid).bind fun p => maskOf p l).isSome then .done { s with hart := { s.hart with hla := l } }
  else .illegal

/-- Form a release of the core's log and wait for it. -/
def winRelease (s : State) (k : State → Written) : Written :=
  let (s, st) := formRelease s s.cid
  let s := settle s s.cid
  let s := { s with hart := { s.hart with waitStamp := some st } }
  if isForming s.core st then .wait (stall s) else k s

/-- Whether the log holds a record, not yet applied, of the core's own slice: a store that a window logged. -/
def ownRecords (s : State) : Bool := s.core.log.any fun r => !r.task && !r.applied && ownSlice s s.cid r.addr

/-- Write a window register: checks, then a PUB of the core's log, then the effect (11 R212). What other harts of the
core log under a window meanwhile is published too, so that it does not land on bytes that have since become private.
The write is no synchronising instruction of R210, so its wait reports neither the hart's held record nor its LOGERR
(DESIGN CHOICE: notes/assumptions/54.md). -/
def writeWin (s : State) (n : Nat) (v : Dword) : Written :=
  let v := v &&& 0xF0000007F007F000
  let set := fun (s : State) => Written.done { s with core := { s.core with win := s.core.win.setIfInBounds n v } }
  let co := { s.core with win := s.core.win.setIfInBounds n v }
  let bad := bit v 63 && (decide (bits v 28 7 < bits v 12 7) ||
    decide (capacity s s.cid < (bits v 28 7 + 1) * 4096) || !windowsClear co (coreContexts s s.cid))
  if bad then .illegal
  else
    match s.hart.waitStamp with
    | some st =>
      if isForming s.core st then .wait (stall s)
      else if ownRecords s then winRelease s set
      else set s
    | none => winRelease s set

/-- Write a bank label: the union, or a zeroing of the bank, after which the hart is not ready for 1,024 cycles
(11 R220). The bank is zero from the start of the zeroing, so units that arrive meanwhile count as
applied after it (notes/assumptions/75.md). A second zeroing of the core waits for the first. -/
def writeBlbl (s : State) (n : Nat) (v : Dword) : Written :=
  let l : Lsid := BitVec.ofNat 10 (bits v 0 10)
  if bankAbsent s n then .done s
  else if l = 0 then
    let bank : Run := (n * 0x8000, 0x8000)
    if overlap bank systemArea || overlap bank (logRun s.core) then .illegal
    else if s.core.zeroing.isSome then .wait (stall s)
    else
      let k := sliceKey s.cid bank.1
      .done { s with
        mem := memZero s.mem k (k + 0x8000)
        core := { s.core with
          blbl := s.core.blbl.setIfInBounds n 0, zeroing := some (BitVec.ofNat 4 n, s.cycle, s.hgid) } }
  else
    match (partOf s s.cid).bind fun p => maskOf p l with
    | none => .illegal
    | some m => .done (widenBank s s.hart.launch s.cid n m)

/-- Write a bank format (13 R240). -/
def writeBfmt (s : State) (n : Nat) (v : Dword) : Written :=
  if bankAbsent s n then .done s
  else
    let v := dw (bits v 34 17 * 2 ^ 34 + bits v 0 7)
    if bfmtOk v then .done { s with core := { s.core with bfmt := s.core.bfmt.setIfInBounds n v } }
    else .illegal

/-- A W1C write of GFFLAGS: a flag that arrives in the cycle of the write stays set (05 R90). -/
def writeGfflags (s : State) (v : Dword) : State :=
  let k := groveOf s.cid
  let g := arriveFlags (s.cycle - 1) (getGrove s k)
  setGrove s k (arriveFlags s.cycle { g with gfflags := g.gfflags &&& ~~~(v.setWidth 13) })

/-- A write of FFLAGS (05 R88): the flags it sets go to the grove's union as any other (R90). -/
def writeFflags (s : State) (v : Flags) : State :=
  flagsToGrove { s with hart := { s.hart with fflags := v } } (groveOf s.cid)
    (hartFlags (v &&& ~~~s.hart.fflags))

/-- A write of SNSTAT: OVF is W1C (17 R320). -/
def writeSnstat (s : State) (v : Dword) : State :=
  match partOf s s.cid with
  | some p => if bit v 8 then setPart s { p with ovf := false } else s
  | none => s

/-- A write of SERRCP: the oldest supervisor error entry goes to the own slice as a private store and is
removed (17 R320). -/
def writeSerrcp (s : State) (v : Dword) : Written :=
  match partOf s s.cid with
  | none => .done s
  | some p =>
    match p.errors with
    | [] => .done s
    | e :: rest =>
      let off := bits v 5 14 * 32
      let a := sAddress (cgidOf s s.cid) off
      if off + 32 ≤ capacity s s.cid ∧ isPrivate s s.cid a ∧ !overlap (off, 32) systemArea ∧
          !inLog s.core off 32 then
        .done (applyPrivate (setPart s { p with errors := rest })
          [{ addr := a, mask := BitVec.allOnes 32, data := BitVec.ofNat 256 (ofBytes e.bytes), stk := false }])
      else .addr a

/-- Store a value in a system register. -/
def srWrite (s : State) (a : Nat) (v : Dword) : Written :=
  let h := s.hart
  let onH := fun (h : Hart) => Written.done { s with hart := h }
  match a with
  | 0x001 => if bits v 0 3 ≤ 4 then onH { h with frm := BitVec.ofNat 3 (bits v 0 3) } else .illegal
  | 0x002 => .done (writeFflags s (v.setWidth 5))
  | 0x003 => onH { h with vt := v &&& 0x1FF0F }
  | 0x010 => onH { h with uivec := v &&& ~~~3 }
  | 0x011 => onH { h with uien := v &&& 3 }
  | 0x013 => onH { h with uiepc := v &&& ~~~3 }
  | 0x040 => writeLog s false v
  | 0x041 => writeLog s true v
  | 0x048 => writeSpill s false v
  | 0x049 => writeSpill s true v
  | 0x04A => onH { h with ovfptr := v &&& 0xFFFFFFFFFFFFF8 }
  | 0x050 => writeHla s v
  | 0x106 => .done { s with core := { s.core with qlimit := v &&& 0xFFFFFFFF } }
  | 0x107 => .done (writeGfflags s v)
  | 0x105 => onH { h with sup := h.sup.write 5 1 v }
  | 0x108 => onH { h with sup := h.sup.write 6 1 v }
  | 0x109 => onH { h with sien := v.setWidth 4 }
  | 0x10A => onH { h with soft := bit v 0 }
  | 0x10B => onH { h with stimecmp := v }
  | 0x10C => onH { h with s1base := v &&& 0xFFFFFFFFFFE000 }
  | 0x10E => .done (writeSnstat s v)
  | 0x10F => writeSerrcp s v
  | 0x305 => onH { h with mach := h.mach.write 5 2 v }
  | 0x308 => onH { h with mach := h.mach.write 6 2 v }
  | _ =>
    if a / 8 = 0x20 then onH { h with sup := h.sup.write (a % 8) 1 v }
    else if a / 8 = 0x60 then onH { h with mach := h.mach.write (a % 8) 2 v }
    else if a / 16 = 0x11 then writeWin s (a % 16) v
    else if a / 16 = 0x12 then writeBfmt s (a % 16) v
    else if a / 16 = 0x13 then writeBlbl s (a % 16) v
    else .done s

/-- The value a write stores (17 R345). -/
def srValue (op : SrOp) (old v : Dword) : Dword :=
  match op with
  | .read => old
  | .write => v
  | .set => old ||| v
  | .clear => old &&& ~~~v

/-- Wait for the outstanding class L floating-point instructions before FFLAGS is accessed (05 R89,
07 R120; notes/assumptions/10.md): their windows are closed. -/
def settleFp (s : State) : State :=
  completeAll s (s.hart.pend.filter fun p => p.fp)

/-- Remove the note an SRD of HNOTE returned (17 R320). -/
def popNote (s : State) : State :=
  match partOf s s.cid with
  | some p => setPart s { p with notes := p.notes.drop 1 }
  | none => s

/-- An access to a system register (03 R38, R39, 17 R345): rd takes the old value. -/
def sysAccess (s : State) (op : SrOp) (a : Nat) (d r : Reg) : State :=
  match srCheck s.hart.mode op a with
  | some c => if c = .priv then privFault s else illegal s
  | none =>
    if a = 2 ∧ s.hart.pend.any fun p => p.fp && p.fault.isSome then raiseWindow s
    else if a = 2 ∧ s.hart.pend.any fun p => p.fp && !pendReady s p then pause s
    else
      let s := if a = 2 then settleFp s else s
      let old := srRead s a
      let v := s.hart.rx r
      if op = .read then
        let s := if a = 0x10D then popNote s else s
        onHart s fun h => (h.wx d old).retire
      else
        match srWrite s a (srValue op old v) with
        | .done s => onHart s fun h => (h.wx d old).retire
        | .illegal => illegal s
        | .addr e => raise s .addr e
        | .wait s => s

/-- SRD (17 R345). -/
def execSrd (d : Reg) (sr : BitVec 12) (s : State) : Host.Outcome State Fault Refusal :=
  ok (sysAccess s .read sr.toNat d 0)
/-- SWR (17 R345). -/
def execSwr (d a : Reg) (sr : BitVec 12) (s : State) : Host.Outcome State Fault Refusal :=
  ok (sysAccess s .write sr.toNat d a)
/-- SSET (17 R345). -/
def execSset (d a : Reg) (sr : BitVec 12) (s : State) : Host.Outcome State Fault Refusal :=
  ok (sysAccess s .set sr.toNat d a)
/-- SCLR (17 R345). -/
def execSclr (d a : Reg) (sr : BitVec 12) (s : State) : Host.Outcome State Fault Refusal :=
  ok (sysAccess s .clear sr.toNat d a)

/-- An access to FRM (03 R41). -/
def execFrmWrite (op : SrOp) (d a : Reg) (s : State) : Host.Outcome State Fault Refusal :=
  ok (sysAccess s op 0x001 d a)
/-- An access to FFLAGS (05 R89). -/
def execFflagsAccess (op : SrOp) (d a : Reg) (s : State) : Host.Outcome State Fault Refusal :=
  ok (sysAccess s op 0x002 d a)
/-- An access to LOGBASE or LOGSIZE (03 R46). -/
def execLogbaseWrite (size : Bool) (op : SrOp) (d a : Reg) (s : State) :
    Host.Outcome State Fault Refusal :=
  ok (sysAccess s op (if size then 0x041 else 0x040) d a)
/-- An access to SPILLBASE or SPILLSIZE (03 R47). -/
def execSpillbaseWrite (size : Bool) (op : SrOp) (d a : Reg) (s : State) :
    Host.Outcome State Fault Refusal :=
  ok (sysAccess s op (if size then 0x049 else 0x048) d a)
/-- An access to HLA (03 R48). -/
def execHlaWrite (op : SrOp) (d a : Reg) (s : State) : Host.Outcome State Fault Refusal :=
  ok (sysAccess s op 0x050 d a)
/-- An access to a window register (11 R212). -/
def execWinWrite (n : BitVec 2) (op : SrOp) (d a : Reg) (s : State) :
    Host.Outcome State Fault Refusal :=
  ok (sysAccess s op (0x110 + n.toNat) d a)
/-- An access to a bank label (11 R220); there are 12. -/
def execBlblWrite (n : BitVec 4) (op : SrOp) (d a : Reg) (s : State) :
    Host.Outcome State Fault Refusal :=
  ok (sysAccess s op (0x130 + n.toNat) d a)
/-- An access to a bank format (13 R240). -/
def execBfmtWrite (n : BitVec 4) (op : SrOp) (d a : Reg) (s : State) :
    Host.Outcome State Fault Refusal :=
  ok (sysAccess s op (0x120 + n.toNat) d a)
/-- An access to GFFLAGS (05 R90). -/
def execGfflagsClear (op : SrOp) (d a : Reg) (s : State) : Host.Outcome State Fault Refusal :=
  ok (sysAccess s op 0x107 d a)
/-- SRD of HNOTE (17 R320). -/
def execHnoteRead (d : Reg) (s : State) : Host.Outcome State Fault Refusal :=
  ok (sysAccess s .read 0x10D d 0)
/-- SWR of SERRCP (17 R320). -/
def execSerrcpWrite (d a : Reg) (s : State) : Host.Outcome State Fault Refusal :=
  ok (sysAccess s .write 0x10F d a)
/-- An access to SIPND (17 R319). -/
def execSipndSoftWrite (op : SrOp) (d a : Reg) (s : State) : Host.Outcome State Fault Refusal :=
  ok (sysAccess s op 0x10A d a)

end Sys2Proof.Machine
end

