-- ==== Sys2Proof/Machine/System.lean ====
section
/-!
DEFINITION. System instructions other than register accesses (17 R324, R329, R344, R346 to R348).
-/

namespace Sys2Proof.Machine

/-- SCALL: ILLEGAL in machine mode (17 R346). -/
def execScall (c : BitVec 12) (s : State) : Host.Outcome State Fault Refusal :=
  ok (if s.hart.mode = .machine then illegal s else raiseNext s .scall (c.setWidth 64))

/-- MCALL (17 R346). -/
def execMcall (c : BitVec 12) (s : State) : Host.Outcome State Fault Refusal :=
  ok (raiseNext s .mcall (c.setWidth 64))

/-- BREAK (17 R346). -/
def execBrk (c : BitVec 12) (s : State) : Host.Outcome State Fault Refusal :=
  ok (raise s .brk (c.setWidth 64))

/-- TRAPI: traps when x[ra] is not 0 (17 R346). -/
def execTrapi (a : Reg) (c : BitVec 12) (s : State) : Host.Outcome State Fault Refusal :=
  ok (if s.hart.rx a = 0 then onHart s Hart.retire else raiseNext s .trapi (c.setWidth 64))

/-- Re-submit the held record of a hart with RESUB set; sending resumes (11 R209, 17 R324). -/
def resubmit (s : State) (hart : Nat) : State :=
  match heldOf s hart with
  | none => s
  | some (r, _) =>
    let co := getCore s (hart / 4)
    setCore s (hart / 4)
      { co with
        held := none
        log := co.log.map fun x => if x.rid = r.rid then { x with resub := true, pubd := true } else x }

/-- Sending resumes once no record is held (11 R209): the tails of the releases still forming, and the whole log
where it is three quarters full (R194). -/
def resumeSending (s : State) (core : Nat) : State :=
  let co := getCore s core
  if co.held.isSome then s
  else if crowded co then setCore s core (sendAll co)
  else
    match co.forming.getLast? with
    | none => s
    | some r => setCore s core { co with
        log := co.log.map fun x => if !x.task && x.rid < r.bound then { x with pubd := true } else x }

/-- Restart the held copy segments of a hart (13 R256, 17 R324). -/
def restartSegments (s : State) (hart : Nat) : State :=
  { s with pk := { s.pk with
    copies := s.pk.copies.map fun c =>
      if c.hart = hart ∧ c.held.isSome ∧ c.reported = true then { c with held := none, reported := false } else c } }

/-- Whether a hart of a task launch runs no task: back in user mode it waits for the next one (15 R301). -/
def idleTaskHart (s : State) : Bool :=
  s.hart.task.isNone && s.hart.mode == .user && !s.hart.initRun &&
    (s.hart.launch.bind (getLaunch s)).any fun l => l.isTask

/-- RETS and RETM from a trap register set (17 R324). -/
def returnFrom (s : State) (mach : Bool) : State :=
  let r := if mach then s.hart.mach else s.hart.sup
  let hart := s.hgid
  let r' := { r with status := returnStatus r.status, slot := none, path := [] }
  let h := s.hart.leave r
  let h := if mach then { h with mach := r' } else { h with sup := r' }
  let s := { s with hart := h }
  let s := resumeSending (resubmit s hart) (hart / 4)
  let s := restartSegments s hart
  let s := releaseServed { s with hart := { s.hart with fromEvents := s.hart.fromEvents.drop 1 } }
    (s.hart.fromEvents.head?.bind id)
  if bit r.status 11 then
    let c := s.hart.cancelled
    releaseServed (freeActing { s with hart := { s.hart with cancelled := none } }) c
  else if idleTaskHart s then freeActing s
  else s

/-- RETS: supervisor (17 R344). -/
def execRets (s : State) : Host.Outcome State Fault Refusal :=
  ok (if s.hart.mode = .user then privFault s else returnFrom s false)

/-- RETM: machine (17 R344). -/
def execRetm (s : State) : Host.Outcome State Fault Refusal :=
  ok (if s.hart.mode = .machine then returnFrom s true else privFault s)

/-- UIEN after RETU: IE takes PIE (17 R329). -/
def uienReturn (v : Dword) : Dword := (v &&& 2) ||| (if bit v 1 then 1 else 0)

/-- RETU: ILLEGAL outside a user-level handler (17 R329, R346). -/
def execRetu (s : State) : Host.Outcome State Fault Refusal :=
  ok (if s.hart.uih then
      onHart s fun h => { h.count with uih := false, uien := uienReturn h.uien, uicause := 0, pc := h.uiepc }
    else illegal s)

/-- IDLE (17 R347): the hart is not ready until IDLE_WAKE. -/
def execIdle (s : State) : Host.Outcome State Fault Refusal :=
  ok (onHart s fun h => { h.retire with run := .idle })

/-- The hart has halted (17 R347): the launch completes when every one of its harts has (01 R28), an
initialisation run when every hart of it has (19 R358). -/
def haltHart (s : State) : State :=
  let s := onHart s fun h => { h.retire with run := .halted }
  if s.hart.initRun then
    match partOf s s.cid with
    | none => s
    | some p =>
      match p.rtload with
      | none => s
      | some (c, n) =>
        if 1 < n then setPart s { p with rtload := some (c, n - 1) }
        else
          let hs := (knownHarts s).filter fun h => (getHart s h).initRun && covers p.handle (h / 4)
          complete (hs.foldl unloadHart (setPart s { p with rtload := none })) c 0 0
  else
    match s.hart.launch.bind (getLaunch s) with
    | none => s
    | some l =>
      let l := { l with halted := s.hart.lidx :: l.halted.filter fun i => i != s.hart.lidx }
      let s := setLaunch s l
      if !l.isTask && l.count ≤ l.halted.length then finishLaunch s l.key 0 0 else s

/-- HALT (17 R347). In a task it raises TASKCTX. -/
def execHalt (s : State) : Host.Outcome State Fault Refusal :=
  ok (
    if inTask s.hart then raise s .taskctx 0
    else
      syncFirst s fun s =>
        let s := closeLease s s.hgid
        publish s fun s _ => haltHart s)

/-- Remove held translations of a partition from every slice of every die (17 R342): those of a page that
covers an address, or every entry. -/
def dropHeld (s : State) (handle : Nat) (stage2 : Bool) (a : Option Dword) : State :=
  let gone := fun (l : HeldLeaf) => l.part == handle && match a with
    | none => true
    | some v => l.page == v.toNat / 2 ^ l.bits
  { s with dies := mapUnits (fun d =>
    if stage2 then { d with held2 := d.held2.filter fun l => !gone l }
    else { d with held1 := d.held1.filter fun l => !gone l }) s.dies }

/-- XLINV: a PUB first, then the removal, which XLINV_COMPLETION finishes (17 R342, R348). "When ra is 0"
is read as the register field (notes/assumptions/23.md). XLINV is no synchronising instruction of 11 R210: its wait
reports neither the hart's held record nor its LOGERR (DESIGN CHOICE: notes/assumptions/54.md). -/
def xlinv (s : State) (stage2 : Bool) (a : Reg) : State :=
  match s.hart.inv with
  | some (_, _, true) => onHart s Hart.retire
  | some (_, _, false) => stall s
  | none =>
    publish s fun s _ =>
      let v := if a = 0 then none else some (s.hart.rx a)
      stall { s with hart := { s.hart with inv := some (v, stage2, false) } }

/-- XLINV.s1: supervisor (17 R344). -/
def execXlinvS1 (a : Reg) (s : State) : Host.Outcome State Fault Refusal :=
  ok (if s.hart.mode = .user then privFault s else xlinv s false a)

/-- XLINV.s2: machine (17 R344). -/
def execXlinvS2 (a : Reg) (s : State) : Host.Outcome State Fault Refusal :=
  ok (if s.hart.mode = .machine then xlinv s true a else privFault s)

/-- XLINV_COMPLETION (17 R342): the removal of a hart's XLINV is done on every die of its partition. -/
def execXlinvCompletion (hart : Nat) (s : State) : Host.Outcome State Fault Refusal :=
  let h := getHart s hart
  match h.inv with
  | some (a, stage2, false) =>
    let s := dropHeld s (handleAt s (hart / 4)) stage2 a
    ok (setHart s hart { h with inv := some (a, stage2, true) })
  | _ => ok s

/-- BANK_ZERO_COMPLETION (11 R220): the 1,024 cycles of a bank zeroing have passed. -/
def execBankZeroCompletion (core : Nat) (s : State) : Host.Outcome State Fault Refusal :=
  let co := getCore s core
  match co.zeroing with
  | none => ok s
  | some (_, since, _) => ok { setCore s core { co with zeroing := none } with cycle := max s.cycle (since + 1024) }

end Sys2Proof.Machine
end

