-- ==== Sys2Proof/Machine/Task.lean ====
section
/-!
DEFINITION. Tasks (15): tiles, registrations and pins (R268 to R278), commit decisions and accepts (R285 to
R292), release and placement in ready queues (R277, R278, R299, R300), counters (R295 to R298), and the TK
instructions (R312).
-/

namespace Sys2Proof.Machine

/-! ### Descriptors and registrations (R276) -/

def TaskReg.cls (r : TaskReg) : Nat := dbits r.desc 48 6
def TaskReg.nobase (r : TaskReg) : Bool := dbits r.desc 57 1 == 1
def TaskReg.hedge (r : TaskReg) : Bool := dbits r.desc 58 1 == 1
def TaskReg.entry (r : TaskReg) : Dword := dw (dbits r.desc 128 64)
def TaskReg.arg (r : TaskReg) : Dword := dw (dbits r.desc 192 64)

/-- OUTTILE, none for 0xFFFF_FFFF. -/
def TaskReg.out (r : TaskReg) : Option Nat :=
  if dbits r.desc 256 32 = 0xFFFFFFFF then none else some (dbits r.desc 256 32)

/-- The input tiles IN0 to IN(NIN − 1). -/
def TaskReg.inputs (r : TaskReg) : List Nat :=
  (List.range (dbits r.desc 288 4)).map fun i => dbits r.desc (320 + 32 * i) 32

/-- Whether a registration has been accepted or has ended. -/
def TaskReg.gone (r : TaskReg) : Bool := r.state == .won || r.state == .ended

/-- The copies of a registration's current run (R286). -/
def TaskReg.current (r : TaskReg) : List RunCopy := r.copies.filter fun c => c.run == r.run

/-- Whether a copy has issued COMMIT (R285). -/
def RunCopy.committed (c : RunCopy) : Bool := c.state == .committing || c.state == .parked

/-- Change one copy of a registration. -/
def TaskReg.onCopy (r : TaskReg) (hart : Nat) (tag : BitVec 16) (f : RunCopy → RunCopy) : TaskReg :=
  { r with copies := r.copies.map fun c => if c.hart = hart ∧ c.tag = tag then f c else c }

/-- Change a registration of a launch. -/
def onReg (s : State) (key id : Nat) (f : TaskReg → TaskReg) : State :=
  match getLaunch s key with
  | some l => setLaunch s { l with regs := l.regs.map fun r => if r.id = id then f r else r }
  | none => s

/-! ### Tiles and pins (R269, R278, R285) -/

/-- A tile of a launch. -/
def tileAt (l : Launch) (t : Nat) : Option TileState := l.tiles[t]?

/-- The current version of a registration's output tile, 0 without one (R278). -/
def outVersion (l : Launch) (r : TaskReg) : Nat := ((r.out.bind (tileAt l)).map (·.version)).getD 0

/-- Pin the current version of a tile: the pin, none for an RO tile, and the slot's address (R278). -/
def pinTile (l : Launch) (t : Nat) : Option (Nat × Nat) × Dword :=
  match tileAt l t with
  | none => (none, 0)
  | some x => if x.ro then (none, x.slot 0) else (some (t, x.version % x.slots), x.slot x.version)

/-- Whether some other registration holds a live pin on a slot (R285). -/
def livePin (l : Launch) (g : TaskReg) (tile slot : Nat) : Bool :=
  l.regs.any fun h =>
    h.id != g.id && !h.gone && (h.pins ++ h.tpins).contains (tile, slot) &&
      !(!h.current.isEmpty && h.current.all RunCopy.committed)

/-! ### Decisions (R286) -/

/-- What a home decides about a commit request. -/
inductive Decision
  | accept | abort | cancel | park
  deriving DecidableEq, Repr

/-- The decision on a commit of a copy of run `run` of registration g (R286). -/
def decide' (l : Launch) (g : TaskReg) (run : Nat) : Decision :=
  let early := g.gone || run != g.run
  match g.out with
  | none => if early || l.noneAccepted.contains (g.die, g.ident) then .cancel else .accept
  | some t =>
    match tileAt l t with
    | none => .cancel
    | some x =>
      if early || x.accepted.contains g.ident then .cancel
      else if !g.nobase && g.base != x.version then .abort
      else if livePin l g t ((x.version + 1) % x.slots) then .park
      else if l.regs.any fun h =>
          h.id != g.id && !h.gone && h.out == some t && h.before g && (g.nobase || h.base == g.base) then .park
      else .accept

/-! ### Ready queues and placement (R299, R300) -/

/-- The dies that hold cores of a partition. -/
def partDies (handle : Nat) : List Nat := ((partCores handle).map dieOf).eraseDups

/-- The lowest-numbered die of a partition. -/
def lowestDie (handle : Nat) : Nat := ((partDies handle).head?).getD 0

/-- The groves of a partition on a die that are in service. -/
def partGroves (s : State) (handle die : Nat) : List Nat :=
  ((List.range 32).map fun i => die * 32 + i).filter fun g =>
    match (groveCores g).head? with
    | some c => covers handle c && inService s c
    | none => false

/-- What is bound for a home in another package waits while that package is unreachable (21 R391). -/
def reachHome (s : State) (home : Option Nat) : State :=
  match home with
  | some h => if 4096 ≤ h ∧ h < 2 ^ 20 then reach s ((h - 4096) / 32 * 2 ^ 36) else s
  | none => s

/-- The die of a home (R278, 21 R384). -/
def homeDie (home : Nat) : Nat := if home < 4096 then dieOf home else (home - 4096) / 64

/-- The grove a registration is placed on (R300). -/
def placeGrove (s : State) (l : Launch) (r : TaskReg) : Nat :=
  let home := ((r.out.bind (tileAt l)).map (·.home))
  let die := match home with
    | some h => if (partDies l.part).contains (homeDie h) then homeDie h else r.die
    | none => r.die
  match home.filter fun h => decide (h < 4096) && dieOf h == die with
  | some h => groveOf h
  | none =>
    let gs := partGroves s l.part die
    (gs.foldl (fun (best : Option (Nat × Nat)) g =>
      let n := (getGrove s g).ready.length
      match best with
      | some (m, _) => if n < m then some (n, g) else best
      | none => some (n, g)) none).elim 0 Prod.snd

/-- Put a registration in the ready queue of its grove, or in the die's pool when that is full (R299). -/
def placeReg (s : State) (key : Nat) (r : TaskReg) : State :=
  match getLaunch s key with
  | none => s
  | some l =>
    let gk := placeGrove s l r
    let g := getGrove s gk
    if g.ready.length < 64 then setGrove s gk { g with ready := g.ready ++ [(key, r.id)] }
    else
      let d := getDie s (gk / 32)
      setDie s (gk / 32) { d with pool := d.pool ++ [(gk, key, r.id)] }

/-- Release a registration again under R292: the current version as base, fresh pins, a new run, queued.
Copies of the earlier run that still run get CANCEL. -/
def reRelease (s : State) (key id : Nat) : State :=
  match getLaunch s key with
  | none => s
  | some l =>
    match regOf l id with
    | none => s
    | some r =>
      let ps := r.inputs.map (pinTile l)
      let r' : TaskReg := { r with
        base := outVersion l r
        run := r.run + 1
        state := .queued
        pins := ps.filterMap Prod.fst
        tpins := []
        inAddr := ps.map Prod.snd
        logfull := false
        tokenWait := none
        lost := []
        assisted := false
        prio := if l.spent then 7 else r.prio
        copies := r.copies.map fun (c : RunCopy) => if c.state = CopyState.running then { c with state := CopyState.cancelled } else c }
      placeReg (setLaunch s (setReg l r')) key r'

/-- Take a registration off when it is over and no copy is left (R291), and end the launch when nothing
is left of it (R275). -/
def retireReg (s : State) (key id : Nat) : State :=
  match getLaunch s key with
  | none => s
  | some l =>
    setLaunch s { l with regs := l.regs.filter fun r => !(r.id == id && r.gone && r.copies.isEmpty) }

/-- Whether a hart of a launch has an event to take, or runs a handler outside a task (R298, 17 R327). -/
def eventsLeft (s : State) (key : Nat) : Bool :=
  (launchHarts s key).any fun k =>
    let h := getHart s k
    h.task.isNone && (h.run == .running || (!h.events.isEmpty && (h.mode == .user || bit h.sup.status 0)))

/-- The launch completes when no task of it is left and no release is in progress: VALUE is the number of
counters still armed (R275). Events that its harts can take are taken, and their handlers return, before it
(R298; notes/assumptions/93.md). -/
def settleLaunch (s : State) (key : Nat) : State :=
  match getLaunch s key with
  | none => s
  | some l =>
    if l.isTask && (l.state == .running || l.state == .stopping) && l.regs.isEmpty && l.units.isEmpty && l.releases.isEmpty &&
        !eventsLeft s key then
      finishLaunch s key 0 (dw (l.counters.filter (·.armed)).length)
    else s

/-! ### Accepts (R289, R290) -/

/-- The task records of a copy that its commit carries: stack records stay behind (R282, R290). -/
def commitRecords (s : State) (c : RunCopy) : List Record :=
  (getCore s (c.hart / 4)).log.filter fun r => r.task && r.tag == c.tag && !r.stk

/-- Drop the records of a copy (R288). -/
def dropRecords (s : State) (hart : Nat) (tag : BitVec 16) : State :=
  let co := getCore s (hart / 4)
  setCore s (hart / 4) { co with log := co.log.filter fun r => !(r.task && r.tag == tag) }

/-- Apply records in order at an address shift; the first that fails, with its cause and the address of
its first byte (R290). -/
def applyRecords (core : Nat) (launch : Option Nat) (shift : Dword) :
    List Record → State → State × Option Trap
  | [], s => (s, none)
  | r :: l, s =>
    match applyAt s (r.agent core launch) true (r.addr + shift) r.mask r.data (maskAt s core r.lsid) with
    | (s, some c) => (s, some ⟨c, firstByte (r.addr + shift) r.mask⟩)
    | (s, none) => applyRecords core launch shift l s

/-- One record in place of those of one sector, later ones over earlier ones (R290): the label is the
union, taken when it is applied. -/
def mergeRecord (s : State) (core : Nat) (r : Record) :
    List (Record × Mask) → List (Record × Mask)
  | [] => [(r, maskAt s core r.lsid)]
  | (o, m) :: l =>
    if o.addr = r.addr then
      ({ o with
          mask := o.mask ||| r.mask
          data := (o.data &&& ~~~(maskBits r.mask)) ||| (r.data &&& maskBits r.mask) },
        m ||| maskAt s core r.lsid) :: l
    else (o, m) :: mergeRecord s core r l

/-- Apply the units of an accept. The core's loads read anew the sectors that its records wrote, which they were
forwarded before (11 R192, R201). -/
def applyMerged (core : Nat) (launch : Option Nat) (shift : Dword) : List (Record × Mask) → State → State
  | [], s => s
  | (r, m) :: l, s =>
    let ((s, _), key) := applyTo s (r.agent core launch) true (r.addr + shift) r.mask r.data m
    applyMerged core launch shift l (dropView s core key.toList)

/-- Floor of log2 of a rate, in buckets 0 to 15 (R303). -/
def bucketOf (rate : Nat) : Nat := min 15 (log2Fuel 64 rate)

/-- Count an accept in its class's histogram, halved when its total reaches 256 (R304). -/
def TaskClass.count (c : TaskClass) (b : Nat) : TaskClass :=
  let h := modifyAt (· + 1) c.hist b
  { c with hist := if 256 ≤ h.sum then h.map (· / 2) else h }

/-- The number that orders accepting homes (R297): cores by CGID, then heartwood apply units by package, then die,
then channel, then the die schedulers of tasks with no output tile. -/
def homeOrder (pkg : Nat) (l : Launch) (r : TaskReg) : Nat :=
  match r.out.bind (tileAt l) with
  | some x =>
    let ch := x.home - 4096
    if x.home < 4096 then x.home else 2 ^ 20 + if ch < 2 ^ 17 then pkg * 512 + ch else ch - 2 ^ 17
  | none => 2 ^ 21 + r.die

/-- The units an accept sends to counter tables and its scheduler, in the order of R289 (steps 4 to 7). -/
def acceptUnits (die home now : Nat) (r : TaskReg) (c : RunCopy) : List TaskUnit :=
  let u := fun (a : Deferred) =>
    { act := a, die := die, home := home, cycle := now, who := r.ident, hart := some c.hart : TaskUnit }
  let sets := c.deferred.filter fun a => match a with
    | .depset .. => true
    | _ => false
  let decs := c.deferred.filter fun a => match a with
    | .depdec _ => true
    | _ => false
  let spawns := c.deferred.filter fun a => match a with
    | .spawn _ => true
    | _ => false
  sets.map u ++ r.succ.map (fun k => u (.depdec k)) ++ decs.map u ++ spawns.map u

/-- Units in the order in which they are applied: that of arrival, and within a cycle by ascending number of the
accepting home (R297). -/
def addUnits (old new : List TaskUnit) : List TaskUnit :=
  (old ++ new).mergeSort fun a b => decide (a.cycle < b.cycle) || (a.cycle == b.cycle && decide (a.home ≤ b.home))

/-- The die of the accepting home (R278): the tile's home, or the registering scheduler; a die outside the
partition gives way to the lowest one. -/
def acceptDie (l : Launch) (r : TaskReg) : Nat :=
  let d := match r.out.bind (tileAt l) with
    | some x => homeDie x.home
    | none => r.die
  if (partDies l.part).contains d then d else lowestDie l.part

/-- Copies that were cancelled before their twin won were hedge losers (19 R372 counters 3, 4 and 11). -/
def countWaste (s : State) (tenant : Nat) (lost : List Nat) : State :=
  if lost.isEmpty then s
  else
    let x := getTenant s tenant
    setTenant s { x with counters := bump (wasteWork x.counters lost.sum) 11 (2 ^ 64 - lost.length) }

/-- The work of a copy so far, which its hart still counts while it waits in COMMIT: its matrix work may complete
before the accept (R303, R304). -/
def workSoFar (s : State) (c : RunCopy) : Nat :=
  let h := getHart s c.hart
  match h.task.filter fun t => t.tag == c.tag with
  | some t => (h.rwc + 1 - t.startRwc).toNat
  | none => c.work

/-- What the copy of a registration on an assist partition has done when it loses is hedge waste of an amount that
its package knows: a free value (R307, 19 R372; notes/assumptions/3.md). -/
def wasteAssist (s : State) (tenant : Nat) (r : TaskReg) : State :=
  if r.assisted then
    let (n, s) := draw s
    countTenant s tenant 4 (Config.freeDword n).toNat
  else s

/-- Steps 2 to 8 of R289. The 64 identities that R286 keeps at a scheduler are those of one launch and one die
(notes/assumptions/94.md). -/
def finishAccept (s : State) (key : Nat) (r : TaskReg) (c : RunCopy) : State :=
  match getLaunch s key with
  | none => s
  | some l =>
    let us := acceptUnits (acceptDie l r) (homeOrder s.pk.pkg l r) s.cycle r c
    let tiles := match r.out with
      | some t => modifyAt (fun x => { x with
          version := x.version + 1, ts := r.ts, accepted := (r.ident :: x.accepted).take 64 }) l.tiles t
      | none => l.tiles
    let none_ := if r.out.isNone then
        let mine := (l.noneAccepted.filter fun p => p.1 == r.die).take 63
        ((r.die, r.ident) :: mine) ++ l.noneAccepted.filter fun p => p.1 != r.die
      else l.noneAccepted
    let rate := workSoFar s c * 1024 / (s.cycle - c.startCycle)
    let classes := modifyAt (TaskClass.count · (bucketOf rate)) l.classes r.cls
    let r' : TaskReg := { r with
      state := .won, pins := [], tpins := [], lost := [], assisted := false
      copies := (r.copies.filter fun k => !(k.hart == c.hart && k.tag == c.tag)).map fun k =>
        if k.state = .running then { k with state := .cancelled } else k }
    let s := setLaunch s { setReg l r' with
      tiles := tiles, noneAccepted := none_, classes := classes, units := addUnits l.units us }
    match getPart s l.part with
    | some p => wasteAssist (countWaste (countTenant s p.tenant 9 1) p.tenant r.lost) p.tenant r
    | none => s

/-- Accept a commit (R289, R290): the reply, ACCEPT or FAULT. Every record is tried before any is applied;
a refused window is counted at its core (11 R213). A record whose stage-2 entry Understory has yet to serve, or whose
package cannot be reached, leaves the commit waiting (17 R339, 21 R391). -/
def acceptCommit (s : State) (key : Nat) (r : TaskReg) (c : RunCopy) : State × Reply :=
  match getLaunch s key with
  | none => (s, .cancel)
  | some l =>
    let rs := commitRecords s c
    let shift : Dword := match r.out.bind (tileAt l) with
      | some x => x.slot (x.version + 1) - x.slot (r.base + 1)
      | none => 0
    let core := c.hart / 4
    match applyRecords core (some key) shift rs s with
    | (tried, some t) =>
      let s := match t.cause, formOf s core t.val with
        | .win, .slice k _ => countRefusal s (k.toNat % 4096)
        | _, _ => s
      ({ s with away := tried.away }, .fault t)
    | (_, none) =>
      let ms := rs.foldl (fun acc x => mergeRecord s core x acc) []
      let s := applyMerged core (some key) shift ms s
      (finishAccept (dropRecords s c.hart c.tag) key r c, .accept)

/-! ### Events at harts (17 R327) -/

/-- Post an entry of type 3 for a DEPUNDER or an event that could not be queued (15 R298, 17 R327, 19 R381;
notes/assumptions/34.md): +8 holds STVAL, +16 the identity, bit 63 marks an undelivered event. -/
def postEvent (s : State) (handle : Nat) (t : Trap) (who : Nat) (lost : Bool) : State :=
  postError s handle 3 t.cause.code t.val (dw (who + if lost then 2 ^ 63 else 0))

/-- Queue an event at a hart; a fifth is not queued (17 R327). -/
def queueEvent (s : State) (hart : Nat) (e : Event) : Option State :=
  let h := getHart s hart
  if h.events.length < 4 then some (setHart s hart { h with events := h.events ++ [e] }) else none

/-- The work of a copy that ends without an accept counts as hedge waste when another copy of its
registration won, and the cancel otherwise (19 R372). -/
def countCancelled (s : State) (l : Launch) (r : TaskReg) (work : Nat) : State :=
  match getPart s l.part with
  | none => s
  | some p =>
    if r.state = .won then
      let x := getTenant s p.tenant
      setTenant s { x with counters := wasteWork x.counters work }
    else countTenant s p.tenant 11 1

/-- A copy of a registration is gone with no accept: it leaves the registration, which then ends, waits to
be released again, or stays (R277, R284, R291, R310). A copy of the current run that got CANCEL though its
registration had not won belongs to a task whose identity another task used (R277): its registration ends. -/
def copyEnded (s : State) (key id hart : Nat) (tag : BitVec 16) (twin : Bool) : State :=
  let s := removeCopy s key id hart tag fun r =>
    if twin && !r.gone && r.copies.isEmpty then { r with state := .ended, pins := [], tpins := [] } else r
  retireReg (copyGone s key id) key id

/-- The work of a copy whose commit faulted stays noted while its twin may still win (19 R372). -/
def noteLost (s : State) (key id work : Nat) : State :=
  onReg s key id fun r => { r with lost := if r.state = .won then r.lost else work :: r.lost }

/-- What a final reply to a parked commit does: records are dropped, and a FAULT goes to the hart that
issued the COMMIT as an event (R288, R310). -/
def parkedReply (s : State) (key : Nat) (r : TaskReg) (c : RunCopy) (reply : Reply) : State :=
  let s0 := dropRecords s c.hart c.tag
  match getLaunch s0 key with
  | none => s0
  | some l =>
    match reply with
    | .accept => retireReg s0 key r.id
    | .abort =>
      let s := match getPart s0 l.part with
        | some p => countTenant s0 p.tenant 10 1
        | none => s0
      copyEnded (reRelease s key r.id) key r.id c.hart c.tag false
    | .cancel => copyEnded (countCancelled s0 l r c.work) key r.id c.hart c.tag (c.run == r.run)
    | .fault t =>
      let s := noteLost (countCancelled s0 l r c.work) key r.id c.work
      let s := copyEnded s key r.id c.hart c.tag false
      match queueEvent s c.hart { trap := t, resume := some (key, r.id, c.run) } with
      | some s => s
      | none =>
        let s := postEvent s l.part t r.ident true
        releaseServed s (some (key, r.id, c.run))
    | .parked => s

/-! ### Parked commits (R287) -/

/-- The parked copies of registrations at a tile in (TS, identity) order. -/
def parkedAt (l : Launch) (tile : Option Nat) : List (Nat × Nat × BitVec 16) :=
  let rs := (l.regs.filter fun r => r.out == tile).mergeSort fun a b => !b.before a
  rs.flatMap fun r => (r.copies.filter fun c => c.state == .parked).map fun c => (r.id, c.hart, c.tag)

/-- Decide one parked commit again; its final reply goes to its core (R287, R288). -/
def redecide (s : State) (key id hart : Nat) (tag : BitVec 16) : State :=
  match getLaunch s key with
  | none => s
  | some l =>
    match (regOf l id).bind fun r =>
        (r.copies.find? fun c => c.hart == hart && c.tag == tag && c.state == .parked).map fun c => (r, c) with
    | none => s
    | some (r, c) =>
      match decide' l r c.run with
      | .park => s
      | .accept =>
        let (s, a) := acceptCommit s key r c
        parkedReply s key r c a
      | .abort => parkedReply s key r c .abort
      | .cancel => parkedReply s key r c .cancel

/-- Decide a list of parked commits again, each before the next. -/
def redecideAll (s : State) (key : Nat) : List (Nat × Nat × BitVec 16) → State
  | [] => s
  | (id, hart, tag) :: l => redecideAll (redecide s key id hart tag) key l

/-- The parked copies of a launch, tile by tile. -/
def parkedOf (l : Launch) : List (Nat × Nat × BitVec 16) :=
  ((l.regs.filter fun r => r.copies.any fun c => c.state == .parked).map (·.out)).eraseDups.flatMap (parkedAt l)

/-- Decide the parked commits of a launch again until none of them is decided any more. -/
def redecideMore (key : Nat) : Nat → State → State
  | 0, s => s
  | n + 1, s =>
    match getLaunch s key with
    | none => s
    | some l =>
      let t := redecideAll s key (parkedOf l)
      if (getLaunch t key).any fun m => (parkedOf m).length < (parkedOf l).length then redecideMore key n t else t

/-- What a change of a tile's version, accepted identities, pins or registrations does at once: its parked
commits are decided again, and so on with what they change (R287). -/
def redecideLaunch (s : State) (key : Nat) : State :=
  match getLaunch s key with
  | none => s
  | some l => settleLaunch (redecideMore key ((parkedOf l).length + 1) s) key

/-! ### Release (R277, R278) -/

/-- The agent of a die scheduler's reads: the partition's lowest in-service core, in supervisor mode
(notes/assumptions/35.md). -/
def schedAgent (s : State) (l : Launch) : Agent :=
  { core := ((liveCores s l.part).head?).getD 0, mode := .supervisor, root := l.root, launch := some l.key }

/-- Whether an address is an own-slice alias, which a scheduler, having no slice, cannot read (R276, R402). -/
def isAlias (e : Dword) : Bool := bits e 62 2 == 1

/-- Read bytes for the scheduler of a die as a number, none when they cannot be read (R277). It is the consumer of an
uncorrectable error among them (19 R381). -/
def schedRead (s : State) (l : Launch) (die : Nat) (e : Dword) (n : Nat) : State × Option Nat :=
  let ag := schedAgent s l
  if isAlias e then (s, none) else
  match addrFault s ag false false (parts e n) with
  | some _ => (s, none)
  | none =>
    match engineBytes s ag e n with
    | (s, .ok (bs, _)) => (s, some (ofBytes bs))
    | (s, .error t) => (engineMet s ag (.scheduler die) t, none)

/-- Whether a descriptor's fields are within their ranges (R276, R277, 19 R382). -/
def descOk (l : Launch) (d : BitVec 512) : Bool :=
  let ntile := l.tiles.length
  let out := dbits d 256 32
  let nin := dbits d 288 4
  let b := dbits d 296 8
  let e := dbits d 128 64
  let tile := fun (t : Nat) => decide (t < ntile)
  dbits d 60 4 == 0 && dbits d 304 16 == 0 && decide (dbits d 48 6 < l.classes.length) &&
    e % 4 == 0 && decide (l.codeBase.toNat ≤ e) && decide (e + 4 ≤ l.codeBase.toNat + l.codeSize) &&
    (out == 0xFFFFFFFF || (tileAt l out).any fun x => !x.ro) && decide (nin ≤ 4) &&
    (List.range nin).all (fun i => tile (dbits d (320 + 32 * i) 32)) &&
    (b == 0 || (b % 4 == 0 && decide (b ≤ 192))) &&
    (dbits d 292 4 == 0 || dbits d 448 64 % 4 == 0) && (!l.replay || dbits d 59 1 == 1)

/-- End a launch with DESCERR and an entry in the guest error queue (R277). -/
def descErr (s : State) (key : Nat) (l : Launch) (e : Dword) : State :=
  finishLaunch (postError s l.part 9 0 e 0) key 9 0

/-- Release a descriptor for the first time (R277, R278): register, pin, place. -/
def releaseNew (s : State) (key : Nat) (e : Dword) (die : Nat) : State :=
  match getLaunch s key with
  | none => s
  | some l =>
    if e.toNat % 64 ≠ 0 then descErr s key l e
    else
      match schedRead s l die e 64 with
      | (s, none) => descErr s key l e
      | (s, some v) =>
        let d : BitVec 512 := BitVec.ofNat 512 v
        if !descOk l d then descErr s key l e
        else
          let n := dbits d 292 4
          match (if n = 0 then (s, some 0) else schedRead s l die (dw (dbits d 448 64)) (4 * n)) with
          | (s, none) => descErr s key l e
          | (s, some w) =>
            match getLaunch s key with
            | none => s
            | some l =>
              if l.maxout ≤ l.regs.length then finishLaunch s key 2 0
              else
                let die := if (partDies l.part).contains die then die else lowestDie l.part
                let b := dbits d 296 8
                let r0 : TaskReg :=
                  { id := l.nextReg, descAddr := e, desc := d,
                    succ := (List.range n).map fun i => BitVec.ofNat 32 (w / 2 ^ (32 * i)),
                    base := 0, run := 1, state := .queued, pins := [], tpins := [], inAddr := [],
                    prio := if l.spent then 7 else dbits d 54 3, budget := if b = 0 then l.budget else b,
                    logfulls := 0, die := die, copies := [], logfull := false, tokenWait := none, lost := [],
                    avoid := none, assisted := false }
                let ps := r0.inputs.map (pinTile l)
                let r : TaskReg := { r0 with
                  base := outVersion l r0, pins := ps.filterMap Prod.fst, inAddr := ps.map Prod.snd }
                placeReg (setLaunch s { l with regs := l.regs ++ [r], nextReg := l.nextReg + 1 }) key r

/-! ### Counters (R295 to R298) -/

/-- Whether a counter identity is valid for a launch (R295). -/
def counterOk (s : State) (l : Launch) (k : BitVec 32) : Bool :=
  bits (k.setWidth 64) 27 5 == 0 && bits (k.setWidth 64) 19 8 == s.pk.pkg &&
    (partDies l.part).contains (bits (k.setWidth 64) 16 3) && decide (bits (k.setWidth 64) 0 16 < l.ctrn)

/-- A counter of a launch: unarmed with count 0 when nothing has armed it (R295). -/
def counterOf (l : Launch) (k : BitVec 32) : Counter :=
  (l.counters.find? fun c => c.key == k.toNat).getD { key := k.toNat, count := 0, armed := false, desc := 0 }

/-- Put a counter. -/
def putCounter (l : Launch) (c : Counter) : Launch :=
  { l with counters := c :: l.counters.filter fun o => o.key != c.key }

/-- Report a DEPUNDER (R298, 17 R327): an error entry, and an event at the hart of the accepting commit, while it
still serves the launch; an entry of the arming table reports no event (R275). -/
def depUnder (s : State) (l : Launch) (u : TaskUnit) (k : BitVec 32) (why : Nat) : State :=
  let t : Trap := ⟨.depunder, dw (k.toNat + why * 2 ^ 32)⟩
  let s := postEvent s l.part t u.who false
  match u.hart with
  | none => s
  | some h =>
    match (if (getHart s h).launch = some l.key then queueEvent s h { trap := t, resume := none } else none) with
    | some s => s
    | none => postEvent s l.part t u.who true

/-- The die that holds a counter (R295). -/
def counterDie (k : BitVec 32) : Nat := bits (k.setWidth 64) 16 3

/-- Apply a DEPSET unit (R296). -/
def applyDepset (s : State) (l : Launch) (u : TaskUnit) (k : BitVec 32) (n : Nat) (d : Dword) : State :=
  if !counterOk s l k then depUnder s l u k 2
  else if (counterOf l k).armed then depUnder s l u k 1
  else if n = 0 then setLaunch s { l with releases := l.releases ++ [(d, counterDie k, none)] }
  else setLaunch s (putCounter l { key := k.toNat, count := n, armed := true, desc := d })

/-- Apply a decrement unit (R297). -/
def applyDecrement (s : State) (l : Launch) (u : TaskUnit) (k : BitVec 32) : State :=
  let c := counterOf l k
  if !counterOk s l k then depUnder s l u k 2
  else if !c.armed then depUnder s l u k 0
  else if c.count = 1 then
    let l := putCounter l { c with count := 0, armed := false }
    setLaunch s { l with releases := l.releases ++ [(c.desc, counterDie k, none)] }
  else setLaunch s (putCounter l { c with count := c.count - 1 })

/-! ### The TK instructions (R312) -/

/-- The launch and the registration of the acting hart's task. -/
def taskOf (s : State) : Option (TaskCopy × Launch × TaskReg) :=
  match s.hart.task, s.hart.launch.bind (getLaunch s) with
  | some t, some l => (regOf l t.reg).map fun r => (t, l, r)
  | _, _ => none

/-- Record a deferred act; the 65th raises TASKCTX (R283). A hart of a task launch that runs no task, as in a handler
after TCAN, has no list, and the TK instructions raise TASKCTX there as in a hart launch (R312;
notes/assumptions/94.md). -/
def deferAct (s : State) (a : Deferred) : State :=
  match s.hart.task with
  | none => raise s .taskctx 0
  | some t =>
    if 64 ≤ t.deferred.length then raise s .taskctx 0
    else onHart s fun h => { h with task := some { t with deferred := t.deferred ++ [a] } }.retire

/-- TSPAWN (R283). -/
def execTspawn (a : Reg) (s : State) : Host.Outcome State Fault Refusal :=
  ok (deferAct s (.spawn (s.hart.rx a)))

/-- DEPSET: counter x[ra], count x[rd][15:0], descriptor x[rb] (R283). -/
def execDepset (d a b : Reg) (s : State) : Host.Outcome State Fault Refusal :=
  ok (deferAct s (.depset ((s.hart.rx a).setWidth 32) ((s.hart.rx d).setWidth 16) (s.hart.rx b)))

/-- DEPDEC (R283). -/
def execDepdec (a : Reg) (s : State) : Host.Outcome State Fault Refusal :=
  ok (deferAct s (.depdec ((s.hart.rx a).setWidth 32)))

/-- A copy as it issues its commit request, with its deferred list and work (R285, R303). -/
def RunCopy.askCommit (acts : List Deferred) (work : Nat) (c : RunCopy) : RunCopy :=
  { c with
    state := if c.state = .running then .committing else c.state
    deferred := acts
    work := work }

/-- A commit request that has not been decided is withdrawn: the copy runs on. -/
def withdrawCommit (s : State) (t : TaskCopy) : State :=
  let s := { s with hart := { s.hart with task := some { t with waiting := false } } }
  match s.hart.launch with
  | some key => onReg s key t.reg fun r => r.onCopy s.hgid t.tag fun c =>
      { c with state := if c.state = .committing then .running else c.state, deferred := [], work := 0 }
  | none => s

/-- COMMIT (R285): a synchronising instruction; the hart waits for the first reply. What is to be reported while
it waits, and no reply has come, ends the wait, and the return executes COMMIT again (11 R210). -/
def execCommit (s : State) : Host.Outcome State Fault Refusal :=
  match s.hart.task with
  | none => ok (raise s .taskctx 0)
  | some t =>
    if t.waiting then
      ok (if t.reply.isNone && (report s).isSome then (report (withdrawCommit s t)).getD s else stall s)
    else
      ok (syncFirst s fun s =>
        let work := (s.hart.rwc + 1 - t.startRwc).toNat
        let s := match s.hart.launch with
          | some key => onReg s key t.reg fun r =>
              r.onCopy s.hgid t.tag (RunCopy.askCommit t.deferred work)
          | none => s
        stall { s with hart := { s.hart with task := some { t with waiting := true } } })

/-- End a registration: its copies that still run get CANCEL (R309). -/
def TaskReg.finish (r : TaskReg) : TaskReg :=
  { r with
    state := .ended
    pins := []
    tpins := []
    copies := r.copies.map fun c => if c.state = .running then { c with state := .cancelled } else c }

/-- TABORT (R309): the copy ends at once; k = 0 aborts the registration as R292 does, k = 1 ends it. A copy
of an earlier run, or of a registration that is over, only ends itself. -/
def execTabort (k : BitVec 1) (s : State) : Host.Outcome State Fault Refusal :=
  match taskOf s, s.hart.launch with
  | some (t, l, r), some key =>
    let hgid := s.hgid
    let work := (s.hart.rwc + 1 - t.startRwc).toNat
    let s := freeActing (dropCopy (onHart s Hart.count) hgid)
    if r.gone || t.run != r.run then
      ok (settleLaunch (copyEnded (countCancelled s l r work) key r.id hgid t.tag false) key)
    else if k = 0 then
      let s := match getPart s l.part with
        | some p => countTenant s p.tenant 10 1
        | none => s
      let s := removeCopy s key r.id hgid t.tag fun r => r
      ok (redecideLaunch (reRelease s key r.id) key)
    else
      let s := removeCopy s key r.id hgid t.tag TaskReg.finish
      ok (redecideLaunch (retireReg s key r.id) key)
  | _, _ => ok (raise s .taskctx 0)

/-- DEPGET: armed in [16], count in [15:0]; all ones for an invalid identity (R312). -/
def execDepget (d a : Reg) (l : BitVec 4) (s : State) : Host.Outcome State Fault Refusal :=
  match taskOf s with
  | none => ok (raise s .taskctx 0)
  | some (_, la, _) =>
    let k : BitVec 32 := (s.hart.rx a).setWidth 32
    let c := counterOf la k
    let v := if counterOk s la k then dw (c.count + c.armed.toNat * 2 ^ 16) else BitVec.allOnes 64
    ok (issueL s l (.x d v) 0 false none)

/-- TSELF: tag and identity, 0 outside a task (R312). -/
def execTself (d : Reg) (s : State) : Host.Outcome State Fault Refusal :=
  let v := match taskOf s with
    | some (t, _, r) => dw (t.tag.toNat * 2 ^ 48 + r.ident)
    | none => 0
  ok (onHart s fun h => (h.wx d v).retire)

/-- TWORK (R312, R303). -/
def execTwork (a : Reg) (s : State) : Host.Outcome State Fault Refusal :=
  ok (onHart s fun h =>
    let n := bits (h.rx a) 0 32
    { h with rwc := h.rwc + dw n, perf := bump h.perf 3 n }.retire)

/-- TPIN (R312): pins the current version of a tile for the registration; an RO tile takes no pin, and none is allowed
when the task holds 4. What the accept of that version wrote is read anew (R281). -/
def execTpin (d a : Reg) (l : BitVec 4) (s : State) : Host.Outcome State Fault Refusal :=
  match taskOf s, s.hart.launch with
  | some (_, la, r), some key =>
    let t := bits (s.hart.rx a) 0 32
    match tileAt la t with
    | none => ok (raise s .taskctx 0)
    | some _ =>
      if 4 ≤ r.tpins.length then ok (raise s .taskctx 0)
      else
        let (pin, addr) := pinTile la t
        let s := onReg s key r.id fun r => { r with tpins := r.tpins ++ pin.toList }
        let s := { s with core := { s.core with view := [] } }
        ok (issueL s l (.x d addr) 0 false none)
  | _, _ => ok (raise s .taskctx 0)

end Sys2Proof.Machine
end

