-- ==== Sys2Proof/Machine/TaskEvents.lean ====
section
/-!
DEFINITION. The steps of a task launch that no instruction makes: release (15 R278), dispatch and stealing
(R279 to R281, R299 to R302), commit requests, decisions and replies (R286 to R292), cancels (R308), counter
units (R296, R297), Canopy checks and backups (R305 to R307). One that is not due has no effect
(notes/assumptions/27.md).
-/

namespace Sys2Proof.Machine

/-! ### Dispatch (R301, R302) -/

/-- Records a core's running copies may hold, its parked commits do hold, and backups bound for it may
hold (R301). -/
def coreBudgets (s : State) (core : Nat) : Nat :=
  let ofReg := fun (r : TaskReg) =>
    ((r.copies.filter fun c => c.hart / 4 == core).map fun c =>
      if c.state = .parked then ((getCore s core).log.filter fun x => x.task && x.tag == c.tag).length
      else budgetRecords s core r).sum
  let bound := (List.range 4).filterMap fun i => (getHart s (core * 4 + i)).reserved.bind fun w =>
    (getLaunch s w.1).bind fun l => (regOf l w.2.1).map (budgetRecords s core)
  (s.pk.launches.map fun l => (l.regs.map ofReg).sum).sum + bound.sum

/-- Write the spill areas of a placement to the four harts of a core (11 R403). -/
def spillHarts (s : State) (l : Launch) (core : Nat) (p : Placement) : List Nat → State
  | [] => s
  | i :: is =>
    let hart := core * 4 + i
    let h := getHart s hart
    let h := { h with spillbase := dw (spillOffset l p hart), spillsize := dw (l.spill * 1024) }
    spillHarts (setHart s hart h) l core p is

/-- A core as it stands ready for a launch's tasks: placed for it already, or placed now, which needs an
empty log and an allowed placement (11 R403). -/
def readyCore (s : State) (l : Launch) (core : Nat) (at_ : Placement) : Option State :=
  let co := getCore s core
  if co.owner = some l.key then some s
  else if co.log.isEmpty then
    (placementFor s l core at_).map fun p =>
      spillHarts (keepPlacement (setCore s core (co.placed l.key l p)) l.key core p) l core p [0, 1, 2, 3]
  else none

/-- Whether a hart has no task and may take one (R301, R307). -/
def freeHart (s : State) (hart : Nat) : Bool :=
  let h := getHart s hart
  h.run == .unloaded && h.task.isNone && h.reserved.isNone && !h.initRun

/-- Whether a core may run tasks of a launch now (R301, 01 R29, 19 R375, R376). -/
def coreTakes (s : State) (l : Launch) (core : Nat) : Bool :=
  l.isTask && l.state == .running && covers l.part core && inService s core && !wornCore s core &&
    ((getPart s l.part).any fun p => p.rtload.isNone) && !hartLaunchOn s core &&
    (taskLaunchOn s core).all fun k => k == l.key

/-- Whether a hart may take a queued registration, tokens apart: the state with its core ready. -/
def taskFits (s : State) (hart : Nat) (at_ : Placement) (l : Launch) (r : TaskReg) : Option State :=
  let core := hart / 4
  if coreTakes s l core && r.state == .queued && r.avoid != some core then
    match readyCore s l core at_ with
    | some s =>
      if coreBudgets s core + budgetRecords s core r ≤ logCapacity (getCore s core) then some s else none
    | none => none
  else none

/-- The tasks a hart chooses among: those of its grove's queue that it may take, or, when that is empty,
the first such of each other queue of the die and of the die's pool (R302). -/
def candidates (s : State) (hart : Nat) (at_ : Placement) : List (Launch × TaskReg) :=
  let gk := groveOf (hart / 4)
  let fits := fun (es : List (Nat × Nat)) =>
    (entryTasks s es).filter fun a => (taskFits s hart at_ a.1 a.2).isSome
  let own := (getGrove s gk).ready
  if own.isEmpty then
    let others := ((List.range 32).map fun i => gk / 32 * 32 + i).filter fun g => g != gk
    (others.filterMap fun g => bestTask (fits (getGrove s g).ready)) ++
      (bestTask (fits ((getDie s (gk / 32)).pool.map Prod.snd))).toList
  else fits own

/-- Take a task out of the queue or pool that holds it. -/
def unqueue (s : State) (die key id : Nat) : State :=
  let d := getDie s die
  let s := setDie s die { d with pool := d.pool.filter fun p => p.2 != (key, id) }
  go s ((List.range 32).map fun i => die * 32 + i)
where
  go (s : State) : List Nat → State
    | [] => s
    | gk :: gs =>
      let g := getGrove s gk
      if g.ready.contains (key, id) then
        refillReady (setGrove s gk { g with ready := g.ready.filter fun e => e != (key, id) }) gk
      else go s gs

/-! ### Task start (R279, R280) -/

/-- The first tag from one on that is not in use; tags run from 1 to 65,535 (R280). -/
def tagFrom (used : List Nat) : Nat → Nat → Nat
  | 0, t => t
  | n + 1, t => if used.contains t then tagFrom used n (if t = 65535 then 1 else t + 1) else t

/-- The tags of a core's records and live copies. -/
def usedTags (s : State) (core : Nat) : List Nat :=
  ((getCore s core).log.filter (·.task)).map (fun r => r.tag.toNat) ++
    s.pk.launches.flatMap fun l => l.regs.flatMap fun r =>
      (r.copies.filter fun c => c.hart / 4 == core).map fun c => c.tag.toNat

/-- x registers of a task copy (R279). -/
def taskRegs (h : Hart) (l : Launch) (r : TaskReg) : Vector Dword 32 :=
  let slot : Dword := match r.out.bind (tileAt l) with
    | some x => x.slot (r.base + 1)
    | none => 0
  startRegs ([(2, spillTop (bits h.spillbase 0 19) (bits h.spillsize 0 17)), (3, r.descAddr), (4, r.arg),
      (5, dw r.base), (6, slot)] ++ (List.range 4).map fun i => (7 + i, (r.inAddr[i]?).getD 0))

/-- A hart as it starts a task copy: FFLAGS, RWC, OVFPTR, copy channels and the supervisor's own registers
keep their values, everything else starts anew (R279). -/
def Hart.startTask (h : Hart) (l : Launch) (r : TaskReg) (t : TaskCopy) : Hart :=
  { h with
    x := taskRegs h l r, v := Vector.replicate 32 0, m := Vector.replicate 8 0, b := Vector.replicate 4 0
    q := Vector.replicate 16 .none, z := Vector.replicate 8 none, pc := r.entry, mode := .user
    run := .running, frm := 0, vt := 0, hla := l.lbase, uih := false, frame := none, pend := []
    replay := [], replayEnd := none, alignHold := none, lease := none, task := some t, tasks := true
    codeBase := l.codeBase, codeSize := l.codeSize, waitSince := none, waitStamp := none
    sendWait := none, inv := none, waitRoute := none, stall := none, reserved := none }

/-- A hart as a launch's first task on it finds it: fresh (01 R28), but that after a task, of whatever launch,
FFLAGS, RWC with its remainder (R303), OVFPTR and the copy channels go on (R279). -/
def firstTask (s : State) (old : Hart) (hart key off size : Nat) : Hart :=
  let h := freshStart s hart (some key) 0 off size
  if old.tasks then
    { h with
      fflags := old.fflags, rwc := old.rwc, macRem := old.macRem, ovfptr := old.ovfptr, chans := old.chans
      era := old.era }
  else h

/-- Start a copy of a registration on a hart whose core is ready. The core's loads read anew what accepts wrote
(R281; notes/assumptions/13.md). Events queued at the hart stay queued, whatever launch they are of (R310). -/
def beginCopy (s : State) (hart key id : Nat) (backup : Bool) : State :=
  match getLaunch s key with
  | none => s
  | some l =>
    match regOf l id with
    | none => s
    | some r =>
      let core := hart / 4
      let old := getHart s hart
      let s := if old.launch = some key then s else vacate s hart
      let p := (assocGet l.place (capacity s core)).getD { logPage := 0, spillPage := 0 }
      let h := if old.launch = some key then old
        else { firstTask s (getHart s hart) hart key (spillOffset l p hart) (l.spill * 1024) with events := old.events }
      let co := getCore s core
      let used := usedTags s core
      let tag := tagFrom used (used.length + 1) co.nextTag
      let t : TaskCopy :=
        { reg := id, run := r.run, tag := BitVec.ofNat 16 tag,
          out := (r.out.bind (tileAt l)).map fun x => (x.slot (r.base + 1), x.size), deferred := [],
          startRwc := h.rwc, startCycle := s.cycle, waiting := false, reply := none }
      let c : RunCopy :=
        { hart := hart, tag := t.tag, run := r.run, backup := backup, state := .running, deferred := [],
          startCycle := s.cycle, work := 0 }
      let s := setCore s core { co with nextTag := if tag = 65535 then 1 else tag + 1, view := [] }
      let s := setHart s hart (h.startTask l r t)
      let state := if r.state = .faulted then RegState.faulted else .running
      setLaunch s (setReg l { r with state := state, copies := r.copies ++ [c], tokenWait := none })

/-- Count the cycles a task start waited for tokens (19 R372 counter 12). -/
def countTokenWait (s : State) (tenant : Nat) (r : TaskReg) : State :=
  match r.tokenWait with
  | some c => countTenant s tenant 12 (s.cycle - c)
  | none => s

/-- TASK_DISPATCH (R301, R302): a free hart takes the best task it may take, for one token (19 R366). -/
def execTaskDispatch (hart : Nat) (at_ : Placement) (s : State) : Host.Outcome State Fault Refusal :=
  if !freeHart s hart then ok s
  else
    match bestTask (candidates s hart at_) with
    | none => ok s
    | some (l, r) =>
      match taskFits s hart at_ l r, getPart s l.part with
      | some s', some p =>
        match charge s' p.tenant 1 with
        | none => ok (onReg s l.key r.id fun r => { r with tokenWait := r.tokenWait.or (some s.cycle) })
        | some s' =>
          let s' := countTokenWait s' p.tenant r
          ok (beginCopy (unqueue s' (dieOf (hart / 4)) l.key r.id) hart l.key r.id false)
      | _, _ => ok s

/-! ### Commit requests and replies -/

/-- The commit request a hart waits on: launch, registration, its copy and the hart's task. None while an error
in one of its records is to be taken (R310). -/
def requestOf (s : State) (hart : Nat) : Option (Nat × TaskReg × RunCopy) :=
  let h := getHart s hart
  match h.task, h.launch with
  | some t, some key =>
    if t.waiting && t.reply.isNone && !(h.pendingTrap.any fun p => p.1.cause == .logerr) then
      (getLaunch s key).bind fun l => (regOf l t.reg).bind fun r =>
        (r.copies.find? fun c => c.hart == hart && c.tag == t.tag).map fun c => (key, r, c)
    else none
  | _, _ => none

/-- Send a reply to a waiting hart. -/
def reply (s : State) (hart : Nat) (a : Reply) : State :=
  let h := getHart s hart
  setHart s hart { h with task := h.task.map fun t => { t with reply := some a } }

/-- Count an abort (19 R372 counter 10). -/
def countAbort (s : State) (key : Nat) : State :=
  match (getLaunch s key).bind fun l => getPart s l.part with
  | some p => countTenant s p.tenant 10 1
  | none => s

/-- COMMIT_REQUEST (R286, R287, R289, R292): the home decides, and decides again what is parked there. -/
def execCommitRequest (hart : Nat) (s : State) : Host.Outcome State Fault Refusal :=
  match requestOf s hart with
  | none => ok s
  | some (key, r, c) =>
    match getLaunch s key with
    | none => ok s
    | some l =>
      let s := reachHome s ((r.out.bind (tileAt l)).map (·.home))
      match decide' l r c.run with
      | .accept =>
        let (s, a) := acceptCommit s key r c
        ok (redecideLaunch (reply s hart a) key)
      | .abort => ok (redecideLaunch (reply (reRelease (countAbort s key) key r.id) hart .abort) key)
      | .cancel => ok (redecideLaunch (reply s hart .cancel) key)
      | .park =>
        ok (redecideLaunch (reply (onReg s key r.id fun r =>
          r.onCopy hart c.tag fun c => { c with state := .parked }) hart .parked) key)

/-- COMMIT_REDECISION (R287). -/
def execCommitRedecision (launch : Nat) (tile : Option Nat) (s : State) : Host.Outcome State Fault Refusal :=
  match getLaunch s launch with
  | none => ok s
  | some l => ok (settleLaunch (redecideAll s launch (parkedAt l tile)) launch)

/-- The hart leaves the task after its commit's first reply (R288). -/
def leaveTask (s : State) (hart : Nat) : State := asHart s hart freeActing

/-- COMMIT_REPLY (R288): the first reply ends the copy's task on the hart; a FAULT is a trap taken with the
task cancelled (R310). -/
def execCommitReply (hart : Nat) (s : State) : Host.Outcome State Fault Refusal :=
  let h := getHart s hart
  match h.task, h.launch with
  | some t, some key =>
    match t.reply with
    | none => ok s
    | some (.fault f) =>
      let s := asHart s hart fun s =>
        let s := onHart s fun h => { h with task := some { t with reply := none } }
        takeTrap s
          { trap := f, epc := s.hart.pc, int := false, async := false, lacount := 0, xpc := none, path := [],
            tcan := true }
      ok (redecideLaunch s key)
    | some .accept =>
      let s := closeLease (asHart s hart fun s => onHart s Hart.count) hart
      ok (settleLaunch (retireReg (leaveTask s hart) key t.reg) key)
    | some .parked =>
      let s := asHart s hart fun s => onHart s Hart.count
      let s := onReg s key t.reg fun r =>
        r.onCopy hart t.tag fun c => { c with work := (h.rwc + 1 - t.startRwc).toNat }
      let s := closeLease s hart
      ok (leaveTask s hart)
    | some a =>
      let run := (getLaunch s key).bind fun l => (regOf l t.reg).map fun r => (l, r)
      let s := dropCopy (asHart s hart fun s => onHart s Hart.count) hart
      let s := leaveTask s hart
      match run with
      | none => ok s
      | some (l, r) =>
        let s := if a = .cancel then countCancelled s l r (h.rwc + 1 - t.startRwc).toNat else s
        ok (redecideLaunch (copyEnded s key r.id hart t.tag (a == .cancel && t.run == r.run)) key)
  | _, _ => ok s

/-- TASK_CANCEL (R308): the copy stops at its next instruction boundary, in a handler too; one that waits in
COMMIT takes the cancel at the reply. -/
def execTaskCancel (hart : Nat) (s : State) : Host.Outcome State Fault Refusal :=
  let h := getHart s hart
  match h.task, h.launch with
  | some t, some key =>
    match (getLaunch s key).bind fun l => (regOf l t.reg).map fun r => (l, r) with
    | some (l, r) =>
      let due := r.copies.any fun c => c.hart == hart && c.tag == t.tag && c.state == .cancelled
      if due && !t.waiting then
        let s := leaveTask (dropCopy s hart) hart
        let s := countCancelled s l r (h.rwc - t.startRwc).toNat
        ok (redecideLaunch (copyEnded s key r.id hart t.tag false) key)
      else ok s
    | none => ok s
  | _, _ => ok s

/-! ### Releases and counter units -/

/-- Whether a launch's schedulers and counter tables work on: it is running, or stopping with accepts still
allowed (R311). -/
def Launch.works (l : Launch) : Bool := l.isTask && (l.state == .running || l.state == .stopping)

/-- Apply the oldest counter unit of a launch if it is of the kind asked for. -/
def applyUnitOf (s : State) (launch : Nat) (set_ : Bool) : State :=
  match getLaunch s launch with
  | none => s
  | some l =>
    match l.units with
    | [] => s
    | u :: rest =>
      let l' := { l with units := rest }
      let go := fun (f : State → Launch → State) =>
        if l.works then settleLaunch (f (setLaunch s l') l') launch else s
      match u.act with
      | .depset k n d => if set_ then go fun s l => applyDepset s l u k n.toNat d else s
      | .depdec k => if set_ then s else go fun s l => applyDecrement s l u k
      | .spawn _ => s

/-- The oldest unit of a launch that works, if it is a spawn that has come to its scheduler (R289 step 7): the state
without it, its descriptor and its die. -/
def nextSpawn (s : State) (l : Launch) : Option (State × Dword × Nat) :=
  match l.units with
  | u :: rest =>
    match u.act with
    | .spawn d => some (setLaunch s { l with units := rest }, d, u.die)
    | _ => none
  | [] => none

/-- DEPSET_APPLY (R296). -/
def execDepsetApply (launch : Nat) (s : State) : Host.Outcome State Fault Refusal :=
  ok (applyUnitOf s launch true)

/-- COUNTER_DECREMENT (R297). -/
def execCounterDecrement (launch : Nat) (s : State) : Host.Outcome State Fault Refusal :=
  ok (applyUnitOf s launch false)

/-! ### Canopy (R303 to R307) -/

/-- The threshold bucket of a class (R305): the smallest one whose cumulative count reaches the quantile. -/
def threshold (c : TaskClass) : Nat :=
  ((List.range 16).find? fun b => c.quant * c.hist.sum ≤ 16 * (c.hist.take (b + 1)).sum).getD 16

/-- Whether a copy is a straggler at a check (R305). One of age 0, which has no rate yet, is none
(notes/assumptions/94.md). -/
def straggler (s : State) (now : Nat) (l : Launch) (r : TaskReg) (c : RunCopy) : Bool :=
  match l.classes[r.cls]? with
  | none => false
  | some k =>
    let age := now - c.startCycle
    let h := getHart s c.hart
    let start := (h.task.map (·.startRwc)).getD h.rwc
    let rate := (h.rwc - start).toNat * 1024 / age
    r.hedge && k.quant != 0 && decide (32 ≤ k.hist.sum) && decide (0 < age) &&
      decide (k.minage * 1024 ≤ age) && r.current.length == 1 && !r.assisted && c.state == .running && c.run == r.run &&
      decide (bucketOf rate < threshold k)

/-- The level of distance of a core from another within a package (R306), none for the core itself. -/
def hedgeLevel (core c : Nat) : Option Nat :=
  if core = c then none
  else if groveOf core = groveOf c then some 0
  else if dieOf core = dieOf c then some 1
  else some 2

/-- Whether a registration's tiles all lie in V-space (R306). -/
def tilesVirtual (l : Launch) (r : TaskReg) : Bool :=
  (r.out.toList ++ r.inputs).all fun t => (tileAt l t).all fun x => !bit x.base 63

/-- Whether a hart could run a backup of a registration now: its core stands ready or is empty, and its log has room
for the copy's budget (R301, R306; notes/assumptions/94.md). -/
def backupFits (s : State) (l : Launch) (r : TaskReg) (hart : Nat) : Bool :=
  let core := hart / 4
  let co := getCore s core
  let room := if co.owner = some l.key then logCapacity co else l.logPages * 4096 / 48
  freeHart s hart && coreTakes s l core && r.avoid != some core && (co.owner == some l.key || co.log.isEmpty) &&
    decide (coreBudgets s core + budgetRecords s core r ≤ room)

/-- The hart for a backup of a copy: the nearest qualifying level, then the lowest CGID (R306). -/
def backupHart (s : State) (l : Launch) (r : TaskReg) (c : RunCopy) (scope : Nat) : Option Nat :=
  if 3 ≤ scope then none
  else
    let virt := tilesVirtual l r
    let from_ := c.hart / 4
    let at_ := fun (level : Nat) =>
      (((partCores l.part).filter fun k => hedgeLevel from_ k == some level).flatMap fun k =>
        (List.range 4).map fun i => k * 4 + i).find? (backupFits s l r)
    let allowed := fun (level : Nat) => decide (scope ≤ level) && ((scope < 2 && level < 2) || virt)
    ([0, 1, 2].filter allowed).findSome? at_

/-- What a backup of a registration costs its tenant: EXPWORK of its class (R307). -/
def backupCost (l : Launch) (r : TaskReg) : Nat := ((l.classes[r.cls]?).map (·.expwork)).getD 0

/-- What the backups of a tenant that are placed and have not started will cost. -/
def backupsBound (s : State) (tenant : Nat) : Nat :=
  ((knownHarts s).filterMap fun h => (getHart s h).reserved.bind fun w => (getLaunch s w.1).bind fun l =>
    if (getPart s l.part).any fun p => p.tenant == tenant then (regOf l w.2.1).map (backupCost l) else none).sum

/-- A backup starts: it takes EXPWORK from its tenant's hedging budget, and is counted (R307, 19 R372). -/
def payBackup (s : State) (handle cost : Nat) : State :=
  match getPart s handle with
  | none => s
  | some p =>
    let t := getTenant s p.tenant
    countTenant (setTenant s { t with hedgeLeft := t.hedgeLeft - cost }) p.tenant 5 1

/-- A backup under SCOPE 3 (R306): it needs tiles in V-space and a free hart of an assist partition, which only the
other package knows. It starts there, and this package shows no more of it (notes/assumptions/3.md). -/
def assistCopy (s : State) (p : Partition) (l : Launch) (r : TaskReg) : State :=
  let (n, s) := draw s
  if tilesVirtual l r && !l.assists.isEmpty && Config.assistFree n then
    onReg (payBackup s l.part (backupCost l r)) l.key r.id fun r => { r with assisted := true }
  else countTenant s p.tenant 7 1

/-- Give a straggler its backup, or count the refusal (R306, R307). The hart is reserved; the backup takes its cost
from the budget when it starts. -/
def hedgeCopy (s : State) (key : Nat) (r : TaskReg) (c : RunCopy) : State :=
  match getLaunch s key with
  | none => s
  | some l =>
    match l.classes[r.cls]?, getPart s l.part with
    | some k, some p =>
      let t := getTenant s p.tenant
      if t.hedge = 0 ∨ t.hedgeLeft < backupsBound s p.tenant + k.expwork then countTenant s p.tenant 6 1
      else if k.scope = 3 then assistCopy s p l r
      else
        match backupHart s l r c k.scope with
        | none => countTenant s p.tenant 7 1
        | some hart =>
          let h := getHart s hart
          setHart s hart { h with reserved := some (key, r.id, r.run) }
    | _, _ => s

/-- Whether a backup of a registration is on its way. -/
def backupBound (s : State) (key id : Nat) : Bool :=
  (knownHarts s).any fun h => (getHart s h).reserved.any fun w => w.1 == key && w.2.1 == id

/-- Check the stragglers of a list. -/
def hedgeAll (s : State) : List (Nat × TaskReg × RunCopy) → State
  | [] => s
  | (key, r, c) :: l => hedgeAll (if backupBound s key r.id then s else hedgeCopy s key r c) l

/-- The running copies on a die, with their launches and registrations. -/
def copiesOn (s : State) (die : Nat) : List (Launch × TaskReg × RunCopy) :=
  (s.pk.launches.filter fun l => l.isTask && l.state == .running).flatMap fun l => l.regs.flatMap fun r =>
    (r.copies.filter fun c => dieOf (c.hart / 4) == die).map fun c => (l, r, c)

/-- The CYCLE value of a die's next check: every multiple of 4,096 at which a copy ran on it, in order (R305). -/
def nextCheck (s : State) (die : Nat) : Nat :=
  let next := (getDie s die).checked / 4096 * 4096 + 4096
  if (copiesOn s die).any fun c => decide (c.2.2.startCycle < next) then next else max next (s.cycle / 4096 * 4096)

/-- CANOPY_CHECK (R305): a check at a CYCLE value that is a multiple of 4,096, once per die. No
backup starts for a launch that is being stopped (R311). -/
def execCanopyCheck (die : Nat) (s : State) : Host.Outcome State Fault Refusal :=
  let now := nextCheck s die
  let d := getDie s die
  if s.cycle < now then ok s
  else
    let found := ((copiesOn s die).filter fun (l, r, c) => straggler s now l r c).map fun (l, r, c) => (l.key, r, c)
    ok (hedgeAll (setDie s die { d with checked := now }) found)

/-- Whether a backup that was placed may still start: its registration stands at the same run, not accepted, ended
or queued again, and has at most the one copy (R307, R311). -/
def backupStands (h : Hart) (l : Launch) (r : TaskReg) : Bool :=
  l.state == .running && (r.state == .running || r.state == .faulted) && decide (r.current.length ≤ 1) &&
    h.reserved.any fun w => w.2.2 == r.run

/-- BACKUP_START (R307): the backup starts on its reserved hart, and takes its cost, unless the registration has gone
on without it. While a handler runs on the hart it waits. -/
def execBackupStart (launch reg : Nat) (at_ : Placement) (s : State) : Host.Outcome State Fault Refusal :=
  match (knownHarts s).find? fun h => (getHart s h).reserved.any fun w => w.1 == launch && w.2.1 == reg with
  | none => ok s
  | some hart =>
    let h := getHart s hart
    let free := setHart s hart { h with reserved := none }
    match getLaunch s launch with
    | none => ok free
    | some l =>
      match regOf l reg with
      | none => ok free
      | some r =>
        if !backupStands h l r then ok free
        else if h.run ≠ .unloaded then ok s
        else
          match readyCore free l (hart / 4) at_ with
          | some s => ok (payBackup (beginCopy s hart launch reg true) l.part (backupCost l r))
          | none => ok s

end Sys2Proof.Machine
end

