-- ==== Sys2Proof/Machine/Context.lean ====
section
/-!
DEFINITION. The 4,096-byte block in which a context of a hart launch is saved (17 R335). Where the spec names
what a field holds but not its bits, the layout is the model's (notes/assumptions/67.md).
-/

namespace Sys2Proof.Machine

/-- The registers of +0x1B0, in their order. -/
def contextRegs : List Nat :=
  [0x001, 0x002, 0x003, 0x050, 0x021, 0x04A, 0x010, 0x011, 0x012, 0x013, 0x100, 0x102, 0x103, 0x104, 0x108] ++
    [0x105, 0x109, 0x10A, 0x10B, 0x10C, 0x048]

/-- The bytes of a list of doublewords. -/
def dwordBytes (l : List Dword) : List Byte := l.flatMap fun d => bytesOf 8 d.toNat

/-- Mode, user-level handler and pending-trap flags at +0x1A8. -/
def contextMode (h : Hart) : Nat := h.mode.code + h.uih.toNat * 4 + h.pendingTrap.isSome.toNat * 8

/-- The pending trap at +0x258. -/
def contextTrap (h : Hart) : List Dword :=
  match h.pendingTrap with
  | some (t, la, _) => [dw t.cause.code, t.val, la]
  | none => [0, 0, 0]

/-- A binding in the layout of QSTAT without COUNT (13 R235). -/
def bindingWord : Binding → Nat
  | .none => 0
  | .send num cgid => 2 ^ 60 + num.toNat * 2 ^ 32 + cgid.toNat
  | .recv num => 2 * 2 ^ 60 + num.toNat * 2 ^ 32
  | .port p => 3 * 2 ^ 60 + p.toNat * 2 ^ 32

/-- The sequencer at +0xB40: 16 words, then len, it, steps, iteration and position in a doubleword. -/
def contextFrame (h : Hart) : List Byte :=
  match h.frame with
  | none => List.replicate 72 0
  | some f =>
    ((List.range 16).flatMap fun i => bytesOf 4 ((f.words[i]?).getD 0).toNat) ++
      bytesOf 8 (f.words.length - 1 + (f.iters - 1) * 2 ^ 8 + f.sd.toNat * 2 ^ 16 + f.sa.toNat * 2 ^ 19 +
        f.sb.toNat * 2 ^ 22 + f.sc.toNat * 2 ^ 25 + f.iter * 2 ^ 32 + f.pos * 2 ^ 40)

/-- A copy channel at +0xB90: NEXT, MARK, status, armed identity, held segment. -/
def contextChannel (s : State) (i : Nat) : List Byte :=
  let c := s.hart.chan i
  let held := s.pk.copies.find? fun k => k.hart == s.hgid && k.current s.hart && k.ch == i && k.held.isSome
  let ref := fun (o : Option (BitVec 32)) => match o with
    | some id => id.toNat + 2 ^ 63
    | none => 0
  bytesOf 4 c.next.toNat ++ bytesOf 4 c.mark.toNat ++ bytesOf 8 c.stat.toNat ++ bytesOf 8 (ref c.armed) ++
    bytesOf 8 (ref (held.map (·.id)))

/-- The lease session at +0xC90: status, progress, the two operand descriptors kept with a suspended command. -/
def contextLease (s : State) : List Byte :=
  let kept := match (s.hart.lease.bind (·.susp)).map fun c => c.1.op with
    | some (.mma _ a b) => bytesOf 32 a.toNat ++ bytesOf 32 b.toNat
    | some (.scale a b _ _) => bytesOf 32 a.toNat ++ bytesOf 32 b.toNat
    | _ => List.replicate 64 0
  dwordBytes [leaseStatus s, progress s.hart] ++ kept

/-- A context's counts (19 R372). How many flits the mesh takes for an access is not stated, so count 2 is a free
value (notes/assumptions/68.md). -/
def shownCounts (n : Nat) (perf : Vector Dword 16) : List Dword :=
  (perf.setIfInBounds 2 (Config.freeDword n)).toList

/-- The context block of the acting hart (17 R335). -/
def contextBlock (s : State) (n : Nat) : List Byte :=
  let h := s.hart
  dwordBytes h.x.toList ++ dwordBytes h.shadow.toList ++ dwordBytes h.m.toList ++ dwordBytes h.b.toList ++
    dwordBytes [h.pc, dw (contextMode h)] ++ dwordBytes (contextRegs.map (srRead s)) ++
    dwordBytes (contextTrap h) ++ dwordBytes [h.spillsize, h.sup.tvec] ++
    (h.v.toList.flatMap fun v => bytesOf 64 v.toNat) ++ dwordBytes (h.q.toList.map fun b => dw (bindingWord b)) ++
    dwordBytes (h.z.toList.map fun z => (z.map (·.word)).getD 0) ++ contextFrame h ++ List.replicate 8 0 ++
    (List.range 8).flatMap (contextChannel s) ++ contextLease s ++ dwordBytes (shownCounts n h.perf) ++
    List.replicate 672 0

end Sys2Proof.Machine
end

