-- ==== Sys2Proof/Machine/Launch.lean ====
section
/-!
DEFINITION. Launches as Understory runs them: launch blocks and tables and their checks (01 R26, R27, 15
R271 to R274), the start of a hart launch (01 R28 to R30) and of a task launch (15 R275), stops, saves,
resumption and rotation (13 R266, 17 R332 to R335, 15 R311), and replay (19 R382, R383).
-/

namespace Sys2Proof.Machine

/-- The state after an outcome; a step that gives none leaves it unchanged. -/
def after (o : Host.Outcome State Fault Refusal) (s : State) : State :=
  match o with
  | .next t => t
  | _ => s

/-! ### Reading blocks and tables -/

/-- The agent of Understory's reads of guest memory: the partition's lowest in-service core, in supervisor
mode, under the partition's default S1BASE (notes/assumptions/35.md). -/
def partAgent (s : State) (p : Partition) : Agent :=
  { core := ((liveCores s p.handle).head?).getD 0, mode := .supervisor, root := p.s1base, launch := none }

/-- Whether n bytes at an address lie in V-space (11 R183). -/
def inVspace (e : Dword) (n : Nat) : Bool := decide (e.toNat + n ≤ 2 ^ 56)

/-- n bytes at a V-address as a number, none when they cannot be read; Understory is the consumer of an uncorrectable
error among them (19 R381). -/
def partRead (s : State) (p : Partition) (e : Dword) (n : Nat) : State × Option Nat :=
  if !inVspace e n then (s, none)
  else
    match engineBytes s (partAgent s p) e n with
    | (s, .ok (bs, _)) => (s, some (ofBytes bs))
    | (s, .error t) => (engineMet s (partAgent s p) .understory t, none)

/-- Field [lo + n - 1 : lo] of a block. -/
def field (v lo n : Nat) : Nat := v / 2 ^ lo % 2 ^ n

/-- Whether a number is a multiple of another. -/
def aligned (v n : Nat) : Bool := v % n == 0

/-- Whether an LSID is allocated in a partition (11 R216). -/
def labelHeld (p : Partition) (v : Nat) : Bool := (maskOf p (BitVec.ofNat 10 v)).isSome

/-- A launch before its block gives it anything. -/
def Launch.blank (key lid : Nat) (p : Partition) (cmd : Cmd) : Launch :=
  { key := key, lid := lid, part := p.handle, cmd := cmd, state := .queued, isTask := false, cores := false,
    replay := false, prio := 0, count := 0, codeBase := 0, codeSize := 0, entry := 0, param := 0, spill := 0,
    logPages := 0, lbase := 0, energy := 0, charged := 0, spent := false, started := 0, halted := [],
    contexts := [], saveArea := [], saved := [], bytes := [], place := [], waitsAt := [], root := p.s1base, budget := 0, ctrn := 0,
    maxout := 0, classes := [], tiles := [], counters := [], regs := [], nextReg := 0, units := [],
    releases := [], noneAccepted := [], assists := [], stopCmd := none, stopAt := 0, status := none,
    replays := 0, shadowed := [], shadowing := false, block := [], kept := [], orphans := [] }

/-- The hart launch of a block, none for INVAL (01 R26, R27). -/
def hartBlock (s : State) (p : Partition) (b : Launch) (v : Nat) : Option Launch :=
  let f := field v
  let log := if f 336 16 = 0 then 48 else f 336 16
  let zero := f 10 6 == 0 && f 19 13 == 0 && f 160 32 == 0 && f 224 32 == 0 && f 352 32 == 0 && f 394 54 == 0
  let range := decide (1 ≤ f 32 32) && decide (f 32 32 ≤ 65536) && aligned (f 64 64) 65536 &&
    decide (0 < f 128 32) && aligned (f 128 32) 64 && aligned (f 192 32) 4 && decide (f 192 32 < f 128 32) &&
    aligned (f 256 64) 64 && aligned (f 320 16) 4 && decide (f 320 16 ≤ 64) && aligned log 4 &&
    decide (16 ≤ log) && decide (log ≤ 192)
  let space := decide (f 64 64 + f 128 32 ≤ 2 ^ 56) && decide (f 256 64 + 64 ≤ 2 ^ 56) &&
    decide ((4 * f 320 16 + log + 4) * 1024 ≤ smallestSlice s p.handle)
  if zero && range && space && labelHeld p (f 384 10) then
    some { b with
      cores := f 8 1 == 1, replay := f 9 1 == 1, prio := f 16 3, count := f 32 32, codeBase := dw (f 64 64)
      codeSize := f 128 32, entry := f 192 32, param := dw (f 256 64), spill := f 320 16, logPages := log / 4
      lbase := BitVec.ofNat 10 (f 384 10), energy := f 448 64 }
  else none

/-- Read the entries of a table (15 R274). -/
def readTable (p : Partition) (e : Dword) (size : Nat) : Nat → State → State × Option (List Nat)
  | 0, s => (s, some [])
  | n + 1, s =>
    match partRead s p e size with
    | (s, none) => (s, none)
    | (s, some v) =>
      match readTable p (e + dw size) size n s with
      | (s, none) => (s, none)
      | (s, some l) => (s, some (v :: l))

/-- A class of a class-table entry, none for INVAL (15 R272). -/
def taskClass (v : Nat) : Option TaskClass :=
  let f := field v
  let seeds := (List.range 16).map fun i => f (64 + 8 * i) 8
  if decide (f 0 5 ≤ 16) && f 5 3 == 0 && f 10 6 == 0 && f 193 63 == 0 && decide (seeds.sum ≤ 255) then
    some { quant := f 0 5, scope := f 8 2, minage := f 16 16, expwork := f 32 32,
           hist := if f 192 1 = 1 then seeds else List.replicate 16 0 }
  else none

/-- The slots of a tile: first address and length (15 R269). -/
def TileState.spans (t : TileState) : List (Nat × Nat) :=
  (List.range t.slots).map fun k => (t.base.toNat + k * t.stride, t.size)

/-- Whether a tile's slots lie where tiles may, as far as their addresses tell (15 R274): in V-space, or by an
S-address in the slice of an in-service core of the partition. -/
def tilePlaceOk (s : State) (p : Partition) (t : TileState) : Bool :=
  match formOf s (partAgent s p).core t.base with
  | .bad => false
  | .slice c off =>
    let k := c.toNat % 4096
    bit t.base 63 && c.toNat / 4096 == s.pk.pkg && covers p.handle k && inService s k &&
      t.spans.all fun (a, n) => decide (off + (a - t.base.toNat) + n ≤ capacity s k)
  | .virt _ => t.spans.all fun (a, n) => decide (a + n ≤ 2 ^ 56)

/-- A tile with its home at launch start, which is that of BASE as it translates then; none where it does not
translate, or a page of the slots lies in host memory (15 R269, R274). -/
def homedTile (s : State) (p : Partition) (t : TileState) : State × Option TileState :=
  let ag := partAgent s p
  if !tilePlaceOk s p t then (s, none)
  else
    match formOf s ag.core t.base with
    | .bad => (s, none)
    | .slice c _ => (s, some { t with home := c.toNat % 4096 })
    | .virt va =>
      let pages := t.spans.flatMap fun (a, n) => (pagesOf (dw a) n).map BitVec.toNat
      let host := pages.any fun a => (peek s ag a).any fun pl => entU pl.leaf
      match placeOf s ag { needRead with r := false } va with
      | (s, .error _) => (s, none)
      | (s, .ok (_, pl)) =>
        (s, if host || entU pl.leaf || leafBeyond s pl.leaf then none else some { t with home := homeNum pl.key })

/-- The tiles of a launch with their homes at its start, none for INVAL. -/
def homedTiles (p : Partition) : List TileState → State → State × Option (List TileState)
  | [], s => (s, some [])
  | t :: l, s =>
    match homedTile s p t with
    | (s, none) => (s, none)
    | (s, some t) =>
      match homedTiles p l s with
      | (s, none) => (s, none)
      | (s, some ts) => (s, some (t :: ts))

/-- A tile of a tile-table entry, none for INVAL (15 R268, R274). Its home is fixed when its launch starts. -/
def tileEntry (s : State) (p : Partition) (v : Nat) : Option TileState :=
  let f := field v
  let base := f 0 64
  let size := f 64 32
  let n := f 96 3
  let stride := f 128 64
  let form := aligned base 32 && aligned size 32 && decide (32 ≤ size) && decide (size ≤ 4194304) &&
    (n == 1 || n == 2 || n == 4) && f 99 21 == 0 && f 121 7 == 0 && f 192 64 == 0 &&
    (if n = 1 then stride == 0 else aligned stride 32 && decide (size ≤ stride))
  let t : TileState :=
    { base := dw base, size := size, slots := n, ro := f 120 1 == 1, stride := stride, home := 0
      version := 0, ts := 0, accepted := [] }
  if form && tilePlaceOk s p t then some t else none

/-- The homes at which tiles keep state (15 R268, R270). -/
def tileHomes (tiles : List TileState) : List Nat := (tiles.filter fun t => !t.ro).map (·.home)

/-- Whether some home is named more than 1,024 times (15 R270). -/
def homesFull (homes : List Nat) : Bool :=
  homes.eraseDups.any fun h => decide (1024 < (homes.filter fun x => x == h).length)

/-- Whether an assist handle names a partition of the tenant on another package of the domain, or is 0 (15 R271,
R274; notes/assumptions/3.md). -/
def assistOk (s : State) (tenant h : Nat) : Bool :=
  h == 0 || (h / 2 ^ 24 != s.pk.pkg && decide (h / 2 ^ 24 ≤ s.pk.domsz) && h / 2 ^ 15 % 2 ^ 9 == 0 &&
    decide (handleLevel h ≤ 6) && decide (handleIndex h < 64 / 2 ^ handleLevel h) && Config.assistHeld h tenant)

/-- Whether the fields of a task-launch block are in range (15 R271, R274). -/
def taskBlockOk (s : State) (p : Partition) (v : Nat) : Bool :=
  let f := field v
  let log := if f 176 8 = 0 then 12 else f 176 8
  let zero := f 8 1 == 0 && f 10 6 == 0 && f 23 9 == 0 && f 522 54 == 0 && f 657 15 == 0 && f 736 32 == 0 &&
    f 800 32 == 0 && f 864 32 == 0 && f 896 128 == 0
  let range := decide (1 ≤ f 16 7) && decide (f 16 7 ≤ 64) && decide (1 ≤ f 32 32) &&
    decide (f 32 32 ≤ 1048576) && aligned (f 64 64) 65536 && decide (0 < f 128 32) && aligned (f 128 32) 64 &&
    aligned (f 160 16) 4 && decide (f 160 16 ≤ 64) && decide (4 ≤ log) && decide (log ≤ 48) &&
    aligned (f 184 8) 4 && decide (4 ≤ f 184 8) && decide (f 184 8 ≤ 192) && aligned (f 192 64) 32 &&
    aligned (f 256 64) 32 && aligned (f 320 64) 16 && (f 448 32 != 0 || f 320 64 == 0) &&
    aligned (f 384 64) 8 && decide (f 448 32 ≤ 65536) && decide (1 ≤ f 480 32) && decide (f 480 32 ≤ 65536) &&
    decide (f 640 17 ≤ 65536) && decide (1 ≤ f 672 32) && decide (f 672 32 ≤ 16777216)
  let space := decide (f 64 64 + f 128 32 ≤ 2 ^ 56) && decide (f 192 64 + 32 * f 32 32 ≤ 2 ^ 56) &&
    decide (f 256 64 + 32 * f 16 7 ≤ 2 ^ 56) && decide (f 320 64 + 16 * f 448 32 ≤ 2 ^ 56) &&
    decide (f 384 64 + 8 * f 480 32 ≤ 2 ^ 56) &&
    decide ((4 * f 160 16 + 4 * log + 4) * 1024 ≤ smallestSlice s p.handle)
  zero && range && space && labelHeld p (f 512 10) &&
    [f 704 32, f 768 32, f 832 32].all (assistOk s p.tenant)

/-- All of a list of options, or none. -/
def allSome {α : Type} : List (Option α) → Option (List α)
  | [] => some []
  | none :: _ => none
  | some a :: l => (allSome l).map (a :: ·)

/-- The task launch of a block and its tables, none for INVAL (15 R271 to R274). While it is queued its
arming entries stand in `units` and its roots in `releases`. -/
def taskBlock (s : State) (p : Partition) (b : Launch) (v : Nat) : State × Option Launch :=
  let f := field v
  if !taskBlockOk s p v then (s, none)
  else
    match readTable p (dw (f 192 64)) 32 (f 32 32) s with
    | (s, none) => (s, none)
    | (s, some ts) =>
      match readTable p (dw (f 256 64)) 32 (f 16 7) s with
      | (s, none) => (s, none)
      | (s, some cs) =>
        match readTable p (dw (f 320 64)) 16 (f 448 32) s with
        | (s, none) => (s, none)
        | (s, some as) =>
          match readTable p (dw (f 384 64)) 8 (f 480 32) s with
          | (s, none) => (s, none)
          | (s, some rs) =>
            match allSome (ts.map (tileEntry s p)), allSome (cs.map taskClass) with
            | some tiles, some classes =>
                let die := lowestDie p.handle
                let arm := fun (v : Nat) =>
                  { act := .depset (BitVec.ofNat 32 (field v 0 32)) (BitVec.ofNat 16 (field v 32 16))
                      (dw (field v 64 64)), die := die, home := 0, cycle := 0, who := 0, hart := none : TaskUnit }
                (s, some { b with
                  isTask := true, replay := f 9 1 == 1, codeBase := dw (f 64 64), codeSize := f 128 32
                  param := dw (f 192 64), spill := f 160 16
                  logPages := if f 176 8 = 0 then 12 else f 176 8
                  budget := f 184 8, lbase := BitVec.ofNat 10 (f 512 10), energy := f 576 64, ctrn := f 640 17
                  maxout := f 672 32, classes := classes, tiles := tiles, units := as.map arm
                  releases := rs.map fun e => (dw e, die, none)
                  assists := [f 704 32, f 768 32, f 832 32].filter fun h => h != 0 })
            | _, _ => (s, none)

/-- The launch of a block of either kind, none for INVAL. -/
def blockLaunch (s : State) (p : Partition) (b : Launch) (e : Dword) : State × Option (Launch × Nat) :=
  if e.toNat % 64 ≠ 0 then (s, none)
  else
    match partRead s p e 64 with
    | (s, none) => (s, none)
    | (s, some v) =>
      if field v 0 8 = 2 then (s, (hartBlock s p b v).map fun l => (l, v))
      else if field v 0 8 = 1 then
        match partRead s p e 128 with
        | (s, none) => (s, none)
        | (s, some v) =>
          match taskBlock s p b v with
          | (s, some l) => (s, some (l, v))
          | (s, none) => (s, none)
      else (s, none)

/-! ### Replayable launches (19 R382) -/

/-- Whether a stage-2 leaf maps writable HBM. -/
def writableHbm (e : Dword) : Bool := bit e 3 && !entU e

/-- Set SHAD in every stage-2 leaf of a partition that maps writable HBM (R382). -/
def setShad (s : State) (handle : Nat) : State :=
  match getPart s handle with
  | some p =>
    let s := writeEntries s ((partLeaves s p).filterMap fun e =>
      if writableHbm e.2.1 then some (e.1, e.2.1 ||| 0x100) else none)
    let mark := fun (l : HeldLeaf) =>
      if l.part = handle && writableHbm l.leaf then { l with leaf := l.leaf ||| 0x100 } else l
    { s with dies := mapUnits (fun d => { d with held2 := d.held2.map mark }) s.dies }
  | none => s

/-- What a replayable launch does as it starts (R382): Understory keeps its block and the 4 KiB at PARAM or TILETAB,
as far as they can be read, and sets SHAD. -/
def startShadow (s : State) (key : Nat) : State :=
  match getLaunch s key with
  | none => s
  | some l =>
    match getPart s l.part with
    | none => s
    | some p =>
      if !l.replay then s
      else
        let (s, b) := partRead s p l.param 4096
        setShad (setLaunch s { l with
          shadowing := true, kept := l.block ++ (b.map (bytesOf 4096)).getD [] }) l.part

/-! ### The start of a hart launch (01 R28 to R30) -/

/-- The cores a hart launch names, in order; none when too few are left (01 R29, R30, 17 R334). -/
def launchCores (s : State) (l : Launch) : Option (List Nat) :=
  let cs := placeCores s l.part
  let n := (l.count + 3) / 4
  if l.cores then (if cs.length < n then none else some (cs.take n))
  else if cs.isEmpty then none else some (cs.take n)

/-- Whether a core is free for a launch: no hart or context of another launch is assigned to it, no backup is
bound for it, and its log holds nothing (01 R29, 11 R403). -/
def coreFree (s : State) (core : Nat) : Bool :=
  !hartLaunchOn s core && (getCore s core).log.isEmpty && (taskLaunchOn s core).isNone &&
    (List.range 4).all fun i =>
      let h := getHart s (core * 4 + i)
      h.run == .unloaded && h.reserved.isNone

/-- Whether a partition has no launch resident (19 R365). -/
def quietPart (s : State) (p : Partition) : Bool :=
  p.rtload.isNone && !(s.pk.launches.any fun l => l.part == p.handle && (l.state == .running || l.state == .stopping))

/-- Whether a unit of a core is lasting: the core, a vector lane, a row of its slice, or its grove's array
(19 R375). -/
def worn (s : State) (core : Nat) : Bool :=
  wornCore s core || (getGrove s (groveOf core)).lasting ||
    (getDie s (dieOf core)).lasting.any fun k => isSliceKey k && sliceCore k == core

/-- Whether a unit that the cores of a die share is lasting: an HBM channel, or a row of a cache slice (19 R375). -/
def Die.worn (d : Die) : Bool := !d.channels.isEmpty || d.lasting.any fun k => !isSliceKey k

/-- Where the lasting units that a die's cores share are replaced: at the next quiesce of a partition with cores on the
die, by its first core there, or, with no partition there, by the die's first core (19 R365, R375;
notes/assumptions/69.md). -/
def sharedAt (s : State) (k : Nat) : List Nat :=
  let mine := ((List.range 512).map fun i => k * 512 + i).filter (inService s)
  let parts := s.pk.parts.filter fun p => mine.any (covers p.handle)
  if parts.isEmpty then (mine.head?).toList
  else (parts.filter (quietPart s)).filterMap fun p => mine.find? (covers p.handle)

/-- The cores at which a spare is to be brought in: those that the state knows to have a lasting unit, and where a die
has one that its cores share. -/
def wornCores (s : State) : List Nat :=
  let listed := knownCores s ++ s.groves.flatMap (fun g => groveCores g.1) ++
    s.dies.flatMap fun d => (d.2.lasting.filter isSliceKey).map sliceCore
  (listed.eraseDups.filter fun c => worn s c && inService s c) ++
    (s.dies.filter fun d => d.2.worn).flatMap fun d => sharedAt s d.1

/-- Whether a partition may start a launch: no initialisation run and no spare substitution is in progress or due
(19 R358, R365), and the host port has a trained module (21 R387). -/
def partOpen (s : State) (handle : Nat) : Bool :=
  s.pk.modules != 0 && !(s.pk.substituting.any (covers handle)) &&
    (getPart s handle).any fun p => p.rtload.isNone && !(quietPart s p && (wornCores s).any (covers handle))

/-- The cores a queued hart launch would take now: for one that resumes, those it had (17 R333). -/
def wantedCores (s : State) (l : Launch) : Option (List Nat) :=
  if l.saved.isEmpty then launchCores s l else some (l.saved.map Prod.fst)

/-- Whether a queued hart launch could start now. -/
def canStart (s : State) (l : Launch) : Bool :=
  l.state == .queued && !l.isTask && partOpen s l.part &&
    match wantedCores s l with
    | some cs => cs.all (coreFree s)
    | none => false

/-- Whether a waiting launch goes before another: higher class, then older (01 R26, 19 R369). -/
def launchBefore (a b : Launch) : Bool :=
  let prio := fun (l : Launch) => if l.spent then 7 else l.prio
  decide (prio a < prio b) || (prio a == prio b && decide (a.key < b.key))

/-- A hart of a hart launch as it starts (01 R28). -/
def hartStart (s : State) (l : Launch) (hart lidx : Nat) (p : Placement) : Hart :=
  let off := spillOffset l p hart
  let h := freshStart s hart (some l.key) lidx off (l.spill * 1024)
  { h with
    x := startRegs [(2, spillTop off (l.spill * 1024)), (4, l.param), (5, dw lidx), (6, dw l.count)]
    pc := l.codeBase + dw l.entry
    hla := l.lbase
    codeBase := l.codeBase
    codeSize := l.codeSize
    since := s.cycle }

/-- The hardware hart of a launch hart index (01 R29, 17 R334). -/
def hartOfIndex (cs : List Nat) (i : Nat) : Nat :=
  let n := cs.length * 4
  ((cs[i % n / 4]?).getD 0) * 4 + i % 4

/-- Place every core of a start, none when a placement is not allowed (11 R403). -/
def placeAll (key : Nat) (at_ : Placement) : List Nat → State → Option State
  | [], s => some s
  | c :: cs, s =>
    match getLaunch s key with
    | none => none
    | some l =>
      match placementFor s l c at_ with
      | none => none
      | some p =>
        placeAll key at_ cs (spillHarts (keepPlacement (setCore s c ((getCore s c).placed key l p)) key c p) l c p
          [0, 1, 2, 3])

/-- Start harts `i` to COUNT - 1; `n` of them are left. Those past the hardware harts wait as contexts. -/
def startHarts (key : Nat) (cs : List Nat) : Nat → Nat → State → State
  | 0, _, s => s
  | n + 1, i, s =>
    match getLaunch s key with
    | none => s
    | some l =>
      let hart := hartOfIndex cs i
      let p := (assocGet l.place (capacity s (hart / 4))).getD { logPage := 0, spillPage := 0 }
      let s := if i < cs.length * 4 then vacate s hart else s
      let h := hartStart s l hart i p
      let s := if i < cs.length * 4 then setHart s hart { h with events := (getHart s hart).events }
        else setLaunch s { l with contexts := l.contexts ++ [(hart, h)] }
      startHarts key cs n (i + 1) s

/-- Start a hart launch on its cores. -/
def startHartLaunch (s : State) (key : Nat) (cs : List Nat) (at_ : Placement) : Option State :=
  match placeAll key at_ cs s with
  | none => none
  | some s' =>
    match getLaunch s' key with
    | none => none
    | some l =>
      let s' := setLaunch s' { l with state := .running, started := s.cycle }
      some (startShadow (startHarts key cs l.count 0 s') key)

/-! ### The start of a task launch (15 R275) -/

/-- Whether the tiles of a launch fit beside those of the resident launches (15 R274). -/
def tilesFit (s : State) (l : Launch) : Bool :=
  !homesFull (tileHomes l.tiles ++ ((s.pk.launches.filter fun o => o.key != l.key && o.works).flatMap fun o =>
    tileHomes o.tiles))

/-- Apply the arming table in order (15 R275). -/
def armAll (key : Nat) : List TaskUnit → State → State
  | [], s => s
  | u :: us, s =>
    match getLaunch s key, u.act with
    | some l, .depset k n d => armAll key us (applyDepset s l u k n.toNat d)
    | _, _ => armAll key us s

/-- Whether each die of a launch's partition has the counters it asks for left (15 R275, R295). A launch for which
it has not waits (notes/assumptions/63.md). -/
def countersFit (s : State) (l : Launch) : Bool :=
  (partDies l.part).all fun d => decide ((((getDie s d).counters.map Prod.snd).sum) + l.ctrn ≤ 65536)

/-- Allocate a launch's counters on a list of dies. -/
def takeCounters (key n : Nat) : List Nat → State → State
  | [], s => s
  | d :: ds, s =>
    let x := getDie s d
    takeCounters key n ds (setDie s d { x with counters := (key, n) :: x.counters })

/-- Start a queued task launch: counters, tiles at version 0 with the homes they have now, the arming table, then
the root releases (15 R275). -/
def startTaskLaunch (s : State) (key : Nat) (tiles : List TileState) : State :=
  match getLaunch s key with
  | none => s
  | some l =>
    let s := takeCounters key l.ctrn (partDies l.part) s
    let s := setLaunch s { l with
      state := .running, started := s.cycle, tiles := tiles, units := [], releases := [] }
    let s := armAll key l.units s
    match getLaunch s key with
    | none => s
    | some l' => startShadow (setLaunch s { l' with releases := l'.releases ++ l.releases }) key

/-- Put a saved ready task back where it waited (R311): in its grove's queue while that has room, else in the die's
pool; one whose grove has gone out of service is placed anew. -/
def requeueAt (s : State) (key : Nat) (w : Nat × Bool × Nat) : State :=
  let d := getDie s (w.1 / 32)
  let g := getGrove s w.1
  if !d.groves.getLsbD (w.1 % 32) then
    match (getLaunch s key).bind (regOf · w.2.2) with
    | some r => placeReg s key r
    | none => s
  else if w.2.1 || decide (64 ≤ g.ready.length) then
    setDie s (w.1 / 32) { d with pool := d.pool ++ [(w.1, (key, w.2.2))] }
  else setGrove s w.1 { g with ready := g.ready ++ [(key, w.2.2)] }

/-- Put back the ready queues and pools of a resumed task launch, and release again the registrations that were kept
from a cancel (R311). -/
def resumeRegs (s : State) (key : Nat) (l : Launch) : State :=
  let s := refillAll (l.waitsAt.foldl (fun s w => requeueAt s key w) s)
  (l.regs.filter fun r => r.state == .kept).foldl (fun s r => reRelease s key r.id) s

/-- Resume a pre-empted task launch, and complete the RESUME. -/
def resumeTasks (s : State) (key : Nat) : State :=
  match getLaunch s key with
  | none => s
  | some l =>
    let s := takeCounters key l.ctrn (partDies l.part) s
    let s := resumeRegs (setLaunch s { l with state := .running, stopCmd := none, waitsAt := [] }) key l
    match l.stopCmd with
    | some c => complete s c 0 0
    | none => s

/-- Start a queued task launch, or resume it, if it can be now: its partition open, its counters and its tiles'
homes with room beside those of resident launches. One whose tiles may not be where they are, or are too many at one
home, is refused with INVAL (15 R274, R275). -/
def tryTaskLaunch (s : State) (key : Nat) : State :=
  match getLaunch s key with
  | none => s
  | some l =>
    if !l.isTask || l.state != .queued || !partOpen s l.part || !countersFit s l then s
    else if l.stopCmd.isSome then (if tilesFit s l then resumeTasks s key else s)
    else
      match getPart s l.part with
      | none => s
      | some p =>
        match homedTiles p l.tiles s with
        | (t, none) => if t.away.isSome then t else finishLaunch t key 1 0
        | (t, some tiles) =>
          if homesFull (tileHomes tiles) then finishLaunch t key 1 0
          else if tilesFit s { l with tiles := tiles } then startTaskLaunch t key tiles
          else s

/-- TASK_RELEASE (15 R277, R278): what an event that cannot be delivered has left to be released again (R310), else the
oldest release in progress of a launch, a spawn that has come to its scheduler (R289) first. A queued launch starts
first. -/
def execTaskRelease (launch : Nat) (s : State) : Host.Outcome State Fault Refusal :=
  match getLaunch s launch with
  | none => ok s
  | some l =>
    if l.isTask && l.state == .queued then ok (tryTaskLaunch s launch)
    else if !l.works then ok s
    else
      match l.orphans with
      | (reg, run) :: rest =>
        ok (redecideLaunch (releaseServed (setLaunch s { l with orphans := rest }) (some (launch, reg, run))) launch)
      | [] =>
      match nextSpawn s l with
      | some (s, e, die) => ok (settleLaunch (releaseNew s launch e die) launch)
      | none =>
        match l.releases with
        | [] => ok s
        | (e, die, which) :: rest =>
          let s := setLaunch s { l with releases := rest }
          match which with
          | some id => ok (redecideLaunch (reRelease s launch id) launch)
          | none => ok (settleLaunch (releaseNew s launch e die) launch)

/-! ### Stops (13 R266, 17 R332) -/

/-- Whether a window is a pop whose message has not come. -/
def Pending.isPop (p : Pending) : Bool :=
  match p.dest with
  | .pop .. => true
  | _ => false

/-- A stopped hart that is to execute a window again from its oldest instruction that is not done
(17 R323, R324; notes/assumptions/9.md). -/
def Hart.rewind (h : Hart) (p : Pending) (again : List Pending) : Hart :=
  let n := h.issued - (p.seq + 1)
  { h with
    pc := p.site.pc
    replayWord := p.site.word
    replay := (List.range n).map fun i =>
      ((h.hist[n - 1 - i]?).getD ⟨0, none⟩, again.any fun q => q.seq == p.seq + 1 + i)
    replayEnd := some h.pc }

/-- Stop the acting hart at an instruction boundary: results are written, a fault is recorded as the pending
trap, a pop whose message has not come executes again on resume (notes/assumptions/9.md), and a waiting push is
withdrawn (R332). MFAULT stays due; a held segment restarts on resume. -/
def stopActing (s : State) : State :=
  let again := s.hart.pend.filter fun p => p.fault.isSome || p.isPop
  let s := completeAll s (s.hart.pend.filter fun p => p.fault.isNone && !p.isPop)
  let s := withdrawSend s
  let h := { s.hart.dropBlocks with
    pend := [], stall := none, waitSince := none, waitStamp := none, waitRoute := none, alignHold := none
    fetch := none, near := false
    commandFaults := s.hart.commandFaults.filter fun e => e.trap.cause == .mfault }
  match again with
  | [] => { s with hart := h }
  | p :: _ =>
    match p.fault with
    | none => { s with hart := h.rewind p again }
    | some t =>
      let e := windowEntry s.hart p t again
      { s with hart := { h with
        pc := e.epc, pendingTrap := some (e.trap, e.lacount, e.path), replay := [], replayEnd := none
        replayWord := none } }

/-- Stop a list of harts. -/
def stopAll (s : State) : List Nat → State
  | [] => s
  | h :: l => stopAll (asHart s h stopActing) l

/-- The first record of a log that can be applied. -/
def applicable (s : State) (core : Nat) : Option Record :=
  let co := getCore s core
  (List.range co.log.length).findSome? (canApply s core co)

/-- Apply what can be applied of a core's log. -/
def applyLog (core : Nat) : Nat → State → State
  | 0, s => s
  | n + 1, s =>
    match applicable s core with
    | some r => applyLog core n (applyRecord s core r)
    | none => s

/-- Apply what a core has sent and complete the releases whose tails are applied. -/
def landLog (s : State) (core : Nat) : State := settle (applyLog core (getCore s core).log.length s) core

/-- One step of a grove's array, if it has one to make that need not wait: the running command goes on, or the next
accepted one starts, once what its release asks for has been applied (R246, 11 R214). -/
def arrayStep (s : State) (grove : Nat) : Option State :=
  let g := getGrove s grove
  match runningCommand g with
  | some _ =>
    [after (execMmaCompletion grove s) s, after (execMscaleWord grove s) s, after (execMmaSuspend grove s) s].find?
      fun t => t.away.isNone && (getGrove t grove).queue != g.queue
  | none =>
    let start := fun (s : State) => after (execMmaStart grove s) s
    let landed := match nextCommand s g with
      | some c => landLog s (c.hart / 4)
      | none => s
    [start s, start landed].find? fun t => (getGrove t grove).running

/-- Whether a hart has an accepted array command that no suspension keeps back. -/
def arrayWork (s : State) (hart : Nat) : Bool :=
  let h := getHart s hart
  (!h.lease.any fun l => l.susp.isSome) &&
    (!h.parked.isEmpty || (getGrove s (hartGrove hart)).queue.any fun c => c.hart == hart)

/-- Run the array, in acceptance order, until it has completed the commands of a hart or cannot go on (R246, R266). A
command of the hart that cannot go on, as a scale keeper's whose words find a peer's queue full, leaves the array to be
saved (DESIGN CHOICE: notes/assumptions/103.md). -/
def driveArray (hart : Nat) : Nat → State → State
  | 0, s => s
  | n + 1, s =>
    if arrayWork s hart then
      match arrayStep s (hartGrove hart) with
      | some t => driveArray hart n t
      | none =>
        let g := getGrove s (hartGrove hart)
        if (runningCommand g).any fun c => c.hart == hart then setGrove s (hartGrove hart) { g with running := false }
        else s
    else s

/-- A new token period begins (19 R366, R367): balances, hedging budgets, and the parked segments go on. -/
def Tenant.period (t : Tenant) : Tenant :=
  let repay := min t.debt (t.nextRefill / 2)
  { t with
    refill := t.nextRefill, hedge := t.nextHedge, weight := t.nextWeight, hedgeLeft := t.nextHedge
    debt := if t.nextRefill = 0 then t.debt else t.debt - repay
    balance := if t.nextRefill = 0 then 0 else t.nextRefill - repay
    chargedLast := t.chargedNow, chargedNow := false }

/-- Count the cycles parked segments waited for tokens (19 R372 counter 12). -/
def countParked (now : Nat) : List CopyCmd → State → State
  | [], s => s
  | c :: l, s =>
    match c.parked with
    | some t => countParked now l (countOwner s c 12 (now - t))
    | none => countParked now l s

/-- The next period begins, at a CYCLE value that is a multiple of 130,000 (19 R366). -/
def newPeriod (s : State) : State :=
  let s := countParked ((s.pk.period + 1) * 130000) s.pk.copies s
  { s with pk := { s.pk with
    period := s.pk.period + 1
    tenants := s.pk.tenants.map Tenant.period
    copies := s.pk.copies.map fun c => { c with parked := none } } }

/-- Whether a copy command belongs to the context that a hart holds. -/
def ofContext (hart launch lidx : Nat) (c : CopyCmd) : Bool :=
  c.hart == hart && c.launch == some launch && c.lidx == lidx

/-- The four steps of a copy command, tried. -/
def copyTries (s : State) (key : Nat) : List State :=
  [after (execCopyCompletion key s) s, after (execCopyUnitApply key s) s, after (execCopyrdUnitApply key s) s,
    after (execCopySegment key s) s]

/-- One step of a copy command, if it has one to make that need not wait. -/
def copyStep (s : State) (key : Nat) : Option State :=
  (copyTries s key).find? fun t => t.away.isNone && getCopy t key != getCopy s key

/-- More steps than the work of all copies of a machine takes. -/
def enough : Nat := 2 ^ 100

/-- The commands of a context that are outstanding and not held. -/
def outstandingOf (s : State) (hart launch lidx : Nat) : List CopyCmd :=
  s.pk.copies.filter fun c => ofContext hart launch lidx c && c.held.isNone

/-- Run copy commands until those of a context have completed, are held, or cannot go on (R266). Where
tokens are short the next period comes. -/
def driveCopies (hart launch lidx : Nat) : Nat → State → State
  | 0, s => s
  | n + 1, s =>
    let mine := outstandingOf s hart launch lidx
    if mine.isEmpty then s
    else
      let keys := mine.map (·.key) ++ (s.pk.copies.filter fun c => !ofContext hart launch lidx c).map (·.key)
      match keys.findSome? (copyStep s) with
      | some t => driveCopies hart launch lidx n t
      | none =>
        if mine.any fun c => c.parked.isSome then
          driveCopies hart launch lidx n (newPeriod { s with cycle := max s.cycle ((s.pk.period + 1) * 130000) })
        else s

/-- What the outstanding copies of a context wait for outside the package or of Understory, if they do
(17 R339, 21 R391). -/
def copyAway (s : State) (hart : Nat) : Option Away :=
  let h := getHart s hart
  (outstandingOf s hart (h.launch.getD 0) h.lidx).findSome? fun c =>
    (copyTries { s with away := none } c.key).findSome? (·.away)

/-- What the array commands of a context wait for outside the package or of Understory, if they do: the running
command, or the one that starts next (17 R339, 21 R391). -/
def arrayAway (s : State) (hart : Nat) : Option Away :=
  let k := hartGrove hart
  if arrayWork s hart then
    let t := after (execMmaStart k { s with away := none }) s
    ([execMmaCompletion k t, execMscaleWord k t, execMmaSuspend k t].map (after · t)).findSome? (·.away)
  else none

/-- What the engine work of a context waits for outside the package or of Understory, if it does. -/
def engineAway (s : State) (hart : Nat) : Option Away := (arrayAway s hart).or (copyAway s hart)

/-- Publish a core's log and reclaim what has been applied; a held record and those behind it stay (R332). -/
def drainLog (s : State) (core : Nat) : State :=
  let co := sendAll (getCore s core)
  let s := setCore s core co
  let s := applyLog core co.log.length s
  let co := getCore s core
  settle (setCore s core { co with log := co.log.filter fun r => !r.applied }) core

/-- Publish the logs of a list of cores. -/
def drainLogs (s : State) : List Nat → State
  | [] => s
  | c :: l => drainLogs (drainLog s c) l

/-- Complete the engine work of a stopped hart (R266). -/
def finishEngines (s : State) (hart : Nat) : State :=
  let h := getHart s hart
  let s := driveArray hart enough s
  match h.launch with
  | some key => driveCopies hart key h.lidx enough s
  | none => s

/-- Complete the engine work of a list of harts. -/
def finishAll (s : State) : List Nat → State
  | [] => s
  | h :: l => finishAll (finishEngines s h) l

/-- Write a hart's context block to its launch's save area (17 R332, R334, R335). -/
def saveBlock (s : State) (hart : Nat) : State :=
  let (n, s) := draw s
  let h := getHart s hart
  match h.launch.bind (getLaunch s) with
  | none => s
  | some l =>
    setLaunch s { l with saveArea := assocSet l.saveArea h.lidx (contextBlock (focus s hart) n) }

/-- Take a stopped hart's context out of it, with its lease session and the array commands that could not
complete (13 R266); the array goes on without it. Events of tasks that are queued at the hart stay there (17 R327). -/
def takeContext (s : State) (hart : Nat) : State :=
  let s := saveBlock (noteIssues (leaveWaiters s hart) hart) hart
  let k := groveOf (hart / 4)
  let g := getGrove s k
  let queued := (getHart s hart).events
  let h := getHart s hart
  let h := { h with events := [], parked := h.parked ++ g.queue.filter fun (c : ArrayCmd) => c.hart == hart }
  match h.launch.bind (getLaunch s) with
  | none => s
  | some l =>
    let s := setGrove s k { g with queue := g.queue.filter fun (c : ArrayCmd) => c.hart != hart }
    let s := setLaunch s { l with contexts := l.contexts ++ [(hart, h)] }
    setHart s hart { Hart.fresh hart with spillbase := h.spillbase, spillsize := h.spillsize, events := queued }

/-- Take the contexts of a list of harts. -/
def takeAll (s : State) : List Nat → State
  | [] => s
  | h :: l => takeAll (takeContext s h) l

/-- The cores a launch occupies. -/
def occupied (s : State) (key : Nat) : List Nat :=
  let cs := (launchHarts s key).map fun h => h / 4
  (cs.mergeSort fun a b => decide (a ≤ b)).eraseDups

/-- A core as the save leaves it: its log and queues have gone with the slice (17 R332, 13 R266), and with the queues
the words of its launch that wait at them, and with the log the releases still forming behind a held record, so that
releases of launches that follow on the core complete before those (DESIGN CHOICE: notes/assumptions/102.md). -/
def Core.emptied (c : Core) (key : Nat) : Core :=
  { c.withdraw (some key) with
    log := [], held := none, logerr := [], forming := [], queues := Vector.replicate 16 [], groups := [], frees := []
    mailbox := Vector.replicate 8 0, owner := none }

/-- Save the slices and the state of a list of cores with a launch (17 R332). -/
def saveCores (s : State) (key : Nat) : List Nat → State
  | [] => s
  | c :: cs =>
    match getLaunch s key with
    | none => s
    | some l =>
      let co := getCore s c
      let lo := sliceKey c 0
      let s := setLaunch s { l with
        saved := l.saved ++ [(c, co)], bytes := l.bytes ++ memRange s.mem lo (lo + 2 ^ 19) }
      saveCores (setCore s c (co.emptied key)) key cs

/-- Stop the harts of a hart launch and complete their engine work (17 R332, steps 1 to 3). -/
def stopHarts (s : State) (key : Nat) : State :=
  let hs := launchHarts s key
  let cs := occupied s key
  let s := drainLogs (stopAll s hs) cs
  drainLogs (finishAll s hs) cs

/-- Pre-empt a hart launch as a whole (17 R332). While a copy or an array command of it waits for an unreachable
package or for Understory the stop waits with it. -/
def preemptHarts (s : State) (key : Nat) : State :=
  let t := stopHarts s key
  match (launchHarts t key).findSome? (engineAway t) with
  | some a => { s with away := some a }
  | none =>
    let t := saveCores (takeAll t (launchHarts t key)) key (occupied s key)
    match getLaunch t key with
    | some l => setLaunch t { l with state := .preempted }
    | none => t

/-- A resumed core: its log, queues and counters as saved, the rest of it as it stands (17 R333). -/
def Core.restored (c saved : Core) (key : Nat) : Core :=
  { c with
    log := saved.log, nextRid := max c.nextRid saved.nextRid, held := saved.held, logerr := saved.logerr
    forming := saved.forming
    logbase := saved.logbase, logsize := saved.logsize, win := saved.win, bfmt := saved.bfmt
    blbl := saved.blbl, qlimit := saved.qlimit, queues := saved.queues, mailbox := saved.mailbox
    senders := Vector.zipWith (fun a b => a.filter (fun m => m.launch == some key) ++ b) saved.senders c.senders
    groups := saved.groups, frees := saved.frees, view := [], owner := some key }

/-- The spill areas of a core as its launch placed them (11 R403). -/
def replaceSpills (s : State) (key core : Nat) : State :=
  match getLaunch s key with
  | none => s
  | some l =>
    match assocGet l.place (capacity s core) with
    | some p => spillHarts s l core p [0, 1, 2, 3]
    | none => s

/-- Restore the saved cores of a launch, with the placement it has had (11 R403). -/
def restoreCores (key : Nat) : List (Nat × Core) → State → State
  | [], s => s
  | (c, co) :: l, s =>
    let lo := sliceKey c 0
    let s := { s with mem := memZero s.mem lo (lo + 2 ^ 19) }
    restoreCores key l (replaceSpills (setCore s c ((getCore s c).restored co key)) key c)

/-- Put a context into its hart, with its held segments restarted and its place among the lease waiters
(13 R266, 17 R333). Its b registers count as written just now (07 R136). Events queued at the hart stay there. -/
def putContext (s : State) (hart : Nat) (h : Hart) : State :=
  let s := vacate s hart
  let s := setHart s hart
    { h with since := s.cycle, bAt := Vector.replicate 4 h.issued, events := (getHart s hart).events }
  let again := fun (c : CopyCmd) =>
    if ofContext hart (h.launch.getD 0) h.lidx c && c.held.isSome then { c with held := none, reported := false }
    else c
  let s := { s with pk := { s.pk with copies := s.pk.copies.map again } }
  let k := groveOf (hart / 4)
  let g := getGrove s k
  if h.lease.isSome then setGrove s k { g with waiters := g.waiters ++ [hart] } else s

/-- The first saved context of each hart becomes resident again; the others wait. -/
def putContexts (key : Nat) : List (Nat × Hart) → State → State
  | [], s => s
  | (hart, h) :: l, s =>
    if (getHart s hart).launch = some key then
      match getLaunch s key with
      | some la => putContexts key l (setLaunch s { la with contexts := la.contexts ++ [(hart, h)] })
      | none => s
    else putContexts key l (putContext s hart h)

/-- Resume a pre-empted hart launch on its cores (17 R333), and complete the RESUME. -/
def resumeHarts (s : State) (key : Nat) : State :=
  match getLaunch s key with
  | none => s
  | some l =>
    let s := restoreCores key l.saved s
    let s := { s with mem := memRestore s.mem l.bytes }
    let s := setLaunch s { l with
      state := .running, contexts := [], saved := [], bytes := [], stopCmd := none }
    let s := putContexts key l.contexts s
    match l.stopCmd with
    | some c => complete s c 0 0
    | none => s

/-- Whether the in-service cores of its partition still allow a hart launch: all of its own where it resumes
(19 R376; notes/assumptions/65.md). -/
def fitsCores (s : State) (l : Launch) : Bool :=
  if !l.saved.isEmpty then l.saved.all fun c => inService s c.1
  else if l.cores then decide (l.count ≤ 4 * (liveCores s l.part).length)
  else !(liveCores s l.part).isEmpty

/-- HART_LAUNCH_DISPATCH (01 R29): a queued hart launch starts, or resumes, once its cores are free and no
launch before it could start (19 R369). One whose cores no longer suffice is refused (19 R376). -/
def execHartLaunchDispatch (launch : Nat) (at_ : Placement) (s : State) : Host.Outcome State Fault Refusal :=
  match getLaunch s launch with
  | none => ok s
  | some l =>
    if l.state = .queued ∧ ¬ l.isTask ∧ ¬ fitsCores s l then
      ok (finishLaunch s launch 2 0)
    else if !canStart s l || (s.pk.launches.any fun o => launchBefore o l && canStart s o && o.part == l.part) then
      ok s
    else if !l.saved.isEmpty then ok (resumeHarts s launch)
    else
      match wantedCores s l with
      | some cs => ok ((startHartLaunch s launch cs at_).getD s)
      | none => ok s

/-! ### Rotation (17 R334) -/

/-- The cycle at which the slice of a hart's resident context ends (19 R365, 01 R30): SLICE µs of 1,300
cycles, as SLICE stood when the rotation round began. -/
def sliceEnd (s : State) (hart : Nat) : Nat := (getHart s hart).since + (getHart s hart).slice * 1300

/-- The SLICE of the context that follows another on a hart: a new round, which begins with the lowest context, takes
the partition's (19 R365). -/
def nextSlice (s : State) (hart : Nat) (out next : Hart) : Nat :=
  if next.lidx ≤ out.lidx then (partOrNone s (hart / 4)).slice else out.slice

/-- The next context of a hart that has not halted. -/
def nextContext (l : Launch) (hart : Nat) : Option (Nat × Hart) :=
  l.contexts.find? fun c => c.1 == hart && c.2.run != .halted

/-- The launch whose contexts rotate on a hart: the resident one's. -/
def rotating (s : State) (hart : Nat) : Option (Launch × (Nat × Hart)) :=
  match (getHart s hart).launch.bind (getLaunch s) with
  | some l =>
    if !l.isTask && !l.cores && l.state == .running then (nextContext l hart).map fun c => (l, c) else none
  | none => none

/-- Stop the context of a hart and complete its engine work (R334, steps 1 and 2): what its core has sent reaches its
homes, so that releases its commands wait for complete. -/
def stopContext (s : State) (hart : Nat) : State :=
  finishEngines (landLog (asHart s hart stopActing) (hart / 4)) hart

/-- CONTEXT_ROTATION (R334): at the end of its slice a context gives its hart to the next one. -/
def execContextRotation (hart : Nat) (s : State) : Host.Outcome State Fault Refusal :=
  match rotating s hart with
  | none => ok s
  | some (l, c) =>
    let s := { s with cycle := max s.cycle (sliceEnd s hart) }
    let out := getHart s hart
    let t := stopContext s hart
    match engineAway t hart with
    | some a => ok { s with away := some a }
    | none =>
      let s := takeContext t hart
      match getLaunch s l.key with
      | none => ok s
      | some la =>
        let s := setLaunch s { la with contexts := la.contexts.erase c }
        ok (putContext s hart { c.2 with slice := nextSlice s hart out c.2 })

/-! ### Pre-emption of a task launch (15 R311) -/

/-- End the copies of a stopped task launch: a running one is cancelled on its hart, a parked one's records
are dropped. -/
def stopCopies (key : Nat) : List (Nat × RunCopy) → State → State
  | [], s => s
  | (id, c) :: l, s =>
    let h := getHart s c.hart
    let mine := h.task.any fun t => t.reg == id && t.tag == c.tag
    let s := match (getLaunch s key).bind fun la => (regOf la id).map fun r => (la, r) with
      | some (la, r) =>
        let work := match h.task with
          | some t => if mine then (h.rwc - t.startRwc).toNat else c.work
          | none => c.work
        countCancelled s la r work
      | none => s
    let s := if mine then leaveTask (dropCopy s c.hart) c.hart else dropRecords s c.hart c.tag
    stopCopies key l (removeCopy s key id c.hart c.tag fun r => r)

/-- Whether copies of a launch's registrations are still running, committing or parked. -/
def copiesLeft (l : Launch) : Bool := l.regs.any fun r => !r.copies.isEmpty

/-- Where the ready tasks of a launch wait: the entries of its grove queues and die pools (R311). -/
def waitingAt (s : State) (key : Nat) : List (Nat × Bool × Nat) :=
  (s.groves.flatMap fun g => (g.2.ready.filter fun e => e.1 == key).map fun e => (g.1, false, e.2)) ++
    s.dies.flatMap fun d => (d.2.pool.filter fun e => e.2.1 == key).map fun e => (e.1, true, e.2.2)

/-- The stop of a task launch is complete: what is not accepted is cancelled and kept, and its entries in ready queues
and pools are saved (R311). A registration that is queued again already waits there, and is not kept beside. -/
def finishStop (s : State) (key : Nat) : State :=
  match getLaunch s key with
  | none => s
  | some l =>
    let cs := l.regs.flatMap fun r => r.copies.map fun c => (r.id, c)
    let s := stopCopies key cs s
    let waits := waitingAt s key
    let s := leaveQueues s key
    let s := { s with dies := mapUnits (Die.freeCounters key) s.dies }
    match getLaunch s key with
    | none => s
    | some l' =>
      let keep := fun (r : TaskReg) =>
        if cs.any (fun c => c.1 == r.id) && !r.gone && r.state != .queued then { r with state := .kept } else r
      let s := setLaunch s { l' with
        regs := (l'.regs.filter fun r => !r.gone).map keep, waitsAt := waits, state := .preempted, stopCmd := none }
      match l.stopCmd with
      | some c => complete s c 0 0
      | none => s

/-- PREEMPT_DEADLINE (R311): the 20 µs pass, or no copy is left before. -/
def execPreemptDeadline (launch : Nat) (s : State) : Host.Outcome State Fault Refusal :=
  match getLaunch s launch with
  | none => ok s
  | some l =>
    if l.isTask && l.state == .stopping then
      ok (finishStop { s with cycle := if copiesLeft l then max s.cycle l.stopAt else s.cycle } launch)
    else ok s

/-! ### Clearing and replay (19 R363, R371, R383) -/

/-- A core as a grant leaves it (R363): the log of R403 at the top of its slice; LCLK goes on (11 R196), and the
releases that have completed stay, of which LOGSTAT gives the latest (11 R226; DESIGN CHOICE:
notes/assumptions/92.md). -/
def Core.granted (c : Core) (cap : Nat) : Core :=
  { Core.fresh with
    lclk := c.lclk, done := c.done, written := c.written, nextRid := c.nextRid, nextTag := c.nextTag, lasting := c.lasting, issuer := c.issuer
    laneLasting := c.laneLasting
    logbase := dw (cap - 0xC000) }

/-- The harts of a core as a grant leaves them: no launch, the spill areas of R403. -/
def clearHarts (s : State) (core : Nat) : State :=
  ((knownHarts s).filter fun h => h / 4 == core).foldl (fun s h => setHart s h (Hart.fresh h)) s

/-- Clear a list of cores as at grant. -/
def clearCores (s : State) : List Nat → State
  | [] => s
  | c :: cs => clearCores (setCore (clearHarts s c) c ((getCore s c).granted (capacity s c))) cs

/-- Clear a grove's accumulated flags as at grant, with those on their way. -/
def clearFlags (s : State) (g : Nat) : State := setGrove s g { getGrove s g with gfflags := 0, flight := [] }

/-- Clear the slices and cores of a partition's node as at grant (R363), but for those to keep, and the flags of the
groves that have none to keep. -/
def clearNode (s : State) (handle : Nat) (keep : List Nat) : State :=
  let hit := fun (k : Nat) => isSliceKey k && covers handle (sliceCore k) && !keep.contains (sliceCore k)
  let s := { s with
    mem := s.mem.filter fun c => !hit c.1
    pk := { s.pk with marked := s.pk.marked.filter fun k => !hit k } }
  let cores := partCores handle
  let groves := (cores.map groveOf).eraseDups.filter fun g => !(keep.any fun c => groveOf c == g)
  groves.foldl clearFlags (clearCores s (cores.filter fun c => !keep.contains c))

/-- Put back every page from its shadow (R383). -/
def restoreShadows : List (Nat × Nat × List Host.Cell) → State → State
  | [], s => s
  | (base, size, cells) :: l, s =>
    restoreShadows l { s with mem := memRestore (memZero s.mem base (base + size)) cells }

/-- Put the 4 KiB kept of a launch back at PARAM or TILETAB (R382, R383), sector by sector. -/
def restoreKept (s : State) (p : Partition) (l : Launch) : State :=
  let bs := l.kept.drop 128
  (List.range (bs.length / 32)).foldl (fun s i =>
    match keyOf s (partAgent s p) (l.param + dw (32 * i)) with
    | some k => { s with mem := memWriteBytes s.mem k ((bs.drop (32 * i)).take 32) }
    | none => s) s

/-- The other launches of a partition that have state in it, and go on while one is replayed (R378). -/
def neighbours (s : State) (l : Launch) : List Launch :=
  s.pk.launches.filter fun o => o.part == l.part && o.key != l.key && o.state != .surviving &&
    (o.state != .queued || !o.saved.isEmpty || o.stopCmd.isSome)

/-- The cores that hold harts, contexts, tiles or the log of a list of launches. -/
def coresOf (s : State) (ls : List Launch) : List Nat :=
  ls.flatMap fun o => occupied s o.key ++ o.contexts.map (fun c => c.1 / 4) ++
    ((o.tiles.map (·.home)).filter fun h => decide (h < 4096)) ++
    (knownCores s).filter fun c => (getCore s c).owner == some o.key && !(getCore s c).log.isEmpty

/-- Clear a partition for a replay (R383): as at grant, but for what the start needs, and for the cores and labels
that its other launches, which go on (R378), still use (notes/assumptions/36.md). -/
def clearForReplay (s : State) (p : Partition) (l : Launch) : State :=
  let others := neighbours s l
  let s := clearNode s l.part (coresOf s others)
  if others.isEmpty then setPart s { p with labels := [(0, 0)], notes := [], errors := [], ovf := false } else s

/-- Start a launch again from what was kept of it (R382, R383), or end it with TORN (R378): it stands queued, as its
partition, cleared for it, lets it start. A PREEMPT that waits for it completes with BUSY, a RESUME with OK, as the
launch starts again (notes/assumptions/65.md). -/
def replayLaunch (s : State) (key : Nat) (value : Dword) : State :=
  match getLaunch s key with
  | none => s
  | some l =>
    if !l.replay || l.kept.isEmpty || 3 ≤ l.replays then finishLaunch s key 11 value
    else
      match getPart s l.part with
      | none => s
      | some p =>
        let s := leaveQueues (dropHarts s false (launchHarts s key)) key
        let s := { s with dies := mapUnits (Die.freeCounters key) s.dies }
        let s := discardCopies s fun c => c.launch == some key
        let s := restoreShadows l.shadowed s
        let s := clearForReplay s p l
        let s := restoreKept s p l
        let s := match l.stopCmd with
          | some c => complete s c (if l.state = .queued then 0 else 4) 0
          | none => s
        let v := ofBytes (l.kept.take 128)
        let b := { Launch.blank key l.lid p l.cmd with
          root := l.root, replays := l.replays + 1, block := l.block, kept := l.kept, charged := l.charged
          spent := l.spent, place := l.place, started := l.started }
        let (s, n) := if l.isTask then taskBlock s p b v else (s, hartBlock s p b v)
        match n with
        | none => finishLaunch s key 11 value
        | some n => setLaunch s n

end Sys2Proof.Machine
end

