-- ==== Sys2Proof/Machine/Commands.lean ====
section
/-!
DEFINITION. Host commands (19 R355 to R360): who may issue each, its operands, effect, status and VALUE.
Every command completes through `Machine.complete`; a LAUNCH completes when its launch ends.
-/

namespace Sys2Proof.Machine

/-! ### Completion status codes (R359) -/

def stOk : Nat := 0
def stInval : Nat := 1
def stNores : Nat := 2
def stPriv : Nat := 3
def stBusy : Nat := 4
def stLocked : Nat := 5
def stSigfail : Nat := 6
def stFull : Nat := 7
def stLabelfull : Nat := 8
def stEnded : Nat := 12
def stDup : Nat := 13

/-- Whether commands of a function are served: the firmware runs and the function exists (R349, 21 R394). -/
def served (s : State) (fn : Nat) : Bool := s.pk.boot == .up && fnExists s fn

/-- The issuer column of R357. -/
inductive Issuer
  | any | vf | pf | both
  deriving DecidableEq, Repr

/-- Whether a function may issue a command. -/
def Issuer.allows (i : Issuer) (fn : Nat) : Bool :=
  match i with
  | .any | .both => true
  | .vf => fn != 0
  | .pf => fn == 0

/-- A command of a served function from a permitted issuer; another issuer gets PRIV (R357). -/
def command (s : State) (c : Cmd) (i : Issuer) (k : State) : State :=
  if !served s c.fn then s
  else if i.allows c.fn then k
  else complete s c stPriv 0

/-- The partition a command names: of the issuing tenant, or any for the PF (R357). -/
def cmdPart (s : State) (c : Cmd) : Option Partition :=
  (getPart s (cmdHandle c)).filter fun p => c.fn == 0 || fnOfTenant p.tenant == c.fn

/-- A command that names a partition: INVAL when there is none, BUSY from the PF while the tenant's function
is being reset (R357, R371). -/
def withPart (s : State) (c : Cmd) (k : Partition → State) : State :=
  match cmdPart s c with
  | none => complete s c stInval 0
  | some p => if c.fn == 0 && (getFn s (fnOfTenant p.tenant)).resetting then complete s c stBusy 0 else k p

/-- The launch of a command's LID in a partition (R357). -/
def cmdLaunch (s : State) (p : Partition) (c : Cmd) : Option Launch :=
  s.pk.launches.find? fun l => l.part == p.handle && l.lid == cmdAt c 24 8

/-- Whether a partition has a launch running, pre-empted or queued. -/
def partBusy (s : State) (p : Partition) : Bool := s.pk.launches.any fun l => l.part == p.handle

/-! ### Identification and summaries -/

/-- IDENTIFY (R357): version, NETCAP, SRAMCAP of each die, tenant number, trained modules (21 R387), in this
order (notes/assumptions/37.md). The PF serves no tenant: its tenant number is a free value. -/
def identifyBytes (s : State) (fn n : Nat) : List Byte :=
  bytesOf 8 s.pk.version.toNat ++ bytesOf 8 0x10202020 ++
    (List.range 8).flatMap (fun d => bytesOf 8 (sramcap (getDie s d).stacked).toNat) ++
    bytesOf 8 (if fn = 0 then (Config.freeDword n).toNat else fn - 1) ++ bytesOf 8 s.pk.modules

/-- IDENTIFY. -/
def execIdentify (cmd : Cmd) (s : State) : Host.Outcome State Fault Refusal :=
  ok (command s cmd .any
    (let (n, s) := draw s;
      complete (writeHost s cmd.fn (cmdAt cmd 16 8) (identifyBytes s cmd.fn n)) cmd stOk 0))

/-- State of a partition in RESYNC: 0 idle, 1 running, 2 pre-empted, 3 quiescing (R360): running while a launch of it
runs, pre-empted where none does and one is pre-empted. -/
def partState (s : State) (p : Partition) : Nat :=
  let ls := s.pk.launches.filter fun l => l.part == p.handle
  if s.pk.substituting.any (covers p.handle) then 3
  else if ls.any fun l => l.state == .running || l.state == .stopping then 1
  else if ls.any fun l => l.state == .preempted then 2
  else 0

/-- A partition entry of RESYNC (R360). -/
def partEntry (s : State) (p : Partition) : List Byte :=
  bytesOf 4 p.handle ++ bytesOf 1 p.tenant ++ bytesOf 1 (partState s p) ++
    bytesOf 2 (s.pk.launches.filter fun l => l.part == p.handle).length ++ bytesOf 4 p.slice ++
    bytesOf 4 (liveCores s p.handle).length

/-- State of a launch in RESYNC: 0 queued, 1 running, 2 pre-empted (R360). -/
def launchState (l : Launch) : Nat :=
  match l.state with
  | .queued => 0
  | .running => 1
  | .stopping => 1
  | .preempted => 2
  | .surviving => 0

/-- Whether a launch has started: it waits for no start, or for a RESUME or the start of a replay. -/
def Launch.hasStarted (l : Launch) : Bool := l.state != .queued || l.stopCmd.isSome || l.replays != 0

/-- A launch entry of RESYNC (R360; notes/assumptions/37.md); 1,300 cycles are a µs (21 R392). -/
def launchEntry (s : State) (l : Launch) : List Byte :=
  bytesOf 8 l.lid ++ bytesOf 4 l.part ++ bytesOf 1 (if l.isTask then 1 else 2) ++ bytesOf 1 (launchState l) ++
    bytesOf 2 (cmdCid l.cmd) ++ bytesOf 8 (if l.hasStarted then (s.cycle - l.started) / 1300 else 0) ++
    bytesOf 8 (l.charged / 1000)

/-- FSTAT as it reads (R352). -/
def fstat (f : Function) : Dword :=
  let t := match f.tdisp with
    | .unlocked => 0
    | .locked => 1
    | .run => 2
    | .error => 3
  dw (t * 16 + f.fatal.toNat * 4 + f.rdy.toNat * 2 + f.en.toNat)

/-- A function entry of RESYNC (R360; notes/assumptions/37.md). The spec gives the device no read index of the error
queue, so the entries written count (DESIGN CHOICE: notes/assumptions/99.md). -/
def fnEntry (f : Function) : List Byte :=
  bytesOf 1 f.num ++ bytesOf 1 (f.num - 1) ++ bytesOf 2 (fstat f).toNat ++ bytesOf 4 f.errs

/-- The blocks that fit a size in order: one that does not fit leaves out every later one (R360). -/
def fitting : Nat → List (List Byte) → List (List Byte)
  | _, [] => []
  | room, b :: l => if b.length ≤ room then b :: fitting (room - b.length) l else []

/-- The RESYNC summary for a function and a size (R360): header rows, then the entries that fit. A VF's covers its
tenant. The count of trained modules (21 R387) stands beside that of policies (notes/assumptions/37.md). -/
def resyncBytes (s : State) (fn size n : Nat) : List Byte :=
  let parts := s.pk.parts.filter fun p => fn == 0 || fnOfTenant p.tenant == fn
  let mine := fun (h : Nat) => parts.any fun p => p.handle == h
  let launches := s.pk.launches.filter fun l => mine l.part
  let fns := s.pk.functions.filter fun f => f.num != 0 && (fn == 0 || f.num == fn)
  let pe := parts.map (partEntry s)
  let le := launches.map (launchEntry s)
  let fe := fns.map fnEntry
  let total := 112 + 16 * pe.length + 32 * le.length + 8 * fe.length
  let got := (fitting (size - 112) (pe ++ le ++ fe)).length
  let np := min got pe.length
  let nl := min (got - np) le.length
  let nv := got - np - nl
  let own := getTenant s (fn - 1)
  let fixed := if fn = 0 then s.pk.corrected else own.corrected
  let lost := if fn = 0 then s.pk.uncorrected else own.uncorrected
  let counts := (List.range 5).flatMap fun i => bytesOf 4 ((fixed[i]?).getD 0) ++ bytesOf 4 ((lost[i]?).getD 0)
  let policies := s.pk.policies.filter fun p => fn == 0 || p.set.getLsbD (fn - 1)
  let rows := [bytesOf 4 1 ++ bytesOf 4 total, bytesOf 8 s.pk.version.toNat,
    (bytesOf 48 (Config.sha384 s.pk.image).toNat).reverse,
    bytesOf 1 np ++ bytesOf 2 nl ++ bytesOf 1 nv ++ bytesOf 1 policies.length ++ bytesOf 1 s.pk.modules ++
      bytesOf 2 (Config.freeDword n).toNat, counts]
  (fitting size (rows ++ pe ++ le ++ fe)).flatten

/-- The SVN of a firmware image (21 R396). -/
def imageSvn (img : List Byte) : Nat := ofBytes ((img.drop 16).take 4)

/-- RESYNC (R360). The first one of an image of higher SVN raises the fused SVN (21 R394). -/
def execResync (cmd : Cmd) (s : State) : Host.Outcome State Fault Refusal :=
  ok (command s cmd .any
    (let (n, s) := draw s
      let bs := resyncBytes s cmd.fn (cmdAt cmd 24 8) n
      let s := writeHost s cmd.fn (cmdAt cmd 16 8) bs
      let s := { s with pk := { s.pk with
        fusedSvn := if s.pk.resynced then s.pk.fusedSvn else max s.pk.fusedSvn (imageSvn s.pk.image)
        resynced := true } }
      complete s cmd stOk (dw bs.length)))

/-! ### Signals, notes and partitions -/

/-- Set SIPND.SOFT on a list of harts. -/
def signalHarts (s : State) : List Nat → State
  | [] => s
  | h :: l => signalHarts (setHart s h { getHart s h with soft := true }) l

/-- SIGNAL (R357, 17 R316). -/
def execSignal (cmd : Cmd) (s : State) : Host.Outcome State Fault Refusal :=
  ok (command s cmd .vf (withPart s cmd fun p =>
    complete (signalHarts s ((knownHarts s).filter fun h => covers p.handle (h / 4))) cmd stOk 0))

/-- NOTE (R357, 17 R320). -/
def execNote (cmd : Cmd) (s : State) : Host.Outcome State Fault Refusal :=
  ok (command s cmd .vf (withPart s cmd fun p =>
    if 16 ≤ p.notes.length then complete s cmd stBusy 0
    else complete (setPart s { p with notes := p.notes ++ [dw (cmdAt cmd 16 8)] }) cmd stOk 0))

/-- The leaves a node covers (R363). -/
def nodeLeaves (level idx : Nat) : List Nat := (List.range (2 ^ level)).map fun i => idx * 2 ^ level + i

/-- Whether a node can be granted (R363). -/
def grantable (s : State) (level idx : Nat) : Bool :=
  let h := s.pk.pkg * 2 ^ 24 + level * 4096 + idx
  let meets := fun (p : Partition) =>
    (nodeLeaves level idx).any fun l => (nodeLeaves (handleLevel p.handle) (handleIndex p.handle)).contains l
  !(s.pk.parts.any meets) && (partCores h).all (inService s)

/-- The node a grant takes: the named one, or the lowest-indexed one for 0xFFF (R363). -/
def chooseNode (s : State) (level idx : Nat) : Option Nat :=
  if idx = 0xFFF then (List.range (64 / 2 ^ level)).find? (grantable s level)
  else if grantable s level idx then some idx
  else none

/-- Drop every held translation of a partition. -/
def dropAllHeld (s : State) (handle : Nat) : State :=
  dropHeld (dropHeld s handle false none) handle true none

/-- PART_GRANT (R363). The default S1BASE before a PART_CONFIG is 0 (notes/assumptions/1.md). -/
def execPartGrant (cmd : Cmd) (s : State) : Host.Outcome State Fault Refusal :=
  let tenant := cmdAt cmd 16 4
  let level := cmdAt cmd 20 4
  let idx := cmdAt cmd 24 8
  ok (command s cmd .pf
    (if !fnExists s (fnOfTenant tenant) || decide (192 ≤ tenant) || decide (6 < level) ||
        (idx != 0xFFF && decide (64 / 2 ^ level ≤ idx)) then complete s cmd stInval 0
      else
        match chooseNode s level idx with
        | none => complete s cmd stNores 0
        | some i =>
          let h := s.pk.pkg * 2 ^ 24 + level * 4096 + i
          let p : Partition :=
            { handle := h, tenant := tenant, labels := [(0, 0)], s2root := none, s1base := 0, slice := 1000,
              stvec := none, notes := [], errors := [], ovf := false, rtload := none }
          let s := clearNode (dropAllHeld s h) h []
          complete { s with pk := { s.pk with parts := s.pk.parts ++ [p] } } cmd stOk (dw h)))

/-- An RT_LOAD whose initialisation run is cut off by another command completes with BUSY
(notes/assumptions/65.md). -/
def cutRtLoad (s : State) (p : Partition) : State :=
  match p.rtload with
  | some (c, _) => complete (setPart s { p with rtload := none }) c stBusy 0
  | none => s

/-- PART_RETURN (R364). -/
def execPartReturn (cmd : Cmd) (s : State) : Host.Outcome State Fault Refusal :=
  ok (command s cmd .pf (withPart s cmd fun p =>
    if partBusy s p then complete s cmd stBusy 0
    else
      let s := cutRtLoad s p
      let s := ((knownHarts s).filter fun h => covers p.handle (h / 4)).foldl unloadHart s
      complete { s with pk := { s.pk with parts := s.pk.parts.filter fun q => q.handle != p.handle } }
        cmd stOk 0))

/-- PART_CONFIG (R365): harts take SLICE when a rotation round begins, and S1BASE when they start. -/
def execPartConfig (cmd : Cmd) (s : State) : Host.Outcome State Fault Refusal :=
  ok (command s cmd .vf (withPart s cmd fun p =>
    let slice := cmdAt cmd 16 8
    if slice < 100 ∨ 100000 < slice then complete s cmd stInval 0
    else
      complete (setPart s { p with slice := slice, s1base := dw (cmdAt cmd 24 8 / 2 ^ 13 % 2 ^ 43 * 2 ^ 13) })
        cmd stOk 0))

/-- LABEL_INTERN (R357, 11 R221). -/
def execLabelIntern (cmd : Cmd) (s : State) : Host.Outcome State Fault Refusal :=
  ok (command s cmd .vf (withPart s cmd fun p =>
    match intern s p.handle (BitVec.ofNat 192 (cmdAt cmd 16 24)) with
    | (s, some l) => complete s cmd stOk (l.setWidth 64)
    | (s, none) => complete s cmd stLabelfull 0))

/-! ### The runtime (R358) -/

/-- Whether every page of a region translates with execute permission (R358). -/
def regionRuns (ag : Agent) : List Dword → State → State × Bool
  | [], s => (s, true)
  | e :: l, s =>
    match translate s ag needFetch e.toNat with
    | (s, .ok _) => regionRuns ag l s
    | (s, .error _) => (s, false)

/-- Hart 0 of a core as the initialisation run starts it (R358, 11 R403). -/
def initHart (s : State) (hart idx n : Nat) (pc arg : Dword) : Hart :=
  let h := freshStart s hart none 0 0x1000 4096
  { h with
    mode := .supervisor
    x := startRegs [(2, spillTop 0x1000 4096), (4, arg), (5, dw idx), (6, dw n)]
    pc := pc
    initRun := true }

/-- Start the initialisation run on a list of cores, counted from `idx` (R358). -/
def startInit (pc arg : Dword) (n : Nat) : List Nat → Nat → State → State
  | [], _, s => s
  | c :: cs, idx, s =>
    let co := getCore s c
    let s := setCore s c { co with logbase := dw (capacity s c - 0xC000), logsize := 0xC000, owner := none }
    let s := [1, 2, 3].foldl (fun s i => setHart s (c * 4 + i) (Hart.fresh (c * 4 + i))) s
    startInit pc arg n cs (idx + 1) (setHart s (c * 4) (initHart s (c * 4) idx n pc arg))

/-- RT_LOAD (R358). -/
def execRtLoad (cmd : Cmd) (s : State) : Host.Outcome State Fault Refusal :=
  ok (command s cmd .vf (withPart s cmd fun p =>
    let base := cmdAt cmd 16 8
    let size := cmdAt cmd 24 8
    let trap := cmdAt cmd 32 8
    let init := cmdAt cmd 40 8
    let cs := liveCores s p.handle
    if !(aligned base 65536 && aligned size 64 && decide (0 < size) && decide (base + size ≤ 2 ^ 56) &&
        aligned trap 4 && decide (trap < size) && aligned init 4 && decide (init < size)) then
      complete s cmd stInval 0
    else
      let (s, runs) := regionRuns (partAgent s p) (pagesOf (dw base) size) s
      if !runs then complete s cmd stInval 0
      else if partBusy s p then complete s cmd stBusy 0
      else
        let s := cutRtLoad s p
        let s := ((knownHarts s).filter fun h => covers p.handle (h / 4)).foldl unloadHart s
        let p := { p with stvec := some (dw (base + trap)), rtload := none }
        if cs.isEmpty then complete (setPart s p) cmd stOk 0
        else
          startInit (dw (base + init)) (dw (cmdAt cmd 48 8)) cs.length cs 0
            (setPart s { p with rtload := some (cmd, cs.length) })))

/-- S2_ROOT (R357): INVAL for an address that is not aligned or names absent HBM (21 R385). -/
def execS2Root (cmd : Cmd) (s : State) : Host.Outcome State Fault Refusal :=
  ok (command s cmd .pf (withPart s cmd fun p =>
    let a := cmdAt cmd 16 8
    if a % 8192 ≠ 0 ∨ 2 ^ 48 ≤ a ∨ ¬ hbmPresent s a then complete s cmd stInval 0
    else
      let s := dropAllHeld s p.handle
      complete (setPart s { p with s2root := some a }) cmd stOk 0))

/-! ### Launches -/

/-- LAUNCH (R357, 01 R26 to R29, 15 R271 to R275). The completion entry waits for the launch's end. -/
def execLaunch (cmd : Cmd) (s : State) : Host.Outcome State Fault Refusal :=
  ok (command s cmd .vf (withPart s cmd fun p =>
    let lid := cmdAt cmd 24 8
    let used := s.pk.launches.any fun l => l.lid == lid &&
      (getPart s l.part).any fun q => q.tenant == p.tenant
    if used then complete s cmd stDup 0
    else if p.stvec.isNone then complete s cmd stBusy 0
    else
      match blockLaunch s p (Launch.blank s.pk.nextLaunch lid p cmd) (dw (cmdAt cmd 16 8)) with
      | (s, none) => complete s cmd stInval 0
      | (s, some (l, v)) =>
        if !l.isTask && !fitsCores s l then complete s cmd stNores 0
        else
          let l := { l with block := bytesOf 128 v }
          let s := { s with pk := { s.pk with
            launches := s.pk.launches ++ [l], nextLaunch := s.pk.nextLaunch + 1 } }
          tryTaskLaunch s l.key))

/-- PREEMPT (R357, R311, 17 R332): a hart launch is stopped whole; a task launch's copies have 20 µs, which
are 26,000 cycles. -/
def execPreempt (cmd : Cmd) (s : State) : Host.Outcome State Fault Refusal :=
  ok (command s cmd .both (withPart s cmd fun p =>
    match cmdLaunch s p cmd with
    | none => complete s cmd stInval 0
    | some l =>
      if l.state ≠ .running then complete s cmd stBusy 0
      else if l.isTask then
        setLaunch s { l with state := .stopping, stopCmd := some cmd, stopAt := s.cycle + 26000 }
      else complete (preemptHarts s l.key) cmd stOk 0))

/-- RESUME (R357, R311, 17 R333): a hart launch waits, queued, until its cores are free, a task launch until there is
room for its tiles and counters. -/
def execResume (cmd : Cmd) (s : State) : Host.Outcome State Fault Refusal :=
  ok (command s cmd .both (withPart s cmd fun p =>
    match cmdLaunch s p cmd with
    | none => complete s cmd stInval 0
    | some l =>
      if l.state ≠ .preempted then complete s cmd stBusy 0
      else
        let s := setLaunch s { l with state := .queued, stopCmd := some cmd }
        if l.isTask then tryTaskLaunch s l.key
        else if canStart s { l with state := .queued } then resumeHarts s l.key else s))

/-- END (R357): of a running or pre-empted launch, one whose RESUME waits included. -/
def execEndLaunch (cmd : Cmd) (s : State) : Host.Outcome State Fault Refusal :=
  ok (command s cmd .both (withPart s cmd fun p =>
    match cmdLaunch s p cmd with
    | none => complete s cmd stInval 0
    | some l =>
      if l.state = .queued ∧ l.stopCmd.isNone then complete s cmd stBusy 0
      else complete (finishLaunch s l.key stEnded 0) cmd stOk 0))

/-! ### Policies (11 R223) -/

/-- Whether every reserved field of a policy is zero and its DEST is assigned (11 R223). -/
def policyOk (v len : Nat) : Bool :=
  let n := ((List.range 192).filter fun t => v / 2 ^ (64 + t) % 2 == 1).length
  field v 0 32 == 1 && field v 32 32 == 0 && field v 264 22 == 0 && decide (field v 286 2 < 2) &&
    field v 288 32 == 0 && field v 384 128 == 0 && decide (2 ≤ n) && len == 64 + 3373 * n

/-- Whether both signatures of every tenant of a policy verify (11 R223). -/
def policySigned (s : State) (body : List Byte) : List Nat → List Byte → Bool
  | [], _ => true
  | t :: ts, sig =>
    let f := getFn s (fnOfTenant t)
    fnExists s (fnOfTenant t) && Config.ed25519Verify f.ed25519 body (sig.take 64) &&
      Config.mldsaVerify f.mldsa body ((sig.drop 64).take 3309) && policySigned s body ts (sig.drop 3373)

/-- POLICY_ADD (11 R223, R357): the first refusal in the order of R223; whether the host lets the policy be read
is its choice (notes/assumptions/60.md). The index that VALUE returns is the lowest free one (DESIGN CHOICE:
notes/assumptions/108.md). -/
def execPolicyAdd (cmd : Cmd) (s : State) : Host.Outcome State Fault Refusal :=
  ok (command s cmd .vf
    (let len := cmdAt cmd 24 8
      let a := cmdAt cmd 16 8
      let (s, unread) := hostRejects s (hostKey cmd.fn a)
      let v := memRead s.mem (hostKey cmd.fn a) 64
      if unread || !policyOk v len then complete s cmd stInval 0
      else
        let set : Mask := BitVec.ofNat 192 (field v 64 192)
        let ts := (List.range 192).filter fun t => set.getLsbD t
        let pol : Policy :=
          { index := ((List.range 257).find? fun i => !(s.pk.policies.any fun p => p.index == i)).getD 0
            set := set, dest := BitVec.ofNat 32 (field v 256 32), serial := dw (field v 320 64) }
        if !ts.contains (cmd.fn - 1) then complete s cmd stPriv 0
        else if !policySigned s (bytesOf 64 v) ts (memBytes s.mem (hostKey cmd.fn (a + 64)) (len - 64)) then
          complete s cmd stSigfail 0
        else if 256 ≤ s.pk.policies.length then complete s cmd stFull 0
        else if s.pk.policies.any fun p => p.set == pol.set && p.dest == pol.dest && p.serial == pol.serial then
          complete s cmd stDup 0
        else
          complete { s with pk := { s.pk with policies := s.pk.policies ++ [pol] } } cmd stOk (dw pol.index)))

/-- POLICY_DEL (R357): PRIV for a tenant that is not in SET. -/
def execPolicyDel (cmd : Cmd) (s : State) : Host.Outcome State Fault Refusal :=
  ok (command s cmd .vf
    (match s.pk.policies.find? fun p => p.index == cmdAt cmd 16 8 with
      | none => complete s cmd stInval 0
      | some p =>
        if !p.set.getLsbD (cmd.fn - 1) then complete s cmd stPriv 0
        else
          complete { s with pk := { s.pk with policies := s.pk.policies.filter fun q => q.index != p.index } }
            cmd stOk 0))

/-! ### Budgets, scrubbing and counters -/

/-- BUDGET_SET (R368): in force from the next period start after this cycle. -/
def execBudgetSet (cmd : Cmd) (s : State) : Host.Outcome State Fault Refusal :=
  let tenant := cmdAt cmd 16 8
  let w := cmdAt cmd 40 8
  ok (command s cmd .pf
    (if 192 ≤ tenant ∨ w = 0 ∨ 15 < w then complete s cmd stInval 0
      else
        let t := getTenant s tenant
        let s := { s with pk := { s.pk with period := max s.pk.period (s.cycle / 130000) } }
        complete (setTenant s { t with
          nextRefill := cmdAt cmd 24 8, nextHedge := cmdAt cmd 32 8, nextWeight := w }) cmd stOk 0))

/-- The range of a level's scrub interval in ms (R379). -/
def scrubRange (level : Nat) : Nat × Nat :=
  match level with
  | 0 => (10, 10000)
  | 1 => (10, 10000)
  | 2 => (10, 10000)
  | 3 => (1000, 3600000)
  | _ => (1, 1000)

/-- SCRUB_SET (R379). -/
def execScrubSet (cmd : Cmd) (s : State) : Host.Outcome State Fault Refusal :=
  let level := cmdAt cmd 16 8
  let ms := cmdAt cmd 24 8
  ok (command s cmd .pf
    (if 5 ≤ level ∨ ms < (scrubRange level).1 ∨ (scrubRange level).2 < ms then complete s cmd stInval 0
      else complete { s with pk := { s.pk with scrub := s.pk.scrub.set level ms } } cmd stOk 0))

/-- A tenant's counters with those of its contexts, resident or saved (R372). -/
def tenantCounters (s : State) (tenant : Nat) : Vector Dword 16 :=
  let mine := fun (h : Nat) => (getPart s h).any fun p => p.tenant == tenant
  let resident := ((knownHarts s).filter fun h => tenantOf s (h / 4) == some tenant).map fun h => (getHart s h).perf
  let saved := (s.pk.launches.filter fun l => mine l.part).flatMap fun l => l.contexts.map fun c => c.2.perf
  (resident ++ saved).foldl addCounts (getTenant s tenant).counters

/-- COUNTERS (R372). How many flits the mesh takes for an access is not stated: count 2 is a free value
(notes/assumptions/68.md). -/
def execCounters (cmd : Cmd) (s : State) : Host.Outcome State Fault Refusal :=
  let tenant := if cmd.fn = 0 then cmdAt cmd 24 8 else cmd.fn - 1
  ok (command s cmd .any
    (if 192 ≤ tenant then complete s cmd stInval 0
      else
        let (n, s) := draw s
        let bs := dwordBytes (shownCounts n (tenantCounters s tenant))
        complete (writeHost s cmd.fn (cmdAt cmd 16 8) bs) cmd stOk 0))

/-! ### Virtual functions (R350) -/

/-- Whether a function's privileged operands are in range (R353, R368, 21 R386). -/
def vfOk (cmd : Cmd) : Bool :=
  decide (cmdAt cmd 32 8 < 2048) && decide (1 ≤ cmdAt cmd 40 8) && decide (cmdAt cmd 40 8 ≤ 15)

/-- VF_CREATE (R350): whatever its VEC and WEIGHT, of which the fields' bits are kept
(notes/assumptions/70.md). -/
def execVfCreate (cmd : Cmd) (s : State) : Host.Outcome State Fault Refusal :=
  let v := cmdAt cmd 16 8
  let a := cmdAt cmd 24 8
  ok (command s cmd .pf
    (if v = 0 ∨ 192 < v then complete s cmd stInval 0
      else if fnExists s v then complete s cmd stBusy 0
      else
        let f : Function := { Function.fresh v with
          ed25519 := memBytes s.mem (hostKey 0 a) 32
          mldsa := memBytes s.mem (hostKey 0 (a + 32)) 1952
          vec := cmdAt cmd 32 8 % 2048
          weight := cmdAt cmd 40 8 % 16 }
        complete { s with pk := { s.pk with functions := s.pk.functions ++ [f] } } cmd stOk 0))

/-- Whether a function's interface is locked (R361): from CONFIG_LOCKED until it returns to CONFIG_UNLOCKED, in ERROR
too, which is reached from CONFIG_LOCKED and RUN only. -/
def Function.locked (f : Function) : Bool := f.tdisp != .unlocked

/-- VF_DESTROY (R350). -/
def execVfDestroy (cmd : Cmd) (s : State) : Host.Outcome State Fault Refusal :=
  let v := cmdAt cmd 16 8
  ok (command s cmd .pf
    (if v = 0 ∨ ¬ fnExists s v then complete s cmd stInval 0
      else if s.pk.parts.any fun p => fnOfTenant p.tenant == v then complete s cmd stBusy 0
      else if (getFn s v).locked then complete s cmd stLocked 0
      else
        complete { s with pk := { s.pk with
          functions := s.pk.functions.filter fun f => f.num != v
          policies := s.pk.policies.filter fun p => !p.set.getLsbD (v - 1)
          cmds := s.pk.cmds.filter fun c => c.fn != v } } cmd stOk 0))

/-- VF_CONFIG (R357, R361): for a locked interface LOCKED, whatever its other operands. -/
def execVfConfig (cmd : Cmd) (s : State) : Host.Outcome State Fault Refusal :=
  let v := cmdAt cmd 16 8
  ok (command s cmd .pf
    (if v = 0 ∨ ¬ fnExists s v then complete s cmd stInval 0
      else
        let f := getFn s v
        if f.locked then complete s cmd stLocked 0
        else if !vfOk cmd then complete s cmd stInval 0
        else complete (setFn s { f with vec := cmdAt cmd 32 8, weight := cmdAt cmd 40 8 }) cmd stOk 0))

/-! ### Firmware (21 R396, R397) -/

/-- The bytes that the ROM's signatures of an image cover: all up to its body's end (21 R396). -/
def imageCovered (img : List Byte) : Nat := 64 + ofBytes ((img.drop 20).take 4)

/-- Whether an object is a firmware image: of the form of R396 and no longer, with signatures that verify and an SVN
that may run. -/
def imageOk (s : State) (img : List Byte) : Bool :=
  let n := imageCovered img
  ofBytes (img.take 8) == 0x4C495A4F435A5746 && decide (n + 64 + 3309 ≤ 33554432) &&
    img.length == n + 64 + 3309 && decide (imageSvn img ≤ 63) && decide (s.pk.fusedSvn ≤ imageSvn img) &&
    ((img.drop 24).take 40).all (fun b => b == 0) &&
    Config.ed25519Verify Config.romEd25519Key (img.take n) ((img.drop n).take 64) &&
    Config.mldsaVerify Config.romMldsaKey (img.take n) ((img.drop (n + 64)).take 3309)

/-- Whether a staged piece begins a new object: one of the other kind, or a configuration from its first byte on. An
image says itself how long it is (notes/assumptions/97.md). -/
def freshObject (s : State) (kind off : Nat) : Bool := kind != s.pk.stagedKind || (kind == 1 && off == 0)

/-- FW_STAGE (21 R397). -/
def execFwStage (cmd : Cmd) (s : State) : Host.Outcome State Fault Refusal :=
  let n := cmdAt cmd 24 8
  let off := cmdAt cmd 32 8
  let kind := cmdAt cmd 40 8
  ok (command s cmd .pf
    (if s.pk.commit.isSome then complete s cmd stBusy 0
      else if n = 0 ∨ 4194304 < n ∨ 33554432 < off + n ∨ 1 < kind then complete s cmd stInval 0
      else
        let bs := memBytes s.mem (hostKey 0 (cmdAt cmd 16 8)) n
        let new := freshObject s kind off
        complete { s with pk := { s.pk with
          staging := memWriteBytes (if new then [] else s.pk.staging) off bs
          staged := if new then off + n else max s.pk.staged (off + n), stagedKind := kind } }
          cmd stOk (dw n)))

/-- The staged object of a kind: of an image the bytes its header counts, of a configuration all that has been staged;
nothing where the other kind has been staged (21 R396, R397; notes/assumptions/97.md). -/
def stagedObject (s : State) (kind : Nat) : List Byte :=
  let bs := memBytes s.pk.staging 0 s.pk.staged
  if kind ≠ s.pk.stagedKind then []
  else if kind = 0 then bs.take (imageCovered bs + 64 + 3309)
  else bs

/-- FW_COMMIT (21 R397): verifies the staged object; the write then goes on until FW_COMMIT_COMPLETION. -/
def execFwCommit (cmd : Cmd) (s : State) : Host.Outcome State Fault Refusal :=
  let kind := cmdAt cmd 40 8
  let bs := stagedObject s kind
  ok (command s cmd .pf
    (if s.pk.commit.isSome || s.pk.flashWp then complete s cmd stBusy 0
      else if 1 < kind then complete s cmd stInval 0
      else if kind = 0 ∧ ¬ imageOk s bs then complete s cmd stSigfail 0
      else if kind = 1 ∧ (kind ≠ s.pk.stagedKind ∨ (Config.parseDomain bs).isNone) then complete s cmd stInval 0
      else { s with pk := { s.pk with commit := some cmd, journalOpen := true } }))

/-! ### Error logs (R380) -/

/-- The 32 bytes of an error-log entry (R380; notes/assumptions/37.md). -/
def LogEntry.bytes (e : LogEntry) : List Byte :=
  bytesOf 1 e.level ++ bytesOf 1 e.kind ++ bytesOf 2 e.unit ++ bytesOf 4 e.place ++ bytesOf 8 e.addr ++
    bytesOf 8 e.tenant ++ bytesOf 8 e.cycle

/-- ERRLOG_READ (R380): the oldest entries. -/
def execErrlogRead (cmd : Cmd) (s : State) : Host.Outcome State Fault Refusal :=
  let level := cmdAt cmd 16 8
  ok (command s cmd .pf
    (match s.pk.errlog[level]? with
      | none => complete s cmd stInval 0
      | some l =>
        let es := l.take (cmdAt cmd 32 8)
        complete (writeHost s 0 (cmdAt cmd 24 8) (es.flatMap LogEntry.bytes)) cmd stOk (dw es.length)))

/-- UNKNOWN_COMMAND (R357). -/
def execUnknownCommand (cmd : Cmd) (s : State) : Host.Outcome State Fault Refusal :=
  ok (if served s cmd.fn then complete s cmd stInval 0 else s)

/-- The command that an entry's OPC names (R357). -/
noncomputable def cmdInstr (c : Cmd) : Instr :=
  match cmdAt c 0 1 with
  | 0x01 => .identify c
  | 0x02 => .resync c
  | 0x08 => .signal c
  | 0x09 => .note c
  | 0x10 => .partGrant c
  | 0x11 => .partReturn c
  | 0x12 => .partConfig c
  | 0x13 => .labelIntern c
  | 0x14 => .rtLoad c
  | 0x18 => .s2Root c
  | 0x20 => .launch c
  | 0x21 => .preempt c
  | 0x22 => .resume c
  | 0x23 => .endLaunch c
  | 0x30 => .policyAdd c
  | 0x31 => .policyDel c
  | 0x40 => .budgetSet c
  | 0x48 => .scrubSet c
  | 0x50 => .counters c
  | 0x60 => .vfCreate c
  | 0x61 => .vfDestroy c
  | 0x62 => .vfConfig c
  | 0x70 => .fwStage c
  | 0x71 => .fwCommit c
  | 0x78 => .errlogRead c
  | _ => .unknownCommand c

end Sys2Proof.Machine
end

