-- ==== Sys2Proof/Machine/FloatOps.lean ====
section
/-!
DEFINITION. Scalar floating-point instructions (07 R115 to R120). Operands sit in the low bits of x
registers and the upper bits of a result are zero (03 R37).
-/

namespace Sys2Proof.Machine

/-- The operand of a type in an x register (03 R37). -/
def Hart.rf (h : Hart) (t : Fmt) (r : Reg) : Nat := (h.rx r).toNat % 2 ^ t.w

/-- The rounding mode of an rm field: dyn reads FRM (03 R54). -/
def Hart.rmode (h : Hart) (r : BitVec 3) : RMode :=
  RMode.ofCode (if r = 7 then h.frm.toNat else r.toNat)

/-- Whether an rm field is one of the defined codes (03 R54). -/
def rmOk (r : BitVec 3) : Bool := r != 5 && r != 6

/-- A class P floating-point result with its flags (07 R120). -/
def fpResult (s : State) (d : Reg) (v : Nat) (f : Flags) : State :=
  raiseFlags { s with hart := (s.hart.wx d (dw v)).retire } f

/-- A rounding function of two operands (07 R115). -/
def fp2 (s : State) (d a b : Reg) (t : BitVec 2) (r : BitVec 3)
    (f : Fmt → RMode → Nat → Nat → Nat × Flags) : Host.Outcome State Fault Refusal :=
  if rmOk r then
    let ty := Fmt.ofTy t
    let (v, fl) := f ty (s.hart.rmode r) (s.hart.rf ty a) (s.hart.rf ty b)
    ok (fpResult s d v fl)
  else ok (illegal s)

/-- A function of two operands that does not round (03 R54, 07 R115). -/
def fpPlain (s : State) (d a b : Reg) (t : BitVec 2) (f : Fmt → Nat → Nat → Nat × Flags) :
    Host.Outcome State Fault Refusal :=
  let ty := Fmt.ofTy t
  let (v, fl) := f ty (s.hart.rf ty a) (s.hart.rf ty b)
  ok (fpResult s d v fl)

/-- A compare as a number with its flags. -/
def cmpNat (r : Bool × Flags) : Nat × Flags := (r.1.toNat, r.2)

def execFadd (d a b : Reg) (t : BitVec 2) (r : BitVec 3) (s : State) := fp2 s d a b t r fAdd
def execFsub (d a b : Reg) (t : BitVec 2) (r : BitVec 3) (s : State) := fp2 s d a b t r fSub
def execFmul (d a b : Reg) (t : BitVec 2) (r : BitVec 3) (s : State) := fp2 s d a b t r fMul
def execFmin (d a b : Reg) (t : BitVec 2) (s : State) := fpPlain s d a b t fun ty => fMinMax ty false false
def execFmax (d a b : Reg) (t : BitVec 2) (s : State) := fpPlain s d a b t fun ty => fMinMax ty true false
def execFmini (d a b : Reg) (t : BitVec 2) (s : State) := fpPlain s d a b t fun ty => fMinMax ty false true
def execFmaxi (d a b : Reg) (t : BitVec 2) (s : State) := fpPlain s d a b t fun ty => fMinMax ty true true
def execFsgc (d a b : Reg) (t : BitVec 2) (s : State) := fpPlain s d a b t fun ty x y => (fSign ty 0 x y, 0)
def execFsgi (d a b : Reg) (t : BitVec 2) (s : State) := fpPlain s d a b t fun ty x y => (fSign ty 1 x y, 0)
def execFsgx (d a b : Reg) (t : BitVec 2) (s : State) := fpPlain s d a b t fun ty x y => (fSign ty 2 x y, 0)
def execFeq (d a b : Reg) (t : BitVec 2) (s : State) := fpPlain s d a b t fun ty x y => cmpNat (fEq ty x y)
def execFlt (d a b : Reg) (t : BitVec 2) (s : State) :=
  fpPlain s d a b t fun ty x y => cmpNat (fLess ty false x y)
def execFle (d a b : Reg) (t : BitVec 2) (s : State) :=
  fpPlain s d a b t fun ty x y => cmpNat (fLess ty true x y)
/-- FCLASS (07 R116). It sets no flag, of a signalling NaN neither (DESIGN CHOICE between R83's list and
IEEE 754: notes/assumptions/45.md). -/
def execFclass (d a : Reg) (t : BitVec 2) (s : State) := fpPlain s d a 0 t fun ty x _ => (fClass ty x, 0)

/-- The bits of an integer code 0 to 3 (03 R65). -/
def intBits (c : BitVec 2) : Nat := 8 * 2 ^ c.toNat

/-- An integer result extended to 64 bits (07 R117). -/
def intDword (v : Int) : Dword := dw (wrapInt 64 v)

/-- A conversion from a floating type to an integer type (07 R117). -/
def fcvtInt (s : State) (d a : Reg) (c t : BitVec 2) (r : BitVec 3) (signed : Bool) :
    Host.Outcome State Fault Refusal :=
  if rmOk r then
    let ty := Fmt.ofTy t
    let (v, fl) := fToInt (ty.val (s.hart.rf ty a)) (s.hart.rmode r) signed (intBits c)
    ok (fpResult s d (intDword v).toNat fl)
  else ok (illegal s)

/-- A conversion from an integer type to a floating type (07 R117). -/
def intCvtf (s : State) (d a : Reg) (c t : BitVec 2) (r : BitVec 3) (signed : Bool) :
    Host.Outcome State Fault Refusal :=
  if rmOk r then
    let n := intBits c
    let x := (s.hart.rx a).toNat % 2 ^ n
    let (v, fl) := intToF (Fmt.ofTy t) (s.hart.rmode r) (if signed then sval n x else x)
    ok (fpResult s d v fl)
  else ok (illegal s)

def execFcvti (d a : Reg) (c t : BitVec 2) (r : BitVec 3) (s : State) := fcvtInt s d a c t r true
def execFcvtn (d a : Reg) (c t : BitVec 2) (r : BitVec 3) (s : State) := fcvtInt s d a c t r false
def execIcvtf (d a : Reg) (c t : BitVec 2) (r : BitVec 3) (s : State) := intCvtf s d a c t r true
def execNcvtf (d a : Reg) (c t : BitVec 2) (r : BitVec 3) (s : State) := intCvtf s d a c t r false

/-- FCVTF between two different floating types (07 R117, 03 R64). -/
def execFcvtf (d a : Reg) (c t : BitVec 2) (r : BitVec 3) (s : State) :
    Host.Outcome State Fault Refusal :=
  if rmOk r && sourceType c != t then
    let src := Fmt.ofElem (8 + c.toNat)
    let (v, fl) := fToF (Fmt.ofTy t) (s.hart.rmode r) (src.val (s.hart.rf src a))
    ok (fpResult s d v fl)
  else ok (illegal s)

/-- A class L floating-point result (07 R118). -/
def fpLong (s : State) (d : Reg) (l : BitVec 4) (v : Nat × Flags) : Host.Outcome State Fault Refusal :=
  ok (issueL s l (.x d (dw v.1)) v.2 true none)

/-- FDIV (07 R118). -/
def execFdiv (d a b : Reg) (t : BitVec 2) (r : BitVec 3) (l : BitVec 4) (s : State) :
    Host.Outcome State Fault Refusal :=
  let ty := Fmt.ofTy t
  if rmOk r then fpLong s d l (fDiv ty (s.hart.rmode r) (s.hart.rf ty a) (s.hart.rf ty b))
  else ok (illegal s)

/-- FSQRT (07 R118). -/
def execFsqrt (d a : Reg) (t : BitVec 2) (r : BitVec 3) (l : BitVec 4) (s : State) :
    Host.Outcome State Fault Refusal :=
  let ty := Fmt.ofTy t
  if rmOk r then fpLong s d l (fSqrt ty (s.hart.rmode r) (s.hart.rf ty a)) else ok (illegal s)

/-- A fused multiply-add, rounded by FRM (07 R119). -/
def fused (s : State) (d a b c : Reg) (t : BitVec 2) (np nc : Bool) :
    Host.Outcome State Fault Refusal :=
  let ty := Fmt.ofTy t
  let (v, fl) := fMulAdd ty (s.hart.rmode 7) np nc (s.hart.rf ty a) (s.hart.rf ty b) (s.hart.rf ty c)
  ok (fpResult s d v fl)

def execFmadd (d a b c : Reg) (t : BitVec 2) (s : State) := fused s d a b c t false false
def execFmsub (d a b c : Reg) (t : BitVec 2) (s : State) := fused s d a b c t false true
def execFnmadd (d a b c : Reg) (t : BitVec 2) (s : State) := fused s d a b c t true true
def execFnmsub (d a b c : Reg) (t : BitVec 2) (s : State) := fused s d a b c t true false

end Sys2Proof.Machine
end

