-- ==== Sys2Proof/Machine/LogEvents.lean ====
section
/-!
DEFINITION. What happens to logs, homes and tables between instructions: reads and units as they arrive
(11 R188 to R195, R204, R208, R213, R222), expiries (R198, R202, R205), and Understory's service of stage 2,
replicas and shadows (17 R339, R343, 19 R383). Where an event is not enabled nothing happens
(notes/assumptions/27.md).
-/

namespace Sys2Proof.Machine

/-! ### Reads -/

/-- A read of another core's slice reaches its target (11 R213): a refusal is counted there, a grant fills
the reader's view buffer (notes/assumptions/41.md). -/
def arriveRead (s : State) (core : Nat) (e : Dword) : State :=
  match formOf s core e with
  | .slice c off =>
    let t := c.toNat % 4096
    match readRefused s core t off with
    | some cnt => if cnt then countRefusal s t else s
    | none => if t = core then s else (viewSector s core (sectorKey (sliceKey t off))).1
  | _ => s

/-- The parts of a read arrive in order. -/
def arriveReads (s : State) (core : Nat) : List (Dword × Nat) → State
  | [] => s
  | (e, _) :: l => arriveReads (arriveRead s core e) core l

/-- READ_REQUEST (11 R213): a read of n bytes by a core; one that would raise ADDR or DIECROSS never leaves
it (11 R184). -/
def execReadRequest (core : Nat) (addr : Dword) (n : Nat) (s : State) : Host.Outcome State Fault Refusal :=
  let ag : Agent := { core := core, mode := .user, root := 0, launch := none }
  let ps := parts addr (min n 64)
  ok (if (addrFault s ag false true ps).isSome then s else arriveReads s core ps)

/-! ### Records -/

/-- Send the first n unpublished non-task records of a log, in append order. -/
def sendFirst : Nat → List Record → List Record
  | _, [] => []
  | 0, l => l
  | n + 1, r :: l =>
    if r.task || r.pubd then r :: sendFirst (n + 1) l else { r with pubd := true } :: sendFirst n l

/-- AUTO_PUBLICATION (11 R194): nothing leaves behind a held record (R209). -/
def execAutoPublication (core n : Nat) (s : State) : Host.Outcome State Fault Refusal :=
  let co := getCore s core
  ok (if co.held.isSome then s else setCore s core { co with log := sendFirst n co.log })

/-- RECORD_APPLY (11 R188, R209, R219). -/
def execRecordApply (core idx : Nat) (s : State) : Host.Outcome State Fault Refusal :=
  match canApply s core (getCore s core) idx with
  | some r => ok (applyRecord s core r)
  | none => ok s

/-- RECORD_ACK (11 R191). -/
def execRecordAck (core idx : Nat) (s : State) : Host.Outcome State Fault Refusal :=
  ok (setCore s core (ackRecord (getCore s core) idx))

/-- The launch of a record: the one on its hart, or the one last placed on its core. -/
def launchOfRecord (s : State) (core : Nat) (r : Record) : Option Nat :=
  (recordLaunch s core r).or (getCore s core).owner

/-- A record of a core that holds an uncorrectable error (11 R208): an error of the log regions, level 4, met by the
hart that appended the record (19 R379 to R381). -/
def lostRecord (s : State) (core : Nat) (r : Record) : State :=
  consumed s core (coreEntry s 4 2 1 core) r.addr (hartId s (core * 4 + r.hart.toNat))

/-- An error that cannot be pinned to a task (19 R359, R378): the launch is replayed, or ends with TORN and VALUE the
cause code with the entry written last in a level's log. -/
def unpinned (s : State) (key : Option Nat) (level : Nat) (c : Cause) : State :=
  match key with
  | some k => replayLaunch s k (tornValue s level c.code)
  | none => s

/-- RECORD_RESEND (11 R208): a record sent and lost in flight goes again; its home applies it once. One whose
log copy holds an error cannot be sent again; when its launch is over, it is only lost. -/
def execRecordResend (core idx : Nat) (s : State) : Host.Outcome State Fault Refusal :=
  match (getCore s core).log[idx]? with
  | none => ok s
  | some r =>
    let key := (launchOfRecord s core r).filter fun k => (getLaunch s k).isSome
    let co := getCore s core
    let gone := setCore s core { co with log := co.log.filter fun x => x.rid != r.rid }
    ok (if r.pubd && !r.applied && r.bad then
        if key.isSome then unpinned (lostRecord s core r) key 4 .logerr else settle (lostRecord gone core r) core
      else s)

/-- The parked copy that a tag names on a core: its launch, registration and copy. -/
def parkedTag (s : State) (core : Nat) (tag : BitVec 16) : Option (Nat × TaskReg × RunCopy) :=
  s.pk.launches.findSome? fun l => l.regs.findSome? fun r =>
    (r.copies.find? fun c => c.hart / 4 == core && c.tag == tag && c.state == .parked).map fun c => (l.key, r, c)

/-- Cancel a parked commit for an error in one of its records: its hart, which has left the task, learns of it by an
event, and the task is released again when that has been served (11 R208, 15 R310). -/
def cancelTagged (s : State) (core : Nat) (tag : BitVec 16) (addr : Dword) : State :=
  match parkedTag s core tag with
  | some (key, r, c) => redecideLaunch (parkedReply s key r c (.fault ⟨.logerr, addr⟩)) key
  | none => s

/-- Whether the copy a hart runs, or waits in COMMIT for, has a tag. -/
def runsTag (h : Hart) (tag : BitVec 16) : Bool := h.task.any fun t => t.tag == tag && t.reply.isNone

/-- LOG_ERROR_DETECTED (11 R208): what an error in a record does depends on the record. A copy that still
runs is cancelled by a LOGERR of its hart (15 R310; notes/assumptions/42.md). -/
def execLogErrorDetected (core idx : Nat) (s : State) : Host.Outcome State Fault Refusal :=
  let co := getCore s core
  match co.log[idx]? with
  | none => ok s
  | some r =>
    let without := co.log.filter fun x => x.rid != r.rid
    let hart := core * 4 + r.hart.toNat
    let h := getHart s hart
    if r.task then
      let s := lostRecord (setCore s core { co with log := without }) core r
      ok (if runsTag h r.tag then
          setHart s hart { h with pendingTrap := h.pendingTrap.or (some (⟨.logerr, r.addr⟩, 0, [])) }
        else cancelTagged s core r.tag r.addr)
    else if !r.pubd then
      ok (settle (lostRecord (setCore s core { co with
        log := without
        logerr := co.logerr ++ [{ hart := r.hart, lidx := r.lidx, addr := r.addr, pc := r.pc }] }) core r) core)
    else if r.applied then ok s
    else
      ok (setCore s core { co with
        log := co.log.map fun x => if x.rid = r.rid then { x with bad := true } else x })

/-! ### Releases, acquires and atomics -/

/-- RELEASE_COMPLETION (11 R195). -/
def execReleaseCompletion (core : Nat) (s : State) : Host.Outcome State Fault Refusal := ok (settle s core)

/-- ACQUIRE_REQUEST (11 R197): the request of a core reaches the log its stamp names. -/
def execAcquireRequest (core : Nat) (stamp : Dword) (s : State) : Host.Outcome State Fault Refusal :=
  match localCore s (BitVec.ofNat 20 (bits stamp 0 20)) with
  | none => ok s
  | some t => ok (if mustWait s core t stamp then s else acquireLog s core t stamp)

/-- The location of an atomic that has arrived at its home with a physical key: granted by a window, or in
a page of the issuer's partition (11 R213, R225). -/
def atomicLocation (s : State) (core key : Nat) (w : Nat) : Option Location :=
  if key % (w / 8) ≠ 0 ∨ isMarked s key then none
  else if isSliceKey key then
    let t := sliceCore key
    let g := grantsAt (getCore s t) (sliceOff key)
    if t = core ∨ (samePartition s core t ∧ g.rd ∧ g.pb) then
      some { key := key, place := none, mask := bankMask s t (bankOf (sliceOff key)) }
    else none
  else
    (partOf s core).bind fun p => (pageOfKey s p key).map fun pl =>
      { key := key, place := some pl, mask := pl.mask s }

/-- Whether a key lies in private memory of the core whose slice holds it (11 R205, R211). -/
def privateKey (s : State) (key : Nat) : Bool :=
  isSliceKey key && !(grantsAt (getCore s (sliceCore key)) (sliceOff key)).en

/-- ATOMIC_APPLY (11 R204 to R206): the home of a location performs an atomic of a core, for the launch placed on it
(19 R383). -/
def execAtomicApply (req : AtomicReq) (s : State) : Host.Outcome State Fault Refusal :=
  let w := if req.w32 then 32 else 64
  let ag : Agent := { core := req.core, mode := .supervisor, root := 0, launch := (getCore s req.core).owner }
  let s := reach s req.key
  match atomicLocation s req.core req.key w with
  | none => ok s
  | some loc =>
    match amoApply s ag loc req.op.toNat w (req.operand.toNat % 2 ^ w) (req.compare.toNat % 2 ^ w)
        (req.label ||| loc.mask) with
    | .error _ => ok s
    | .ok (s, _, _) =>
      let s := dropView s req.core [sectorKey loc.key]
      let got := if req.acquire then tagsAt s loc.key else []
      let s := match req.stamp with
        | some st => if privateKey s loc.key then s else tagLocation s loc.key req.core st
        | none => s
      ok (acquireEntries s req.core got)

/-! ### Expiries -/

/-- VIEW_BUFFER_EXPIRY (11 R202). -/
def execViewBufferExpiry (core : Nat) (s : State) : Host.Outcome State Fault Refusal :=
  let co := getCore s core
  ok (setCore s core { co with view := co.view.filter (·.live s.cycle) })

/-- ACQUIRED_ENTRY_EXPIRY (11 R198). -/
def execAcquiredEntryExpiry (core : Nat) (s : State) : Host.Outcome State Fault Refusal :=
  let co := getCore s core
  ok (setCore s core { co with acquired := liveSet s.cycle co.acquired })

/-- RELEASE_TAG_EXPIRY (11 R205). -/
def execReleaseTagExpiry (s : State) : Host.Outcome State Fault Refusal :=
  ok { s with pk := { s.pk with
    tags := s.pk.tags.filter (·.live s.cycle)
    evicted := s.pk.evicted.filter fun e => decide (s.cycle < e.2.2 + 4096) } }

/-! ### Egress -/

/-- The place of a record's page, by the tables as they stand. -/
def placeOfRecord (s : State) (core : Nat) (r : Record) : Option Place :=
  match formOf s core r.addr with
  | .virt va => peek s (r.agent core none) va
  | _ => none

/-- The record at a place of a log, if it is the next of its home and the leaf of its page is as asked. -/
def recordTo (s : State) (core idx : Nat) (which : Dword → Bool) : Option Record :=
  (canApply s core (getCore s core) idx).filter fun r =>
    (placeOfRecord s core r).any fun pl => which pl.leaf

/-- The record at a place of a log, if it is the next of its home and bound for host memory. -/
def hostRecord (s : State) (core idx : Nat) : Option Record := recordTo s core idx entU

/-- EGRESS_CHECK (11 R222): Firebreak passes a record on to host memory or beyond the domain, or drops it and
it is held. -/
def execEgressCheck (core idx : Nat) (s : State) : Host.Outcome State Fault Refusal :=
  match recordTo s core idx fun e => entU e || leafBeyond s e with
  | some r => ok (applyRecord s core r)
  | none => ok s

/-- A record that its home has taken without effect: it counts as applied (17 R339). -/
def takeRecord (s : State) (core : Nat) (r : Record) : State :=
  let co := getCore s core
  settle (setCore s core { co with
    log := co.log.map fun x => if x.rid = r.rid then { x with applied := true } else x }) core

/-- A record of a partition's cores that is on its way to host memory at an address, and that Firebreak lets pass. -/
def postedTo (s : State) (handle : Nat) (addr : Dword) : Option (Nat × Record) :=
  ((knownCores s).filter (covers handle)).findSome? fun c =>
    (List.range (getCore s c).log.length).findSome? fun i =>
      ((hostRecord s c i).filter fun r => r.addr == (addr &&& ~~~31) && (placeOfRecord s c r).any fun pl =>
        egressAllowed s (maskAt s c r.lsid) pl.tenant).map fun r => (c, r)

/-- A copy unit of a partition's harts that is on its way to host memory at an address: the command and the unit. -/
def unitTo (s : State) (handle : Nat) (addr : Dword) : Option (CopyCmd × CopyUnit) :=
  (s.pk.copies.filter fun c => covers handle (c.hart / 4) && c.kind != .reduce).findSome? fun c =>
    (c.units.head?.filter fun u => u.fail.isNone && u.addr == (addr &&& ~~~31)).bind fun u =>
      match formOf s c.agent.core u.addr with
      | .virt va =>
        ((peek s c.agent va).filter fun pl => entU pl.leaf && egressAllowed s u.label pl.tenant).map fun _ => (c, u)
      | _ => none

/-- HOST_WRITE_REJECT (17 R339, 19 R381): the host rejects a posted write of a record or of a copy unit; the write is
lost and a HOSTWR entry names its address. A commit writes no host memory (15 R274). -/
def execHostWriteReject (part : Nat) (addr : Dword) (s : State) : Host.Outcome State Fault Refusal :=
  match postedTo s part addr, unitTo s part addr with
  | some (c, r), _ => ok (postError (takeRecord s c r) part 10 0 (firstByte r.addr r.mask) 0)
  | none, some (c, u) => ok (postError (unitDone s c.key u.recv) part 10 0 (firstByte u.addr u.mask) 0)
  | none, none => ok s

/-! ### Changes of pages -/

/-- The writes that have reached their homes: the records and copy units that come next. -/
def arrivedWrites (s : State) : List (Agent × Dword) :=
  ((knownCores s).flatMap fun c =>
    (List.range (getCore s c).log.length).filterMap fun i =>
      (canApply s c (getCore s c) i).map fun r => (r.agent c (launchOfRecord s c r), r.addr)) ++
    s.pk.copies.filterMap fun c => c.units.head?.map fun u => (c.agent, u.addr)

/-- The places of the writes that have reached a page. -/
def arrivedPlaces (s : State) : List (Agent × Place) :=
  (arrivedWrites s).filterMap fun (ag, e) =>
    match formOf s ag.core e with
    | .virt va => (peek s ag va).map fun pl => (ag, pl)
    | _ => none

/-- REPLICA_COLLAPSE (17 R343): a write has reached a replicated page, whose copies go before it is applied. -/
def execReplicaCollapse (part : Nat) (ia : Dword) (s : State) : Host.Outcome State Fault Refusal :=
  match (arrivedPlaces s).find? fun (_, pl) =>
      pl.handle == part && entRepl pl.leaf && ia.toNat / 2 ^ pl.bits == pl.ia / 2 ^ pl.bits with
  | some (_, pl) => ok (collapse s pl)
  | none => ok s

/-- SHADOW_COPY (19 R383): a first write of a replayable launch has reached a page with SHAD set, named by
the key of its first byte, and the page is copied before it is applied. -/
def execShadowCopy (launch page : Nat) (s : State) : Host.Outcome State Fault Refusal :=
  match (arrivedPlaces s).find? fun (ag, pl) =>
      ag.launch == some launch && entShad pl.leaf && !entU pl.leaf && pl.key - pl.ia % 2 ^ pl.bits == page with
  | some (_, pl) => ok (shadowPage s launch pl)
  | none => ok s

/-- The entry of an IA at which a stage-2 walk stops, with its level: invalid, or a leaf naming absent
memory. -/
def missing2 (s : State) (ia : Nat) : List Nat → Nat → Option (Nat × Nat)
  | [], _ => none
  | sh :: rest, table =>
    let pa := entryPa table sh ia
    if !hbmPresent s pa then none
    else
      let e := dw (memRead s.mem (hbmKey s pa) 8)
      if !valid2 sh e then some (pa, sh)
      else if entLeaf e then (if leafPresent s e then none else some (pa, sh))
      else missing2 s ia rest (entAddr2 e)

/-- An entry that Understory may put in place of an invalid one at a level: a leaf of memory that exists, or a
further table in HBM that exists (17 R337 to R339, 21 R385). -/
def installable (s : State) (sh : Nat) (e : Dword) : Bool :=
  valid2 sh e && (if entLeaf e then leafPresent s e else sh != 16 && hbmPresent s (entAddr2 e))

/-- The questions to Understory without those about a page. -/
def unasked (s : State) (handle page : Nat) : List (Nat × Nat × Bool) :=
  s.pk.asks.filter fun a => !(a.1 == handle && a.2.1 == page)

/-- The sectors of a page of HBM that hold an uncorrectable error, which its copies hold too (11 R399;
notes/assumptions/100.md). -/
def copiedMarks (s : State) (e : Dword) (bits : Nat) : List Nat :=
  s.pk.marked.filter fun k => decide (hbmKey s (entAddr2 e) ≤ k) && decide (k < hbmKey s (entAddr2 e) + 2 ^ bits)

/-- Understory's copies of a page whose leaf has REPL (17 R343), one in the HBM of each die, from which the die's
reads come: each holds what the page holds, as any write of the page collapses them first. -/
def replicate (s : State) (handle ia sh : Nat) (e : Dword) : State :=
  if entLeaf e && entRepl e then
    { s with pk := { s.pk with replicas := (handle, ia / 2 ^ sh, copiedMarks s e sh) :: s.pk.replicas } }
  else s

/-- STAGE2_SERVICE (17 R339, 21 R385): Understory fills an invalid entry with a valid leaf of memory that
exists or with a further table, or finds the IA unmapped, which an access that has asked then learns. -/
def execStage2Service (part : Nat) (ia : Dword) (leaf : Option Dword) (s : State) :
    Host.Outcome State Fault Refusal :=
  let page := ia.toNat / 65536
  match (getPart s part).bind fun p => p.s2root.bind fun t => missing2 s ia.toNat levelShifts t, leaf with
  | some (pa, sh), some e =>
    ok (if installable s sh e then
        replicate { writeEntry s pa e with pk := { s.pk with asks := unasked s part page } } part ia.toNat sh e
      else s)
  | _, none =>
    ok (if s.pk.asks.contains (part, page, false) then
        { s with pk := { s.pk with asks := unasked s part page ++ [(part, page, true)] } }
      else s)
  | _, _ => ok s

end Sys2Proof.Machine
end

