-- ==== Sys2Proof/Machine/TrapEvents.lean ====
section
/-!
DEFINITION. What happens at a hart's instruction boundary besides instructions: pending traps, interrupts,
asynchronous events and user-level interrupts (17 R316, R322, R327, R329), idling (R347), class L results
(03 R58), reserved words (03 R55), the order of issue (01 R22, R23), and flags on their way (05 R90).
-/

namespace Sys2Proof.Machine

/-! ### Entries -/

/-- An interrupt or event at point N of the acting hart (17 R316, R322): the next instruction's address is
saved. -/
def boundaryEntry (s : State) (t : Trap) (int async tcan : Bool) : Entry :=
  { trap := t, epc := s.hart.pc, int := int, async := async, lacount := 0, xpc := none, path := []
    tcan := tcan }

/-- Take an entry at a boundary. While a window waits nothing is taken; when a window faults its fault is
taken instead, and what was pending stays so. `pop` takes away what the entry delivers (17 R322). -/
def deliverAt (s : State) (e : Entry) (pop : State → State) : State :=
  if windowsWait s then pause s
  else if windowsFault s then takeTrap s e
  else takeTrap (pop s) e

/-- Whether the acting hart takes supervisor interrupts and events now (17 R316); not while a return executes
a window again, which is one act (R324), nor from COMMIT's issue until the first reply, when it is not ready
(15 R288; DEDUCED: notes/assumptions/106.md). -/
def takesInterrupts (h : Hart) : Bool :=
  h.replayEnd.isNone && !h.task.any (·.waiting) && match h.mode with
  | .user => true
  | .supervisor => bit h.sup.status 0
  | .machine => false

/-- The lowest interrupt code that is pending and enabled (17 R316). -/
def pendingCode (s : State) : Option Nat :=
  (List.range 4).find? fun i => bit (sipnd s) i && s.hart.sien.getLsbD i

/-- The cause whose code an interrupt code shares (17 R315, R316). -/
def codeCause (i : Nat) : Cause :=
  match i with
  | 0 => .illegal
  | 1 => .frame
  | 2 => .addr
  | _ => .align

/-- SUPERVISOR_INTERRUPT (17 R316). -/
def execSupervisorInterrupt (s : State) : Host.Outcome State Fault Refusal :=
  match pendingCode s with
  | some i =>
    ok (if s.hart.run == .running && takesInterrupts s.hart then
        deliverAt s (boundaryEntry s ⟨codeCause i, 0⟩ true false false) id
      else s)
  | none => ok s

/-- Mark the held segment that an event reports (13 R256). -/
def reportHeld (hart : Nat) (t : Trap) : List CopyCmd → List CopyCmd
  | [] => []
  | c :: l =>
    if c.hart = hart ∧ c.held = some t ∧ c.reported = false then { c with reported := true } :: l
    else c :: reportHeld hart t l

/-- Take the oldest event of the acting hart's own commands (17 R327). -/
def popCommandFault (e : Event) (s : State) : State :=
  { s with
    hart := { s.hart with commandFaults := s.hart.commandFaults.drop 1 }
    pk := { s.pk with copies := if e.trap.cause = .mfault then s.pk.copies else reportHeld s.hgid e.trap s.pk.copies } }

/-- Take the oldest queued event. -/
def popEvent (s : State) : State := { s with hart := { s.hart with events := s.hart.events.drop 1 } }

/-- EVENT_ENTRY (17 R327): consequences of the hart's own commands first, whatever SSTATUS.EN holds, then
queued events under the condition of R316. A hart between tasks takes events too. The former cancel the copy that the
hart runs (15 R310), in a handler too. -/
def execEventEntry (s : State) : Host.Outcome State Fault Refusal :=
  let h := s.hart
  match h.commandFaults, h.events with
  | e :: _, _ =>
    ok (if h.run == .running && h.mode != .machine && h.replayEnd.isNone then
        deliverAt s (boundaryEntry s e.trap false true h.task.isSome) (popCommandFault e)
      else s)
  | [], e :: _ =>
    ok (if (h.run == .running || (h.run == .unloaded && h.launch.isSome)) && takesInterrupts h then
        deliverAt s { boundaryEntry s e.trap false true false with resume := e.resume } popEvent
      else s)
  | [], [] => ok s

/-- The lowest channel with a pending completion (17 R329). -/
def dueChannel (h : Hart) : Option Nat := (List.range 8).find? fun i => ((h.chans[i]?).map (·.due)).getD false

/-- Enter the user-level handler for a channel (17 R329, 03 R44). -/
def Hart.enterUser (h : Hart) (ch : Nat) : Hart :=
  { h.withChan ch (fun c => { c with due := false }) with
    uiepc := h.pc &&& ~~~3
    uicause := dw (ch * 256 + 1)
    uien := if bit h.uien 0 then 2 else 0
    uih := true
    stall := none, waitSince := none, waitStamp := none, sendWait := none, waitRoute := none
    pc := h.uivec &&& ~~~3 }

/-- Whether the acting hart is where a pending completion is taken (17 R329); not while a window is redone, nor while
it waits in COMMIT (15 R288; notes/assumptions/106.md). -/
def takesUser (h : Hart) : Bool :=
  h.run == .running && !h.task.any (·.waiting) && h.mode == .user && bit h.uien 0 && h.frame.isNone && h.replayEnd.isNone

/-- USER_INTERRUPT (17 R329). -/
def execUserInterrupt (s : State) : Host.Outcome State Fault Refusal :=
  match dueChannel s.hart with
  | some ch =>
    ok (if !takesUser s.hart then s
      else if windowsWait s then pause s
      else if windowsFault s then raiseWindow s
      else onHart (withdrawSend (completeAll s s.hart.pend)) fun h => h.enterUser ch)
  | none => ok s

/-- IDLE_WAKE (17 R347): an idle hart may become ready at any time. -/
def execIdleWake (hart : Nat) (s : State) : Host.Outcome State Fault Refusal :=
  let h := getHart s hart
  ok (if h.run = .idle then setHart s hart { h with run := .running } else s)

/-- Whether an idle hart has a cause to wake (17 R347), or a pending trap from a stop to take (R333). -/
def wakes (s : State) (hart : Nat) : Bool :=
  let h := getHart s hart
  h.run == .idle &&
    (!h.events.isEmpty || !h.commandFaults.isEmpty || h.pendingTrap.isSome || (dueChannel h).isSome ||
      (pendingCode { s with hgid := hart, hart := h }).isSome)

/-- Whether a pending trap recorded at a stop, or an error in a task's record, is taken now: the latter when
the hart is back in its task, or waits in COMMIT (17 R332, 15 R310). -/
def pendingDue (h : Hart) : Bool :=
  h.pendingTrap.any fun p => p.1.cause != .logerr || inTask h || h.task.any (·.waiting)

/-- Take the pending trap (17 R332). A task's CHECK cancels it, as a fault of its load does (19 R377). -/
def takePending (s : State) : State :=
  match s.hart.pendingTrap with
  | none => s
  | some (t, la, path) =>
    let e : Entry :=
      { boundaryEntry s t false false (s.hart.taskFault t.cause || s.hart.task.isSome && (t.cause == .logerr || t.cause == .check)) with
        lacount := la, path := path }
    deliverAt s e fun s => onHart s fun h => { h with pendingTrap := none }

/-! ### Results and reserved words -/

/-- The oldest outstanding result of the acting hart arrives (01 R21, 03 R58). -/
def arriveResult (s : State) : State :=
  match s.hart.pend.find? (·.out) with
  | some p => onHart s fun h => h.setPend p.seq fun p => { p with out := false }
  | none => s

/-- Write the oldest class L result of the acting hart whose window has no instruction left, if it has
completed (03 R58). A fault is not a result: it is taken as a trap at the hart's next boundary. -/
def writeBack (s : State) : State :=
  match s.hart.pend.find? fun p => windowOver s.hart p with
  | some p => if p.fault.isSome || !pendReady s p then s else completeOne s p
  | none => s

/-- CLASS_L_WRITEBACK (03 R58): a class L instruction of a hart completes, and its result is written once its
window has no instruction left. -/
def execClassLWriteback (hart : Nat) (s : State) : Host.Outcome State Fault Refusal :=
  ok (asHart s hart fun s => writeBack (arriveResult (arrivePops s)))

/-- RESERVED_ENCODING (03 R55): a word that names no instruction raises ILLEGAL, with the word in STVAL. -/
def execReservedEncoding (w : IWord) (s : State) : Host.Outcome State Fault Refusal :=
  ok (illegal (onHart s fun h => { h with iword := w }))

/-- GROVE_FLAG_ARRIVAL (05 R90): the oldest flags on their way arrive. -/
def execGroveFlagArrival (grove : Nat) (s : State) : Host.Outcome State Fault Refusal :=
  let g := getGrove s grove
  match g.flight with
  | (f, _) :: l => ok (setGrove s grove { g with gfflags := g.gfflags ||| f, flight := l })
  | [] => ok s

/-! ### Which hart issues (01 R21 to R23) -/

/-- The harts of a core in the order in which issue may stand: the issuing hart first while it keeps issue and
has not issued 4,096 times in a row; otherwise ring order after it, itself last (01 R22, R23). -/
def issueOrder (co : Core) (core : Nat) : List Nat :=
  let first := if co.pass = .keep ∧ co.issueRun < 4096 then co.issuer.toNat else co.issuer.toNat + 1
  (List.range 4).map fun i => core * 4 + (first + i) % 4

/-- ISSUE_QUANTUM (01 R23): after 4,096 consecutive issues issue passes to another ready hart. -/
def execIssueQuantum (core : Nat) (s : State) : Host.Outcome State Fault Refusal :=
  let co := getCore s core
  if co.issueRun < 4096 then ok s else ok (setCore s core { co with pass := .stopped })

end Sys2Proof.Machine
end

