-- ==== Sys2Proof/Machine/Reliability.lean ====
section
/-!
DEFINITION. Token periods and energy (19 R366, R369), errors found by scrubbing and checking (R373 to R379)
and their logs (R380, R381), and spares (R365, R376).
-/

namespace Sys2Proof.Machine

/-! ### Budgets and energy -/

/-- BUDGET_PERIOD (R366): the next period begins, none being left out. -/
def execBudgetPeriod (s : State) : Host.Outcome State Fault Refusal :=
  ok (newPeriod { s with cycle := max s.cycle ((s.pk.period + 1) * 130000) })

/-- The contexts that used a grove since its last increment, with the cycles each is charged for: its issue
cycles, those of contexts that have left their harts included, and for a lease holder's the cycles of the array,
at most the 1,300 of a µs for each lease (R369). -/
def groveUse (s : State) (gk : Nat) : List (ContextRef × Nat) :=
  let g := getGrove s gk
  let user := fun (h : Nat) => (getHart s h).contextRef h
  let hs := (groveCores gk).flatMap fun c => (List.range 4).map fun i => c * 4 + i
  let issue := hs.map fun h => (user h, issuesSince (getHart s h))
  let lease := (g.holder.map fun h => (user h, min 1300 (s.cycle - g.periodStart))).toList
  (issue ++ g.lent ++ lease).filter fun e => e.1.launch.isSome

/-- The cycles of each launch among those of contexts. -/
def launchUse (use : List (ContextRef × Nat)) : List (Nat × Nat) :=
  ((use.filterMap fun e => e.1.launch).eraseDups).map fun l =>
    (l, ((use.filter fun e => e.1.launch == some l).map Prod.snd).sum)

/-- Charge energy to a launch; one that has reached its budget falls to class 7 (R369). -/
def chargeLaunch (s : State) (key uj : Nat) : State :=
  match getLaunch s key with
  | none => s
  | some l =>
    let total := l.charged + uj
    let spent := l.spent || (l.energy != 0 && decide (l.energy * 1000 ≤ total))
    let s := setLaunch s { l with charged := total, spent := spent }
    match getPart s l.part with
    | some p => countTenant s p.tenant 13 (total / 1000 - l.charged / 1000)
    | none => s

/-- Charge an amount to launches in proportion to their cycles. -/
def chargeAll (s : State) (uj total : Nat) : List (Nat × Nat) → State
  | [] => s
  | (l, n) :: rest => chargeAll (chargeLaunch s l (uj * n / total)) uj total rest

/-- Count energy for a context, while it is resident (R372 counter 13, 17 R334). What is counted for its context is
taken from what its tenant has been charged for, since the tenant's total includes its contexts. -/
def countEnergy (s : State) (o : ContextRef) (uj : Nat) : State :=
  let h := getHart s o.hart
  if !o.current h then s
  else
    let mj := (h.microjoule + uj) / 1000
    let s := setHart s o.hart { h with microjoule := (h.microjoule + uj) % 1000, perf := bump h.perf 13 mj }
    match tenantOf s (o.hart / 4) with
    | some t => countTenant s t 13 (2 ^ 64 - mj % 2 ^ 64)
    | none => s

/-- Count an amount of energy for contexts in proportion to their cycles. -/
def countAll (s : State) (uj total : Nat) (use : List (ContextRef × Nat)) : State :=
  use.foldl (fun s e => countEnergy s e.1 (uj * e.2 / total)) s

/-- Note the issue counts of a list of harts. -/
def markIssues (s : State) : List Nat → State
  | [] => s
  | h :: l =>
    let x := getHart s h
    markIssues (setHart s h { x with tickMark := x.issued }) l

/-- ENERGY_TICK (R369): the increment is charged to the launches, and counted for their contexts (R372). -/
def execEnergyTick (grove microjoule : Nat) (s : State) : Host.Outcome State Fault Refusal :=
  let use := groveUse s grove
  let total := (use.map Prod.snd).sum
  let g := getGrove s grove
  let s := setGrove s grove { g with energy := g.energy + microjoule, lent := [] }
  let s := if total = 0 then s else countAll (chargeAll s microjoule total (launchUse use)) microjoule total use
  ok (markIssues s ((knownHarts s).filter fun h => groveOf (h / 4) == grove))

/-! ### Error logs -/

/-- The detail of an UNCORR entry that has no consumer yet: one the scrubber found (R381; notes/assumptions/34.md). -/
def noConsumer : Dword := BitVec.allOnes 64

/-- Record an error of a sector: the totals, the level's log, and the guest's queue (R375, R380, R381): type
1 for a transient error, 2 for one that cannot be corrected. Every corrected error is counted for its tenant
(R372). -/
def recordError (s : State) (level kind key : Nat) : State :=
  let s := logEntry s level (sectorEntry s level kind key)
  match partOfKey s key with
  | none => countError s level (kind != 2) none
  | some p =>
    let s := countError s level (kind != 2) (some p.tenant)
    if kind = 2 then postError s p.handle 2 level 0 noConsumer
    else
      let s := countTenant s p.tenant 14 1
      if kind = 0 then postError s p.handle 1 level 0 0 else s

/-- The die whose SRAM holds a sector at a level: its core's, or for a cache slice that of the channel that the
sector's page lies in. -/
def rowDie (key : Nat) : Nat := if isSliceKey key then dieOf (sliceCore key) else homeDie (homeNum key)

/-- Note a lasting SRAM row of a core's slice or of a cache slice by the key of its sector, or a lasting HBM channel
(R375). -/
def wearRow (s : State) (level key : Nat) : State :=
  let k := rowDie key
  let d := getDie s k
  if isSliceKey key ∨ level = 2 then setDie s k { d with lasting := key :: d.lasting.filter fun x => x != key }
  else
    let h := homeNum key
    setDie s k { d with channels := h :: d.channels.filter fun x => x != h }

/-- Cycles of a level's scrub interval: 1,300,000 to a ms (R379, 21 R392). -/
def scrubCycles (s : State) (level : Nat) : Nat := ((s.pk.scrub[level]?).getD 0) * 1300000

/-- A corrected error of a sector: the third in one SRAM row, of a core's slice or a cache slice, within a scrub
interval makes the row lasting (R375). A row holds one sector (notes/assumptions/69.md). -/
def correctedError (s : State) (level key : Nat) : State :=
  if !isSliceKey key && level != 2 then recordError s level 0 key
  else
    let k := rowDie key
    let d := getDie s k
    let old := d.rowErrs.filter fun e => decide (s.cycle < e.2 + scrubCycles s level)
    let third := decide (2 ≤ (old.filter fun e => e.1 == key).length)
    let s := setDie s k { d with rowErrs := (key, s.cycle) :: old }
    if third then wearRow (recordError s level 1 key) level key else recordError s level 0 key

/-- SCRUB_SECTOR (R379): what the scrubber of a level found in a sector, which keeps its value. An error it
cannot correct stays for the consumer (11 R399). -/
def execScrubSector (level sector : Nat) (found : Found) (s : State) : Host.Outcome State Fault Refusal :=
  let key := sectorKey sector
  if 5 ≤ level ∨ isHostKey sector then ok s
  else
    match found with
    | .clean => ok s
    | .corrected => ok (correctedError s level key)
    | .lasting => ok (wearRow (recordError s level 1 key) level key)
    | .uncorrectable =>
      let s := recordError s level 2 key
      ok { s with pk := { s.pk with marked := key :: s.pk.marked.filter fun k => k != key } }

/-! ### Mismatches and errors that end a launch -/

/-- The unit in which a mismatch of the acting hart recurs becomes lasting (R375): its core, a vector lane, or the
matrix array of its grove. -/
def wearUnit (s : State) (unit : Nat) : State :=
  match unit with
  | 1 => { s with core := { s.core with laneLasting := true } }
  | 2 =>
    let k := groveOf s.cid
    setGrove s k { getGrove s k with lasting := true }
  | _ => { s with core := { s.core with lasting := true } }

/-- The acting hart's task runs elsewhere when it is released again (R377): not on this core. -/
def runElsewhere (s : State) : State :=
  match s.hart.task, s.hart.launch with
  | some t, some key => onReg s key t.reg fun r => { r with avoid := some s.cid }
  | _, _ => s

/-- A mismatch that recurs (R375, R377): its unit becomes lasting, and CHECK is due on the acting hart. A task is
cancelled as it is taken; without one the error cannot be pinned to a task. -/
def recurring (s : State) : State :=
  let (n, s) := draw s
  let unit := Config.wornUnit n % 3
  let s := wearUnit (logEntry s 0 (coreEntry s 0 1 (unit + 1) s.cid)) unit
  let value := tornValue s 0 Cause.check.code
  let s := onHart (runElsewhere s) fun h => { h with pendingTrap := some (⟨.check, h.pc⟩, 0, []) }
  match s.hart.launch with
  | some k => if s.hart.task.isSome then s else replayLaunch s k value
  | none => s

/-- An uncorrectable error of the acting hart's vector registers, queues or lookahead state (R373, R377): its task is
cancelled and released again; without one the error cannot be pinned to a task. Which cause code VALUE holds then
is not stated: a free value. -/
def lostState (s : State) : State :=
  let s := runElsewhere (consumed s s.cid (coreEntry s 0 2 1 s.cid) 0 (hartId s s.hgid))
  if s.hart.task.isSome then
    let s := cancelForFault s
    let key := s.hart.launch.getD 0
    redecideLaunch (releaseServed (freeActing (onHart s fun h => { h with cancelled := none })) s.hart.cancelled) key
  else
    match s.hart.launch with
    | some k =>
      let (n, s) := draw s
      replayLaunch s k (tornValue s 0 (Config.freeByte n 0).toNat)
    | none => s

/-- CHECKER_MISMATCH (R374, R375, R377): a mismatch that a replay clears is counted as corrected, for the context it
hit (R372 counter 14), and shows in time only; one that recurs, or an error of the hart's state that cannot be
corrected, is served by R377. -/
def execCheckerMismatch (hart : Nat) (found : Mismatch) (s : State) : Host.Outcome State Fault Refusal :=
  let h := getHart s hart
  if h.run ≠ .running then ok s
  else
    match found with
    | .recurs => ok (asHart s hart recurring)
    | .lost => ok (asHart s hart lostState)
    | .cleared =>
      let core := hart / 4
      let s := countError (logEntry s 0 (coreEntry s 0 0 1 core)) 0 true (tenantOf s core)
      match partOf s core with
      | some p => ok (postError (setHart s hart { h with perf := bump h.perf 14 1 }) p.handle 1 0 0 0)
      | none => ok s

/-- UNPINNABLE_ERROR (R377, R378): the launch, which the UNCORR entry names by its LID, ends with TORN or is replayed.
Which unit failed the event does not say, so what the log's entry tells of it is free, and so is the cause code in
VALUE, which is not stated (notes/assumptions/98.md). -/
def execUnpinnableError (launch level : Nat) (s : State) : Host.Outcome State Fault Refusal :=
  match getLaunch s launch with
  | none => ok s
  | some l =>
    if 5 ≤ level then ok s
    else
      let (n, s) := draw s
      let tenant := ((getPart s l.part).map (·.tenant)).getD 255
      let (unit, place, addr) := Config.failedUnit n
      let s := logEntry s level
        { level := level, kind := 2, unit := unit, place := place, addr := addr, tenant := tenant, cycle := s.cycle }
      let s := countError s level false ((getPart s l.part).map (·.tenant))
      let s := postError s l.part 2 level 0 (dw l.lid)
      ok (replayLaunch s launch (tornValue s level (Config.freeByte n 0).toNat))

/-! ### Spares -/

/-- Whether a core's partition has no launch resident (R365). -/
def quiet (s : State) (core : Nat) : Bool := (partOf s core).all (quietPart s)

/-- Clear the slices of a grove that goes out of service (R376). -/
def loseSlices (s : State) : List Nat → State
  | [] => s
  | c :: l => loseSlices { s with mem := memZero s.mem (sliceKey c 0) (sliceKey c 0 + 2 ^ 19) } l

/-- Cores begin to be substituted: their coordinates are not used until that is done. -/
def substitute (s : State) (cs : List Nat) : State :=
  { s with pk := { s.pk with substituting := s.pk.substituting ++ cs } }

/-- SPARE_SUBSTITUTION (R365, R375, R376, 01 R14): at a quiesce a spare core takes a worn core's place, or, where the
array is worn or no spare core is left, a spare grove its grove's; with none left the grove goes out of service.
Lasting HBM channels and rows of cache slices of the die are replaced with it (notes/assumptions/69.md). -/
def execSpareSubstitution (core : Nat) (s : State) : Host.Outcome State Fault Refusal :=
  if !quiet s core || !inService s core || s.pk.substituting.contains core then ok s
  else
    let k := dieOf core
    let s := setDie s k { getDie s k with channels := [], lasting := (getDie s k).lasting.filter isSliceKey }
    let d := getDie s k
    if !worn s core then ok s
    else if 0 < d.spares ∧ (getGrove s (groveOf core)).lasting = false then
      ok (substitute (setDie s k { d with spares := d.spares - 1 }) [core])
    else if 0 < d.spareGroves then
      ok (substitute (setDie s k { d with spareGroves := d.spareGroves - 1 }) (groveCores (groveOf core)))
    else
      let s := setDie s k { d with groves := d.groves &&& ~~~(BitVec.ofNat 32 (2 ^ groveInDie core)) }
      ok (loseSlices s (groveCores (groveOf core)))

/-- SUBSTITUTION_COMPLETION (R365): the core works again under its coordinate (01 R14), and with the last of its grove
the array. -/
def execSubstitutionCompletion (core : Nat) (s : State) : Host.Outcome State Fault Refusal :=
  if s.pk.substituting.contains core then
    let d := getDie s (dieOf core)
    let mine := fun (k : Nat) => isSliceKey k && sliceCore k == core
    let s := setDie s (dieOf core) { d with
      lasting := d.lasting.filter (!mine ·), rowErrs := d.rowErrs.filter fun e => !mine e.1 }
    let s := setCore s core { getCore s core with lasting := false, laneLasting := false }
    let s := { s with pk := { s.pk with substituting := s.pk.substituting.filter fun c => c != core } }
    let g := groveOf core
    ok (if s.pk.substituting.any fun c => groveOf c == g then s
      else setGrove s g { getGrove s g with lasting := false })
  else ok s

end Sys2Proof.Machine
end

