-- ==== Sys2Proof/Machine/Package.lean ====
section
/-!
DEFINITION. The package as a whole (21 R386 to R398): reset, boot and recovery, admission to a domain, the
host port and the links, routes to other packages, power and heat.
-/

namespace Sys2Proof.Machine

/-! ### Reset -/

/-- A die after a reset: what is fused or worn stays (01 R14, R15, R19). -/
def Die.restart (d : Die) : Die :=
  { Die.fresh with
    stacked := d.stacked, hbm := d.hbm, groves := d.groves, lasting := d.lasting, channels := d.channels
    spares := d.spares, spareGroves := d.spareGroves }

/-- A core after a reset: what is worn stays (19 R375). -/
def Core.restart (c : Core) : Core := { Core.fresh with lasting := c.lasting, laneLasting := c.laneLasting }

/-- A grove after a reset: an array that is worn stays so (19 R375). -/
def Grove.restart (g : Grove) : Grove := { Grove.fresh with lasting := g.lasting }

/-- The package's own state after a reset: flash, fuses, pins and the straps as sampled stay (21 R393, R394, R397). -/
def Package.restart (p : Package) : Package :=
  { Package.reset with
    flashImage := p.flashImage, flashConfig := p.flashConfig, fusedSvn := p.fusedSvn
    journalOpen := p.journalOpen, flashWp := p.flashWp, pwrgd := p.pwrgd, straps := p.straps, pins := p.pins }

/-- A package reset (21 R393): every unit is as after reset; HBM and host memory keep their bytes, CYCLE is 0
(03 R45). -/
def resetPackage (s : State) : State :=
  let rest := assocSet (mapUnits Core.restart s.cores) s.cid s.core.restart
  { State.reset with
    core := (assocGet rest State.reset.cid).getD Core.fresh
    cores := rest.filter fun c => c.1 != State.reset.cid && c.2 != Core.fresh
    groves := (mapUnits Grove.restart s.groves).filter fun g => g.2 != Grove.fresh
    dies := mapUnits Die.restart s.dies
    pk := s.pk.restart
    mem := s.mem.filter fun c => !isSliceKey c.1
    tick := s.tick, work := s.work, agenda := s.agenda, turns := s.turns }

/-- A reset with PERST# low: the straps are sampled again at its release (21 R393). -/
def perstLow (s : State) : State :=
  let t := resetPackage s
  { t with pk := { t.pk with straps := none } }

/-- PACKAGE_RESET (21 R393). -/
def execPackageReset (s : State) : Host.Outcome State Fault Refusal := ok (perstLow s)

/-- A sideband input takes a level (21 R393): FLASH_WP# low makes flash read-only, PWRGD low holds the package in
reset. -/
def setPin (s : State) (c : PinChange) : State :=
  match c.pin with
  | .flashWp => { s with pk := { s.pk with flashWp := !c.high } }
  | .pwrgd => if c.high then { s with pk := { s.pk with pwrgd := true } }
    else perstLow { s with pk := { s.pk with pwrgd := false } }

/-- The next change of a sideband input comes, when its cycle has (21 R393; notes/assumptions/97.md). -/
def takePin (s : State) : State :=
  match s.pk.pins with
  | [] => s
  | c :: l => if c.due ≤ s.cycle then setPin { s with pk := { s.pk with pins := l } } c else s

/-! ### Boot and recovery -/

/-- Start again, of a list of launches, those that survived a thermal trip (21 R392, 19 R383). -/
def replayAll (s : State) : List Nat → State
  | [] => s
  | k :: l =>
    replayAll (if (getLaunch s k).any fun x => x.state == .surviving then replayLaunch s k 0 else s) l

/-- Start again every launch that survived. -/
def replaySurvivors (s : State) : State := replayAll s (s.pk.launches.map (·.key))

/-- BOOT (21 R394, R398): the ROM verifies the image in flash, or enters recovery. The straps, `src`, are sampled at
the release of PERST# and held over every other reset; 2 and 3 are treated as 0. While PWRGD is low reset is held
(R393). Launches that survived start again at once where there is no domain to be admitted to (R390). -/
def execBoot (src : BitVec 2) (s : State) : Host.Outcome State Fault Refusal :=
  let src := s.pk.straps.getD src
  if s.pk.boot ≠ .inReset ∨ s.pk.pwrgd = false then ok s
  else
  let s := { s with pk := { s.pk with straps := some src } }
  if s.pk.journalOpen || src == 1 || !imageOk s s.pk.flashImage then
    ok { s with pk := { s.pk with boot := .recovery } }
  else
    let img := s.pk.flashImage
    let s := { s with pk := { s.pk with
      boot := .up, image := img, version := dw (ofBytes ((img.drop 8).take 8)), config := s.pk.flashConfig
      resynced := false } }
    ok (if (Config.parseDomain s.pk.config).isNone then replaySurvivors s else s)

/-- RECCTL_GO (21 R398): a write of RECCTL, which needs a host (R387). -/
def execRecctlGo (v : Dword) (s : State) : Host.Outcome State Fault Refusal :=
  if s.pk.boot ≠ .recovery ∨ s.pk.modules = 0 then ok s
  else
    ok { s with pk := { s.pk with
      recErr := s.pk.recErr && !bit v 2
      recBusy := s.pk.recBusy || bit v 0 } }

/-- RECOVERY_IMAGE_FETCHED (21 R398): the image is verified, and its write under the journal begins; a fetch that
fails (`good` false), with no host among them (R387), or an image that does not verify or cannot be written sets
ERR. -/
def execRecoveryImageFetched (good : Bool) (s : State) : Host.Outcome State Fault Refusal :=
  if s.pk.boot ≠ .recovery ∨ ¬ s.pk.recBusy ∨ s.pk.recImage.isSome then ok s
  else
    let n := s.pk.reclen.toNat
    let img := memBytes s.mem (hostKey 0 s.pk.recaddr.toNat) n
    if good && s.pk.modules != 0 && aligned s.pk.recaddr.toNat 4096 && decide (1 ≤ n) && decide (n ≤ 33554432) &&
        imageOk s img && !s.pk.flashWp then
      ok { s with pk := { s.pk with recImage := some img, journalOpen := true } }
    else ok { s with pk := { s.pk with recErr := true, recBusy := false } }

/-- FW_COMMIT_COMPLETION (21 R397, R398): the flash write and its read-back finish, and with them the journal's
mark. A recovery write then resets the package. Where FLASH_WP# has gone low flash is read-only (R393): nothing is
written, the journal's mark stays, and the command completes with BUSY, or the recovery with ERR (DESIGN CHOICE:
notes/assumptions/113.md). -/
def execFwCommitCompletion (s : State) : Host.Outcome State Fault Refusal :=
  match s.pk.recImage, s.pk.commit with
  | some img, _ =>
    ok (if s.pk.flashWp then { s with pk := { s.pk with recImage := none, recErr := true, recBusy := false } }
      else resetPackage { s with pk := { s.pk with flashImage := img, journalOpen := false } })
  | none, none => ok s
  | none, some c =>
    if s.pk.flashWp then ok (complete { s with pk := { s.pk with commit := none } } c stBusy 0)
    else
    let kind := cmdAt c 40 8
    let bs := stagedObject s kind
    let s := { s with pk := { s.pk with
      commit := none, journalOpen := false
      flashImage := if kind = 0 then bs else s.pk.flashImage
      flashConfig := if kind = 1 then bs else s.pk.flashConfig } }
    ok (complete s c stOk 0)

/-! ### Domain and links -/

/-- Whether every internal port of a configuration has reached the peer it names: the port of that package, in the
same domain (21 R389, R390). -/
def peersReached (d : Config.Domain) (peers : List Peer) : Bool :=
  ((List.range 18).zip d.ports).all fun (i, role, pkg, at_) =>
    role != internalRole ||
      peers.any fun p => p.port == i && p.pkg == pkg && p.peerPort == at_ && p.domain == d.ident

/-- A port of an admitted package. -/
def Port.admitted (c : Nat × Nat × Nat) : Port :=
  { role := c.1, peerPkg := c.2.1, peerPort := c.2.2, up := c.1 != 0, resent := 0 }

/-- A port of a package that runs alone: its internal ports are held off (21 R390). -/
def Port.alone (c : Nat × Nat × Nat) : Port :=
  let p := Port.admitted c
  { p with up := p.up && p.role != internalRole }

/-- Whether a package is still to be admitted or not (01 R13, 21 R390): no partition is granted and no launch
resident, but for those that outlived a thermal trip. -/
def unsettled (p : Package) : Bool :=
  p.launches.all (·.state == .surviving) && p.parts.all fun x => p.launches.any fun l => l.part == x.handle

/-- DOMAIN_ADMISSION (21 R389, R390): once after each package reset, before any partition is granted; a package that is
not admitted runs alone as package 0 with its internal ports off, and its external ports as configured. What outlived a
thermal trip starts again after it. -/
def execDomainAdmission (peers : List Peer) (s : State) : Host.Outcome State Fault Refusal :=
  if s.pk.boot ≠ .up ∨ s.pk.judged ∨ unsettled s.pk = false then ok s
  else
    match Config.parseDomain s.pk.config with
    | none => ok s
    | some d =>
      if peersReached d peers && decide (d.ports.length = 18) && decide (d.pkg ≤ d.domsz) && decide (d.domsz < 256) then
        ok (replaySurvivors { s with pk := { s.pk with
          pkg := d.pkg, domsz := d.domsz, domain := d.ident, ports := d.ports.map Port.admitted
          routes := d.routes, unreachable := [], lostAt := [], judged := true } })
      else
        ok (replaySurvivors { s with pk := { s.pk with
          pkg := 0, domsz := 0, domain := 0, routes := [], unreachable := [], lostAt := [], judged := true
          ports := if d.ports.length = 18 then d.ports.map Port.alone else s.pk.ports } })

/-- HOST_MODULE_TRAINING (21 R387): how many of the four modules trained. -/
def execHostModuleTraining (trained : Nat) (s : State) : Host.Outcome State Fault Refusal :=
  ok { s with pk := { s.pk with modules := min trained 4 } }

/-- Whether a port carries traffic of the domain. -/
def portUp (ps : List Port) (i : Nat) : Bool := (ps[i]?).any fun p => p.up && p.role == internalRole

/-- The packages of the domain to which no route is left (21 R391). -/
def lostPackages (p : Package) : List Nat :=
  ((List.range (p.domsz + 1)).filter fun k => k != p.pkg).filter fun k =>
    !((assocGet p.routes k).getD []).any (portUp p.ports)

/-- A port comes up or goes down, and with it packages become reachable or not. -/
def setPort (s : State) (i : Nat) (on : Bool) : State :=
  let p := { s.pk with ports := modifyAt (fun (x : Port) => { x with up := on }) s.pk.ports i }
  let lost := lostPackages p
  { s with pk := { p with
      unreachable := lost, lostAt := lost.map fun k => (k, (assocGet p.lostAt k).getD s.cycle) } }

/-- When what waits for an unreachable package is discarded: 10 ms, 13,000,000 cycles, after the last route to it went
(21 R391, R392). -/
def routeDeadline (s : State) (pkg : Nat) : Nat := (assocGet s.pk.lostAt pkg).getD s.cycle + 13000000

/-- LINK_FAILURE (21 R391): the traffic of an internal port moves to the other ports of each route. -/
def execLinkFailure (port : Nat) (s : State) : Host.Outcome State Fault Refusal :=
  ok (if portUp s.pk.ports port then setPort s port false else s)

/-- FLIT_RESEND (21 R388): the flit is delivered once, in order, so nothing but the port's count shows. -/
def execFlitResend (port : Nat) (s : State) : Host.Outcome State Fault Refusal :=
  ok { s with pk := { s.pk with
    ports := modifyAt (fun (p : Port) => { p with resent := p.resent + 1 }) s.pk.ports port } }

/-- ROUTE_RETURN (21 R391): a port of a route to an unreachable package comes up, and what waits for the
package may go on. -/
def execRouteReturn (pkg port : Nat) (s : State) : Host.Outcome State Fault Refusal :=
  let onRoute := ((assocGet s.pk.routes pkg).getD []).contains port
  let internal := (s.pk.ports[port]?).any fun p => p.role == internalRole
  ok (if s.pk.unreachable.contains pkg && onRoute && internal then setPort s port true else s)

/-- Whether an event, were it taken, would be bound for a package. -/
def boundFor (pkg : Nat) (s : State) (o : State → Host.Outcome State Fault Refusal) : Bool :=
  let s := { s with away := none }
  (after (o s) s).away == some (.route pkg)

/-- The launches with an access, record, engine command, copy unit, commit or scheduler's read waiting for a package
(21 R391). -/
def waitingLaunches (s : State) (pkg : Nat) : List Nat :=
  let harts := ((knownHarts s).filter fun h => (getHart s h).waitRoute == some pkg).filterMap fun h => (getHart s h).launch
  let records := (knownCores s).flatMap fun c => (List.range (getCore s c).log.length).filterMap fun i =>
    if boundFor pkg s (execRecordApply c i) then ((getCore s c).log[i]?).bind (launchOfRecord s c) else none
  let arrays := s.groves.filterMap fun (k, g) =>
    if boundFor pkg s (execMmaCompletion k) || boundFor pkg s (execMscaleWord k) then g.queue.head?.map (·.launch) else none
  let copies := s.pk.copies.filterMap fun c =>
    if boundFor pkg s (execCopySegment c.key) || boundFor pkg s (execCopyUnitApply c.key) ||
        boundFor pkg s (execCopyrdUnitApply c.key) then c.launch else none
  let commits := (knownHarts s).filterMap fun h =>
    if boundFor pkg s (execCommitRequest h) then (getHart s h).launch else none
  let tasks := (s.pk.launches.filter fun l => l.isTask &&
    (boundFor pkg s (execTaskRelease l.key) ||
      (none :: (List.range l.tiles.length).map some).any fun t => boundFor pkg s (execCommitRedecision l.key t))).map
    (·.key)
  (harts ++ records ++ arrays ++ copies ++ commits ++ tasks).eraseDups

/-- End a list of launches with TORN (19 R359). -/
def tearAll (s : State) (value : Dword) : List Nat → State
  | [] => s
  | k :: l => tearAll (finishLaunch s k 11 value) value l

/-- ROUTE_TIMEOUT (21 R391): the 10 ms have passed, and each launch with something waiting ends with TORN, and what
waits is discarded with it. The cause code in VALUE is not stated: a free value; bits 27:8 read zero (19 R359). -/
def execRouteTimeout (pkg : Nat) (s : State) : Host.Outcome State Fault Refusal :=
  if !s.pk.unreachable.contains pkg then ok s
  else
    let (n, s) := draw { s with cycle := max s.cycle (routeDeadline s pkg) }
    let ks := waitingLaunches s pkg
    let s := tearAll s (dw (Config.freeByte n 0).toNat) ks
    let gone := fun (c : CopyCmd) => boundFor pkg s (execCopyUnitApply c.key) || boundFor pkg s (execCopyrdUnitApply c.key)
    ok (discardCopies s gone)

/-! ### Power and heat (21 R392) -/

/-- What a thermal trip does to a list of launches: those that cannot be replayed end with TORN. -/
def tripLaunches (s : State) : List Nat → State
  | [] => s
  | k :: l =>
    let (n, s) := draw s
    let keep := (getLaunch s k).any fun x => x.replay && !x.kept.isEmpty && decide (x.replays < 3)
    tripLaunches (if keep && Config.shadowsSurvive n then s
      else finishLaunch s k 11 (dw (Config.freeByte n 0).toNat)) l

/-- THERMAL_TRIP (21 R392): every die stops. -/
def execThermalTrip (s : State) : Host.Outcome State Fault Refusal :=
  if s.pk.tripped then ok s
  else
    let s := tripLaunches s (s.pk.launches.map (·.key))
    ok { s with pk := { s.pk with tripped := true } }

/-- A function after the reset: registers and shadow are gone, keys and what the PF set stay. -/
def Function.restart (f : Function) : Function :=
  { Function.fresh f.num with ed25519 := f.ed25519, mldsa := f.mldsa, vec := f.vec, weight := f.weight }

/-- THERMAL_RECOVERY (21 R392): the package resets, its number to 0 (01 R13); the tenancy of launches that
survive the trip stays, so that they can be replayed (notes/assumptions/36.md). -/
def execThermalRecovery (s : State) : Host.Outcome State Fault Refusal :=
  if !s.pk.tripped then ok s
  else
    let parts := s.pk.parts.filter fun p => s.pk.launches.any fun l => l.part == p.handle
    let t := resetPackage s
    ok { t with pk := { t.pk with
      parts := parts, launches := s.pk.launches.map fun l => { l with state := .surviving }, nextLaunch := s.pk.nextLaunch
      functions := (s.pk.functions.filter fun f => f.num == 0 || parts.any fun p => fnOfTenant p.tenant == f.num).map
        Function.restart
      tenants := s.pk.tenants.filter fun x => parts.any fun p => p.tenant == x.num } }

/-- ISSUE_GATING (21 R392): visible only in time and in rates. -/
def execIssueGating (die : Nat) (on : Bool) (s : State) : Host.Outcome State Fault Refusal :=
  ok (setDie s die { getDie s die with gated := on })

end Sys2Proof.Machine
end

