-- ==== Sys2Proof/Machine/HostEvents.lean ====
section
/-!
DEFINITION. The host's accesses to a function's registers (19 R352 to R356, 21 R398), TDISP (R361),
attestation (R362) and the function-level reset (R371).
-/

namespace Sys2Proof.Machine

/-- Whether the host reaches a function: the port has a module (21 R387), the firmware runs, or in recovery
the PF alone (21 R398). -/
def hostReaches (s : State) (fn : Nat) : Bool :=
  s.pk.modules != 0 &&
    match s.pk.boot with
    | .inReset => false
    | .recovery => fn == 0
    | .up => fnExists s fn

/-! ### The queue control block (R353, R354) -/

/-- Submission queues of a function (R352). -/
def queueCount (fn : Nat) : Nat := if fn = 0 then 8 else 4

/-- Where a queue's two doublewords stand in the QCB (R353). -/
def queueOffset (q : Nat) : Nat := if q < 4 then 16 * q else 128 + 16 * (q - 4)

/-- Whether a number of entries is a power of two from 16 to 4,096 (R353). -/
def entriesOk (n : Nat) : Bool := [16, 32, 64, 128, 256, 512, 1024, 2048, 4096].contains n

/-- A doubleword of a function's QCB. -/
def qcbWord (s : State) (f : Function) (off : Nat) : Dword := readHost s f.num (f.qcbaddr.toNat + off)

/-- Whether the doublewords of a queue are well formed, those of an unused one too (R353). -/
def queueOk (s : State) (f : Function) (q : Nat) : Bool :=
  let b := qcbWord s f (queueOffset q)
  let e := qcbWord s f (queueOffset q + 8)
  aligned b.toNat 64 && bits e 16 48 == 0 && entriesOk (bits e 0 16)

/-- Whether a QCB is well formed (R353). -/
def qcbOk (s : State) (f : Function) : Bool :=
  let w := qcbWord s f
  (List.range (queueCount f.num)).all (queueOk s f) &&
    aligned (w 64).toNat 16 && aligned (w 80).toNat 32 && entriesOk (bits (w 72) 0 16) &&
    entriesOk (bits (w 72) 16 16) && bits (w 72) 32 32 == 0 && bits (w 88) 32 32 == 0 &&
    !bit (w 96) 19 && bits (w 96) 24 40 == 0 && w 104 == 0 && w 112 == 0 && w 120 == 0

/-- The shadow of one queue. -/
def queueShadow (s : State) (f : Function) (q : Nat) : Queue :=
  let b := qcbWord s f (queueOffset q)
  { base := b, entries := if b = 0 then 0 else bits (qcbWord s f (queueOffset q + 8)) 0 16, head := 0, tail := 0 }

/-- The shadow of a QCB, with the privileged fields as Understory holds them (R353, R354). Queue heads, the completion
and the error queue's tail start at 0 and the phase at 1, whatever CQTAIL and EQTAIL hold (DESIGN CHOICE:
notes/assumptions/110.md). -/
def Function.shadow (f : Function) (s : State) : Function :=
  let w := qcbWord s f
  { f with
    queues := (List.range (queueCount f.num)).map (queueShadow s f)
    cqbase := w 64, cqent := bits (w 72) 0 16, eqbase := w 80, eqent := bits (w 72) 16 16
    cqtail := 0, eqtail := 0, phase := true, lastErr := none }

/-- An error entry of a function that concerns no partition (R381). -/
def fnError (s : State) (fn type : Nat) (addr detail : Dword) : State :=
  putError s fn
    { type := type, code := 0, count := 1, part := 0, addr := addr, detail := detail, cycle := dw s.cycle }

/-- The QCBPRIV entries of a QCB: one for each privileged field that differs (R354, R381). -/
def privEntries (f : Function) (w : Dword) : Nat :=
  [bits w 0 8 != f.num, bits w 8 11 != f.vec, bits w 20 4 != f.weight].count true

/-- Write a number of QCBPRIV entries. -/
def putPriv (s : State) (f : Function) : Nat → State
  | 0 => s
  | n + 1 => putPriv (fnError s f.num 4 (f.qcbaddr + 96) 96) f n

/-- Write the completion entries that waited for the queues (R353). -/
def flushWaiting (fn : Nat) : List (BitVec 128) → State → State
  | [], s => s
  | e :: l, s => flushWaiting fn l (putCompletion s fn e)

/-! ### Notifies -/

/-- The commands of a queue from an index on. -/
def fetchCmds (s : State) (fn q : Nat) (k : Queue) : Nat → Nat → List Cmd
  | 0, _ => []
  | n + 1, i =>
    { fn := fn, sq := q, entry := BitVec.ofNat 512 (memRead s.mem (hostKey fn (k.base.toNat + 64 * i)) 64) } ::
      fetchCmds s fn q k n (ringNext i k.entries)

/-- A notify of a function whose queues are live (R356): the entries up to TAIL are read in index order and wait at
the root core in their order of arrival. -/
def notified (s : State) (fn q : Nat) (v : Dword) : State :=
  let f := getFn s fn
  let tail := bits v 0 16
  match f.queues[q]? with
  | none => s
  | some k =>
    if k.entries ≤ tail then fnError s fn 6 0 (dw (0x1000 + 8 * q))
    else
      let n := (tail + k.entries - k.head) % k.entries
      let cs := fetchCmds s fn q k n k.head
      let s := setFn s { f with
        queues := modifyAt (fun (x : Queue) => { x with head := tail, tail := tail }) f.queues q }
      { s with pk := { s.pk with cmds := s.pk.cmds ++ cs } }

/-- NOTIFY (R356): one that comes while the queues are not live has its effect when EN is next set (R371). -/
def execNotify (fn q : Nat) (v : Dword) (s : State) : Host.Outcome State Fault Refusal :=
  let f := getFn s fn
  if s.pk.boot ≠ .up ∨ ¬ hostReaches s fn then ok s
  else if f.rdy then ok (notified s fn q v)
  else ok (setFn s { f with notes := f.notes ++ [(q, v)] })

/-- Of the notifies of a list, the last of each queue: a fresh tail overrides those before it (R371). -/
def lastNotes : List (Nat × Dword) → List (Nat × Dword)
  | [] => []
  | n :: l => if l.any (fun m => m.1 == n.1) then lastNotes l else n :: lastNotes l

/-- The TAIL of a notify that came before the queues were live stands as the queue's tail once they are, and the next
notify overrides it. Nothing is fetched for it, so that the queue is empty (R371; DEDUCED: notes/assumptions/77.md). One
outside the queue is reported (R356). -/
def keepTail (fn : Nat) (s : State) (n : Nat × Dword) : State :=
  let f := getFn s fn
  let tail := bits n.2 0 16
  match f.queues[n.1]? with
  | none => s
  | some k =>
    if k.entries ≤ tail then fnError s fn 6 0 (dw (0x1000 + 8 * n.1))
    else setFn s { f with queues := modifyAt (fun (x : Queue) => { x with tail := tail }) f.queues n.1 }

/-- The queues go live (R353): completion entries that waited are written, and of the notifies that came before, the
last of each queue leaves its tail (R371). -/
def goLive (s : State) (fn : Nat) : State :=
  let f := getFn s fn
  let s := setFn s { f with en := true, rdy := true, fatal := false, waiting := [], notes := [] }
  (lastNotes f.notes).foldl (keepTail fn) (flushWaiting fn f.waiting s)

/-! ### FSTAT -/

/-- EN changes from 0 to 1 (R353, R361). A locked function whose queues were never enabled has no shadow, so it reads
its QCB (DESIGN CHOICE: notes/assumptions/112.md). -/
def enableQueues (s : State) (fn : Nat) : State :=
  let f := getFn s fn
  if f.locked && !f.queues.isEmpty then goLive s fn
  else if qcbOk s f then
    let sh := f.shadow s
    putPriv (goLive (setFn s sh) fn) sh (privEntries f (qcbWord s f 96))
  else setFn s { f with en := true, rdy := false, fatal := true }

/-- FSTAT_WRITE (R352, R353). -/
def execFstatWrite (fn : Nat) (v : Dword) (s : State) : Host.Outcome State Fault Refusal :=
  let f := getFn s fn
  ok (if s.pk.boot ≠ .up ∨ ¬ hostReaches s fn ∨ bit v 0 = f.en then s
    else if bit v 0 then enableQueues s fn
    else setFn s { f with en := false, rdy := false })

/-! ### Registers -/

/-- The doubleword of a function's MSI-X table at an offset in BAR0, and whether an offset lies in its PBA
(21 R386; notes/assumptions/64.md). -/
def msixIndex (off : Nat) : Option Nat :=
  if 0x8000 ≤ off ∧ off < 0x10000 then some ((off - 0x8000) / 8) else none
/-- Whether an offset lies in the PBA. -/
def inPba (off : Nat) : Bool := decide (0x10000 ≤ off) && decide (off < 0x10100)

/-- A doubleword of a function's MSI-X table; an entry nobody has written is masked (notes/assumptions/64.md). -/
def Function.vector (f : Function) (i : Nat) : Dword :=
  (assocGet f.vectors i).getD (if i % 2 = 1 then 0x100000000 else 0)

/-- What the host reads at an offset of a function's BAR0 (00 R4, R352, 21 R398), none where it reaches none.
Fields without a read value, NOTIFY and GO among them, read zero. -/
def hostRegister (s : State) (fn off : Nat) : Option Dword :=
  if !hostReaches s fn then none
  else if s.pk.boot = .recovery then
    some (if off = 0x100 then s.pk.recaddr
      else if off = 0x108 then dw (bits s.pk.reclen 0 26)
      else if off = 0x110 then dw (s.pk.recErr.toNat * 4 + s.pk.recBusy.toNat * 2)
      else 0)
  else
    let f := getFn s fn
    some (if off = 0 then fstat f
      else if off = 8 then f.qcbaddr
      else match msixIndex off with
        | some i => f.vector i
        | none => 0)

/-- HOST_REGISTER_WRITE (R352, R361, 21 R398): QCBADDR and the MSI-X table, and in recovery RECADDR and RECLEN; other
offsets hold nothing that a write changes. -/
def execHostRegisterWrite (fn off : Nat) (v : Dword) (s : State) : Host.Outcome State Fault Refusal :=
  if !hostReaches s fn then ok s
  else if s.pk.boot = .recovery then
    ok (if off = 0x100 then { s with pk := { s.pk with recaddr := v } }
      else if off = 0x108 then { s with pk := { s.pk with reclen := dw (bits v 0 26) } }
      else s)
  else
    let f := getFn s fn
    let i := msixIndex off
    if f.locked && (off == 8 || i.isSome || inPba off) then ok (fnError s fn 5 0 (dw off))
    else if off = 8 then ok (setFn s { f with qcbaddr := v &&& ~~~0x7F })
    else match i with
      | some i => ok (setFn s { f with vectors := assocSet f.vectors i v })
      | none => ok s

/-! ### TDISP (R361) -/

/-- The transitions of the PCIe TDISP interface states (notes/assumptions/39.md). -/
def tdispMay (a b : Tdisp) : Bool :=
  match a, b with
  | .unlocked, .locked => true
  | .locked, .run => true
  | .locked, .error => true
  | .run, .error => true
  | .locked, .unlocked => true
  | .run, .unlocked => true
  | .error, .unlocked => true
  | _, _ => false

/-- TDISP_TRANSITION (R361). -/
def execTdispTransition (vf : Nat) (new : Tdisp) (s : State) : Host.Outcome State Fault Refusal :=
  let f := getFn s vf
  ok (if vf ≠ 0 ∧ s.pk.boot = .up ∧ hostReaches s vf = true ∧ tdispMay f.tdisp new = true then
      setFn s { f with tdisp := new }
    else s)

/-! ### Attestation (R362) -/

/-- The compound device identifier of the running image on this package (21 R395). -/
def compoundId (s : State) : List Byte := Config.compoundDevice Config.deviceSecret (Config.sha384 s.pk.image)

/-- The identity's Ed25519 key pair (21 R395). -/
def edKeys (s : State) : Config.KeyPair := Config.deriveEd25519 (compoundId s)

/-- The identity's ML-DSA-65 key pair (21 R395). -/
def mlKeys (s : State) : Config.KeyPair := Config.deriveMldsa (compoundId s)

/-- The certificate chain, which ends in the identity's public keys (21 R395). -/
def certChain (s : State) : List Byte :=
  Config.chainHead (Config.sha384 s.pk.image) ++ (edKeys s).pub ++ (mlKeys s).pub

/-- The measurement blocks by index that are read from the package (R362): 1 the ROM digest, 2 the image's digest and
version, 3 the digest of every VF's keys in VF order, 4 the handle, tenant and digest of the stage-2 root page of each
partition. -/
def measurements (s : State) : List (Nat × List Byte) :=
  let digest := fun (l : List Byte) => bytesOf 48 (Config.sha384 l).toNat
  let fns := (s.pk.functions.filter fun f => f.num != 0).mergeSort fun a b => decide (a.num ≤ b.num)
  let part := fun (p : Partition) => bytesOf 8 p.handle ++ bytesOf 8 p.tenant ++
    digest ((p.s2root.map fun t => memBytes s.mem (hbmKey s t) 8192).getD [])
  [(1, digest Config.romBytes), (2, digest s.pk.image ++ bytesOf 8 s.pk.version.toNat),
   (3, digest (fns.flatMap fun f => f.ed25519 ++ f.mldsa)), (4, s.pk.parts.flatMap part)]

/-- A measurement block in a response: index, length, contents (notes/assumptions/21.md). -/
def blockBytes (b : Nat × List Byte) : List Byte := bytesOf 1 b.1 ++ bytesOf 2 b.2.length ++ b.2

/-- What a response holds after its head (R362; notes/assumptions/21.md): the chain or its digest; the measurement
blocks with block 0xF0, the ML-DSA-65 signature over the transcript that the Ed25519 signature after them covers; for
CHALLENGE and KEY_EXCHANGE that signature alone. -/
def spdmPayload (s : State) (code : Nat) (transcript : List Byte) : List Byte :=
  match code with
  | 0x81 => bytesOf 48 (Config.sha384 (certChain s)).toNat
  | 0x82 => certChain s
  | 0xE0 =>
    let blocks := (measurements s).flatMap blockBytes
    let covered := transcript ++ blocks
    blocks ++ blockBytes (0xF0, Config.mldsaSign (mlKeys s).priv covered) ++
      Config.ed25519Sign (edKeys s).priv covered
  | 0x83 => Config.ed25519Sign (edKeys s).priv transcript
  | 0xE4 => Config.ed25519Sign (edKeys s).priv transcript
  | _ => []

/-- Serve an SPDM request over the PF's mailbox (R362): it is answered when the requests that SPDM 1.3 wants
before it have been made, and otherwise gets an error response, code 0x7F; both stand in the transcript that
later signatures cover (notes/assumptions/21.md). `need` is the progress it wants, `next` what it makes. -/
def spdmRequest (s : State) (code : Nat) (msg : List Byte) (need next : Nat) : State :=
  if s.pk.boot ≠ .up ∨ ¬ hostReaches s 0 then s
  else
    let fine := decide (need ≤ s.pk.spdm)
    let answer := if fine then code else 0x7F
    let heard := (if code = 0x84 then [] else s.pk.spdmTranscript) ++ msg
    let head := Config.spdmResponse answer msg heard
    let body := head ++ spdmPayload s answer (heard ++ head)
    { s with pk := { s.pk with
      spdm := if fine then next else s.pk.spdm
      spdmTranscript := heard ++ body
      doe := body } }

/-- GET_VERSION (R362): begins a new exchange. -/
def execGetVersion (msg : List Byte) (s : State) : Host.Outcome State Fault Refusal :=
  ok (spdmRequest s 0x84 msg 0 1)
/-- GET_CAPABILITIES (R362). -/
def execGetCapabilities (msg : List Byte) (s : State) : Host.Outcome State Fault Refusal :=
  ok (spdmRequest s 0xE1 msg 1 2)
/-- NEGOTIATE_ALGORITHMS (R362). -/
def execNegotiateAlgorithms (msg : List Byte) (s : State) : Host.Outcome State Fault Refusal :=
  ok (spdmRequest s 0xE3 msg 2 3)
/-- GET_DIGESTS (R362). -/
def execGetDigests (msg : List Byte) (s : State) : Host.Outcome State Fault Refusal :=
  ok (spdmRequest s 0x81 msg 3 (max 3 s.pk.spdm))
/-- GET_CERTIFICATE (R362). -/
def execGetCertificate (msg : List Byte) (s : State) : Host.Outcome State Fault Refusal :=
  ok (spdmRequest s 0x82 msg 3 (max 3 s.pk.spdm))
/-- CHALLENGE (R362). -/
def execChallenge (msg : List Byte) (s : State) : Host.Outcome State Fault Refusal :=
  ok (spdmRequest s 0x83 msg 3 (max 3 s.pk.spdm))
/-- GET_MEASUREMENTS (R362). -/
def execGetMeasurements (msg : List Byte) (s : State) : Host.Outcome State Fault Refusal :=
  ok (spdmRequest s 0xE0 msg 3 (max 3 s.pk.spdm))
/-- KEY_EXCHANGE (R362): a session is being set up. -/
def execKeyExchange (msg : List Byte) (s : State) : Host.Outcome State Fault Refusal :=
  ok (spdmRequest s 0xE4 msg 3 4)
/-- FINISH (R362): the session stands. -/
def execFinish (msg : List Byte) (s : State) : Host.Outcome State Fault Refusal :=
  ok (spdmRequest s 0xE5 msg 4 5)
/-- END_SESSION (R362). -/
def execEndSession (msg : List Byte) (s : State) : Host.Outcome State Fault Refusal :=
  ok (spdmRequest s 0xEC msg 5 3)

/-! ### Function-level reset (R371) -/

/-- End a list of launches without completion entries. -/
def removeAll (s : State) : List Nat → State
  | [] => s
  | k :: l => removeAll (removeLaunch s k false) l

/-- Clear a partition as at grant; it stays granted, without a stage-2 root (R363, R371). -/
def clearPartition (s : State) (handle : Nat) : State :=
  let s := ((knownHarts s).filter fun h => covers handle (h / 4)).foldl unloadHart s
  let s := clearNode (dropAllHeld s handle) handle []
  match getPart s handle with
  | some p => setPart s { p with
      labels := [(0, 0)], s2root := none, stvec := none, notes := [], errors := [], ovf := false, rtload := none }
  | none => s

/-- Clear a list of partitions. -/
def clearPartitions (s : State) : List Nat → State
  | [] => s
  | h :: l => clearPartitions (clearPartition s h) l

/-- FUNCTION_LEVEL_RESET (R371). -/
def execFunctionLevelReset (vf : Nat) (s : State) : Host.Outcome State Fault Refusal :=
  if vf = 0 ∨ s.pk.boot ≠ .up ∨ ¬ hostReaches s vf then ok s
  else
    let parts := (s.pk.parts.filter fun p => fnOfTenant p.tenant == vf).map (·.handle)
    let s := removeAll s ((s.pk.launches.filter fun l => parts.contains l.part).map (·.key))
    let s := discardCopies s fun c => parts.contains c.part
    let s := { s with pk := { s.pk with cmds := s.pk.cmds.filter fun c => c.fn != vf } }
    let s := clearPartitions s parts
    let f := (getFn s vf).restart
    ok (setFn s { f with resetting := true })

/-- FLR_COMPLETION (R371). -/
def execFlrCompletion (vf : Nat) (s : State) : Host.Outcome State Fault Refusal :=
  ok (if fnExists s vf then setFn s { getFn s vf with resetting := false } else s)

end Sys2Proof.Machine
end

