-- ==== Sys2Proof/Machine/Sync.lean ====
section
/-!
DEFINITION. Synchronisation instructions (11 R226, R227) and label instructions (R228).
-/

namespace Sys2Proof.Machine

/-- Write x[rd] and retire. -/
def writeX (s : State) (d : Reg) (v : Dword) : State := onHart s fun h => (h.wx d v).retire

/-- PUB (11 R226). -/
def execPub (d : Reg) (s : State) : Host.Outcome State Fault Refusal :=
  ok (syncFirst s fun s => publish s fun s st => writeX s d st)

/-- PUBN: forms a release and does not wait (11 R226). -/
def execPubn (d : Reg) (s : State) : Host.Outcome State Fault Refusal :=
  let (s, st) := formRelease s s.cid
  ok (writeX (settle s s.cid) d st)

/-- The stamp PUBWAIT waits for: the named release, or the last one issued (11 R226). -/
def waitTarget (s : State) (v : Dword) : Option Dword :=
  let named := stampClock v ≠ 0 ∧ bits v 0 20 = (cgidOf s s.cid).toNat ∧
    (formingAt s s.cid v || s.core.done.any fun r => r.stamp == v)
  if named then some v else s.core.forming.getLast?.map (·.stamp)

/-- PUBWAIT (11 R226). -/
def execPubwait (a : Reg) (s : State) : Host.Outcome State Fault Refusal :=
  ok (syncFirst s fun s =>
    match s.hart.waitStamp.or (waitTarget s (s.hart.rx a)) with
    | none => onHart s Hart.retire
    | some st =>
      if formingAt s s.cid st then stall { s with hart := { s.hart with waitStamp := some st } }
      else onHart s Hart.retire)

/-- ACQ: a log outside the tenant, or of another package, is acquired at once and gives nothing
(11 R197; notes/assumptions/3.md). -/
def execAcq (a : Reg) (s : State) : Host.Outcome State Fault Refusal :=
  ok (syncFirst s fun s =>
    let v := s.hart.rx a
    match localCore s (BitVec.ofNat 20 (bits v 0 20)) with
    | none => onHart s Hart.retire
    | some c =>
      if mustWait s s.cid c v then stall { s with hart := { s.hart with waitStamp := some v } }
      else onHart (acquireLog s s.cid c v) Hart.retire)

/-- ACQS at a scope (11 R199). -/
def execAcqs (sc : BitVec 4) (s : State) : Host.Outcome State Fault Refusal :=
  ok (syncFirst s fun s => onHart (acquireScope s s.cid sc.toNat) Hart.retire)

/-- FENCE: PUB x0 followed by ACQS (11 R226). -/
def execFence (sc : BitVec 4) (s : State) : Host.Outcome State Fault Refusal :=
  ok (syncFirst s fun s => publish s fun s _ => onHart (acquireScope s s.cid sc.toNat) Hart.retire)

/-- IACQ discards the instruction buffer (11 R227). -/
def execIacq (s : State) : Host.Outcome State Fault Refusal :=
  ok (syncFirst s fun s => onHart s fun h => h.retire.dropBlocks)

/-- LOGSTAT (11 R226). -/
def execLogstat (d : Reg) (s : State) : Host.Outcome State Fault Refusal :=
  ok (writeX s d ((s.core.done.getLast?.map (·.stamp)).getD (dw (cgidOf s s.cid).toNat)))

/-- The set of an LSID named by a register; none when it is not an allocated LSID (11 R228). -/
def namedMask (s : State) (v : Dword) : Option Mask :=
  if 1024 ≤ v.toNat then none
  else (partOf s s.cid).bind fun p => maskOf p (BitVec.ofNat 10 v.toNat)

/-- LBLGET: LABEL when the LSID is not allocated, with STVAL the named value (11 R228;
notes/assumptions/32.md). -/
def execLblget (d a : Reg) (k : BitVec 5) (s : State) : Host.Outcome State Fault Refusal :=
  if 3 ≤ k.toNat then ok (illegal s)
  else
    match namedMask s (s.hart.rx a) with
    | none => ok (raise s .label (s.hart.rx a))
    | some m => ok (writeX s d (dw (m.toNat / 2 ^ (64 * k.toNat))))

/-- LBLSUB (11 R228). -/
def execLblsub (d a b : Reg) (s : State) : Host.Outcome State Fault Refusal :=
  match namedMask s (s.hart.rx a), namedMask s (s.hart.rx b) with
  | some x, some y => ok (writeX s d (dbool (subMask x y)))
  | none, _ => ok (raise s .label (s.hart.rx a))
  | _, none => ok (raise s .label (s.hart.rx b))

/-- What LBLPAGE gives for a byte once its place is known: ECC in a marked sector (07 R123), else the LSID. -/
def labelAt (s : State) (d : Reg) (e : Dword) (bad : Bool) (lsid : Nat) : State :=
  if bad then issueL s 0 (.x d 0) 0 false (some ⟨.ecc, e⟩)
  else issueL s 0 (.x d (dw lsid)) 0 false none

/-- LBLPAGE: the LSID of the page or bank that holds a byte, checked as a 1-byte load (11 R228). Of a page of
host memory it is the LSID field of the HOST leaf (DESIGN CHOICE: notes/assumptions/51.md). -/
def execLblpage (d a : Reg) (s : State) : Host.Outcome State Fault Refusal :=
  let e := s.hart.rx a
  match addrFault s s.agent false true [(e, 1)] with
  | some t => ok (raiseL s t.cause t.val)
  | none =>
    match formOf s s.cid e with
    | .bad => ok (raiseL s .addr e)
    | .slice c off =>
      let t := c.toNat % 4096
      match readRefused s s.cid t off with
      | some cnt =>
        ok (issueL (if cnt then countRefusal s t else s) 0 (.x d 0) 0 false (some ⟨.win, e⟩))
      | none =>
        ok (labelAt s d e (isMarked s (sliceKey t off)) (bits (((getCore s t).blbl[bankOf off]?).getD 0) 0 10))
    | .virt va =>
      match translate s s.agent needRead va with
      | (s, .error q) => ok (issueL s 0 (.x d 0) 0 false (some ⟨q, e⟩))
      | (s, .ok pl) => ok (labelAt (reachPlace s pl) d e (placeMarked s pl) (entLsid pl.leaf).toNat)

end Sys2Proof.Machine
end

