-- ==== Sys2Proof/Machine/VecInt.lean ====
section
/-!
DEFINITION. Vector integer instructions (09 R159, R160), VIDOT4 (R165) and the integer divisions
(R166, R167). Each writes its lanes under 09 R146 and raises ILLEGAL on an element type it does not
accept (R145).
-/

namespace Sys2Proof.Machine

/-- A vector instruction that changes only the hart, under a test of VT.ET (09 R145). -/
def vecOn (s : State) (accept : Nat → Bool) (f : Hart → Hart) : Host.Outcome State Fault Refusal :=
  if accept s.hart.et then ok (onHart s fun h => (f h).retire) else ok (illegal s)

/-- A lane function of two operands at the element width (09 R159). -/
def vi2 (s : State) (d a b : Reg) (m : BitVec 3) (v z : BitVec 1) (f : Nat → Nat → Nat → Nat) :
    Host.Outcome State Fault Refusal :=
  vecOn s classI fun h =>
    h.writeLanes d m (z = 1) fun i => f (elemWidth h.et) (h.laneA a i) (h.laneB v b i)

/-- A lane compare into a mask register (09 R147). -/
def viCmp (s : State) (d a b : Reg) (m : BitVec 3) (v z : BitVec 1) (f : Nat → Nat → Nat → Bool) :
    Host.Outcome State Fault Refusal :=
  vecOn s classI fun h =>
    h.writeMask d m (z = 1) fun i => f (elemWidth h.et) (h.laneA a i) (h.laneB v b i)

/-- A lane function of one operand. -/
def vi1 (s : State) (d a : Reg) (m : BitVec 3) (z : BitVec 1) (f : Nat → Nat → Nat) :
    Host.Outcome State Fault Refusal :=
  vecOn s classI fun h => h.writeLanes d m (z = 1) fun i => f (elemWidth h.et) (h.laneA a i)

/-- Arithmetic shift right of a w-bit value. -/
def sraNat (w a k : Nat) : Nat := wrapInt w (sval w a / (2 ^ k : Nat))

def execVadd (d a b : Reg) (m : BitVec 3) (v z : BitVec 1) (s : State) :=
  vi2 s d a b m v z fun _ x y => x + y
def execVsub (d a b : Reg) (m : BitVec 3) (v z : BitVec 1) (s : State) :=
  vi2 s d a b m v z fun w x y => wrapInt w ((x : Int) - y)
def execVmul (d a b : Reg) (m : BitVec 3) (v z : BitVec 1) (s : State) :=
  vi2 s d a b m v z fun _ x y => x * y
def execVmulh (d a b : Reg) (m : BitVec 3) (v z : BitVec 1) (s : State) :=
  vi2 s d a b m v z fun w x y => wrapInt (2 * w) (sval w x * sval w y) / 2 ^ w
def execVmulhn (d a b : Reg) (m : BitVec 3) (v z : BitVec 1) (s : State) :=
  vi2 s d a b m v z fun w x y => x * y / 2 ^ w
def execVand (d a b : Reg) (m : BitVec 3) (v z : BitVec 1) (s : State) :=
  vi2 s d a b m v z fun _ x y => x &&& y
def execVor (d a b : Reg) (m : BitVec 3) (v z : BitVec 1) (s : State) :=
  vi2 s d a b m v z fun _ x y => x ||| y
def execVxor (d a b : Reg) (m : BitVec 3) (v z : BitVec 1) (s : State) :=
  vi2 s d a b m v z fun _ x y => x ^^^ y
def execVandn (d a b : Reg) (m : BitVec 3) (v z : BitVec 1) (s : State) :=
  vi2 s d a b m v z fun w x y => x &&& (2 ^ w - 1 - y % 2 ^ w)
def execVsll (d a b : Reg) (m : BitVec 3) (v z : BitVec 1) (s : State) :=
  vi2 s d a b m v z fun w x y => x * 2 ^ (y % w)
def execVsrl (d a b : Reg) (m : BitVec 3) (v z : BitVec 1) (s : State) :=
  vi2 s d a b m v z fun w x y => x / 2 ^ (y % w)
def execVsra (d a b : Reg) (m : BitVec 3) (v z : BitVec 1) (s : State) :=
  vi2 s d a b m v z fun w x y => sraNat w x (y % w)
def execVmin (d a b : Reg) (m : BitVec 3) (v z : BitVec 1) (s : State) :=
  vi2 s d a b m v z fun w x y => if sval w x < sval w y then x else y
def execVmax (d a b : Reg) (m : BitVec 3) (v z : BitVec 1) (s : State) :=
  vi2 s d a b m v z fun w x y => if sval w x < sval w y then y else x
def execVminn (d a b : Reg) (m : BitVec 3) (v z : BitVec 1) (s : State) :=
  vi2 s d a b m v z fun _ x y => if x < y then x else y
def execVmaxn (d a b : Reg) (m : BitVec 3) (v z : BitVec 1) (s : State) :=
  vi2 s d a b m v z fun _ x y => if x < y then y else x
def execVsadd (d a b : Reg) (m : BitVec 3) (v z : BitVec 1) (s : State) :=
  vi2 s d a b m v z fun w x y => wrapInt w (satInt true w (sval w x + sval w y))
def execVssub (d a b : Reg) (m : BitVec 3) (v z : BitVec 1) (s : State) :=
  vi2 s d a b m v z fun w x y => wrapInt w (satInt true w (sval w x - sval w y))
def execVsaddn (d a b : Reg) (m : BitVec 3) (v z : BitVec 1) (s : State) :=
  vi2 s d a b m v z fun w x y => wrapInt w (satInt false w ((x : Int) + y))
def execVssubn (d a b : Reg) (m : BitVec 3) (v z : BitVec 1) (s : State) :=
  vi2 s d a b m v z fun w x y => wrapInt w (satInt false w ((x : Int) - y))
def execVabsd (d a b : Reg) (m : BitVec 3) (v z : BitVec 1) (s : State) :=
  vi2 s d a b m v z fun w x y => (sval w x - sval w y).natAbs
def execVseq (d a b : Reg) (m : BitVec 3) (v z : BitVec 1) (s : State) :=
  viCmp s d a b m v z fun _ x y => x == y
def execVsne (d a b : Reg) (m : BitVec 3) (v z : BitVec 1) (s : State) :=
  viCmp s d a b m v z fun _ x y => x != y
def execVslt (d a b : Reg) (m : BitVec 3) (v z : BitVec 1) (s : State) :=
  viCmp s d a b m v z fun w x y => sval w x < sval w y
def execVsltn (d a b : Reg) (m : BitVec 3) (v z : BitVec 1) (s : State) :=
  viCmp s d a b m v z fun _ x y => x < y
def execVpopc (d a : Reg) (m : BitVec 3) (z : BitVec 1) (s : State) := vi1 s d a m z popNat
def execVclz (d a : Reg) (m : BitVec 3) (z : BitVec 1) (s : State) := vi1 s d a m z clzNat

/-- VMERGE: the mask selects between the sources; tail lanes follow VT.TP; any element type
(09 R160). -/
def execVmerge (d a b : Reg) (m : BitVec 3) (v : BitVec 1) (s : State) :
    Host.Outcome State Fault Refusal :=
  vecOn s (fun _ => true) fun h =>
    h.wv d (mergeLanes (elemWidth h.et) (laneCount h.et) (fun i => decide (i < h.al)) (fun _ => false)
      false h.tp (h.rv d) fun i => if h.mbit m h.et i then h.laneB v b i else h.laneA a i)

/-- VIDOT4: sums of four 8-bit products into 32-bit lanes (09 R165). -/
def execVidot4 (d a b c : Reg) (m : BitVec 3) (s : State) : Host.Outcome State Fault Refusal :=
  vecOn s (fun et => et == 0 || et == 4) fun h =>
    let val := fun v => if h.et = 0 then sval 8 v else (v : Int)
    let q := fun j => if j < h.al then val (h.laneA a j) * val (lane (h.rv b) 8 j) else 0
    h.wv d (mergeLanes 32 16 (fun i => decide (4 * i < h.al) && (m = 0 || bit (h.rm m) i))
      (fun i => decide (4 * i < h.al)) h.mp h.tp (h.rv d) fun i =>
        wrapInt 32 (q (4 * i) + q (4 * i + 1) + q (4 * i + 2) + q (4 * i + 3) + lane (h.rv c) 32 i))

/-- A class L vector result: the lanes are merged with vd as it stands at issue (09 R150, R166;
notes/assumptions/7.md). -/
def vecLong (s : State) (d : Reg) (m : BitVec 3) (z : BitVec 1) (l : BitVec 4) (fl : Flags) (fp : Bool)
    (f : Nat → Nat) : State :=
  issueL s l (.v d ((s.hart.writeLanes d m (z = 1) f).rv d)) fl fp none

/-- A lane division (09 R167). -/
def viDiv (s : State) (d a b : Reg) (m : BitVec 3) (z : BitVec 1) (l : BitVec 4)
    (f : Nat → Nat → Nat → Nat) : Host.Outcome State Fault Refusal :=
  if classI s.hart.et then
    ok (vecLong s d m z l 0 false fun i =>
      f (elemWidth s.hart.et) (s.hart.laneA a i) (lane (s.hart.rv b) (elemWidth s.hart.et) i))
  else ok (illegal s)

def execVdiv (d a b : Reg) (m : BitVec 3) (z : BitVec 1) (l : BitVec 4) (s : State) :=
  viDiv s d a b m z l divS
def execVdivn (d a b : Reg) (m : BitVec 3) (z : BitVec 1) (l : BitVec 4) (s : State) :=
  viDiv s d a b m z l divU
def execVrem (d a b : Reg) (m : BitVec 3) (z : BitVec 1) (l : BitVec 4) (s : State) :=
  viDiv s d a b m z l remS
def execVremn (d a b : Reg) (m : BitVec 3) (z : BitVec 1) (l : BitVec 4) (s : State) :=
  viDiv s d a b m z l remU

end Sys2Proof.Machine
end

