-- ==== Sys2Proof/Machine/VecFloat.lean ====
section
/-!
DEFINITION. Vector floating-point instructions (09 R161 to R164, R166). Lanes round by FRM read at
issue, and the flags are the union over active lanes (05 R89).
-/

namespace Sys2Proof.Machine

/-- The type of the hart's VT.ET. -/
def Hart.fmt (h : Hart) : Fmt := Fmt.ofElem h.et

/-- The dynamic rounding mode. -/
def Hart.frmode (h : Hart) : RMode := h.rmode 7

/-- A vector floating-point result with flags, for the class F types. -/
def vfOn (s : State) (d : Reg) (m : BitVec 3) (z : BitVec 1) (f : Nat → Nat × Flags) :
    Host.Outcome State Fault Refusal :=
  if classF s.hart.et then
    let h := s.hart
    let fl := laneFlags (laneCount h.et) (h.active m) fun i => (f i).2
    ok (raiseFlags { s with hart := (h.writeLanes d m (z = 1) fun i => (f i).1).retire } fl)
  else ok (illegal s)

/-- A lane function of two operands (09 R161). -/
def vf2 (s : State) (d a b : Reg) (m : BitVec 3) (v z : BitVec 1)
    (f : Fmt → Nat → Nat → Nat × Flags) : Host.Outcome State Fault Refusal :=
  vfOn s d m z fun i => f s.hart.fmt (s.hart.laneA a i) (s.hart.laneB v b i)

/-- A lane compare into a mask register (09 R147, R161). -/
def vfCmp (s : State) (d a b : Reg) (m : BitVec 3) (v z : BitVec 1)
    (f : Fmt → Nat → Nat → Bool × Flags) : Host.Outcome State Fault Refusal :=
  if classF s.hart.et then
    let h := s.hart
    let g := fun i => f h.fmt (h.laneA a i) (h.laneB v b i)
    let fl := laneFlags (laneCount h.et) (h.active m) fun i => (g i).2
    ok (raiseFlags { s with hart := (h.writeMask d m (z = 1) fun i => (g i).1).retire } fl)
  else ok (illegal s)

def execVfadd (d a b : Reg) (m : BitVec 3) (v z : BitVec 1) (s : State) :=
  vf2 s d a b m v z fun t => fAdd t s.hart.frmode
def execVfsub (d a b : Reg) (m : BitVec 3) (v z : BitVec 1) (s : State) :=
  vf2 s d a b m v z fun t => fSub t s.hart.frmode
def execVfmul (d a b : Reg) (m : BitVec 3) (v z : BitVec 1) (s : State) :=
  vf2 s d a b m v z fun t => fMul t s.hart.frmode
def execVfmin (d a b : Reg) (m : BitVec 3) (v z : BitVec 1) (s : State) :=
  vf2 s d a b m v z fun t => fMinMax t false false
def execVfmax (d a b : Reg) (m : BitVec 3) (v z : BitVec 1) (s : State) :=
  vf2 s d a b m v z fun t => fMinMax t true false
def execVfmini (d a b : Reg) (m : BitVec 3) (v z : BitVec 1) (s : State) :=
  vf2 s d a b m v z fun t => fMinMax t false true
def execVfmaxi (d a b : Reg) (m : BitVec 3) (v z : BitVec 1) (s : State) :=
  vf2 s d a b m v z fun t => fMinMax t true true
def execVfsgc (d a b : Reg) (m : BitVec 3) (v z : BitVec 1) (s : State) :=
  vf2 s d a b m v z fun t x y => (fSign t 0 x y, 0)
def execVfsgi (d a b : Reg) (m : BitVec 3) (v z : BitVec 1) (s : State) :=
  vf2 s d a b m v z fun t x y => (fSign t 1 x y, 0)
def execVfsgx (d a b : Reg) (m : BitVec 3) (v z : BitVec 1) (s : State) :=
  vf2 s d a b m v z fun t x y => (fSign t 2 x y, 0)
def execVfeq (d a b : Reg) (m : BitVec 3) (v z : BitVec 1) (s : State) := vfCmp s d a b m v z fEq
def execVflt (d a b : Reg) (m : BitVec 3) (v z : BitVec 1) (s : State) :=
  vfCmp s d a b m v z fun t => fLess t false
def execVfle (d a b : Reg) (m : BitVec 3) (v z : BitVec 1) (s : State) :=
  vfCmp s d a b m v z fun t => fLess t true
/-- VFCLASS (09 R162): no flag is set (DESIGN CHOICE: notes/assumptions/45.md). -/
def execVfclass (d a : Reg) (m : BitVec 3) (z : BitVec 1) (s : State) :=
  vfOn s d m z fun i => (fClass s.hart.fmt (s.hart.laneA a i), 0)

/-- A fused multiply-add of lanes (09 R163). -/
def vfFused (s : State) (d a b c : Reg) (m : BitVec 3) (np nc : Bool) :
    Host.Outcome State Fault Refusal :=
  vfOn s d m 0 fun i =>
    fMulAdd s.hart.fmt s.hart.frmode np nc (s.hart.laneA a i) (s.hart.laneA b i) (s.hart.laneA c i)

def execVfmadd (d a b c : Reg) (m : BitVec 3) (s : State) := vfFused s d a b c m false false
def execVfmsub (d a b c : Reg) (m : BitVec 3) (s : State) := vfFused s d a b c m false true
def execVfnmadd (d a b c : Reg) (m : BitVec 3) (s : State) := vfFused s d a b c m true true
def execVfnmsub (d a b c : Reg) (m : BitVec 3) (s : State) := vfFused s d a b c m true false

/-- One f32 lane of VFDOT2: the exact products of the source lanes below the active length, added to
the addend with one rounding (09 R164). -/
def dot2 (mode : RMode) (src : Fmt) (l : List (Nat × Nat)) (c : Nat) : Nat × Flags :=
  let ps := l.map fun (x, y) => mulVals (src.val x) (src.val y)
  addVals .f32 mode (ps.any Prod.snd) (ps.map Prod.fst ++ [Fmt.f32.val c])

/-- VFDOT2 (09 R164). -/
def execVfdot2 (d a b c : Reg) (m : BitVec 3) (s : State) : Host.Outcome State Fault Refusal :=
  if s.hart.et = 8 ∨ s.hart.et = 9 then
    let h := s.hart
    let act := fun i => decide (2 * i < h.al) && (m = 0 || bit (h.rm m) i)
    let f := fun i =>
      dot2 h.frmode h.fmt
        (([2 * i, 2 * i + 1].filter fun j => j < h.al).map fun j => (h.laneA a j, h.laneA b j))
        (lane (h.rv c) 32 i)
    let v := mergeLanes 32 16 act (fun i => decide (2 * i < h.al)) h.mp h.tp (h.rv d) fun i => (f i).1
    ok (raiseFlags { s with hart := (h.wv d v).retire } (laneFlags 16 act fun i => (f i).2))
  else ok (illegal s)

/-- A class L floating-point vector result (09 R166). -/
def vfLong (s : State) (d : Reg) (m : BitVec 3) (z : BitVec 1) (l : BitVec 4) (f : Nat → Nat × Flags) :
    Host.Outcome State Fault Refusal :=
  if classF s.hart.et then
    ok (vecLong s d m z l
      (laneFlags (laneCount s.hart.et) (s.hart.active m) fun i => (f i).2) true fun i => (f i).1)
  else ok (illegal s)

def execVfdiv (d a b : Reg) (m : BitVec 3) (z : BitVec 1) (l : BitVec 4) (s : State) :=
  vfLong s d m z l fun i => fDiv s.hart.fmt s.hart.frmode (s.hart.laneA a i) (s.hart.laneA b i)
def execVfsqrt (d a : Reg) (m : BitVec 3) (z : BitVec 1) (l : BitVec 4) (s : State) :=
  vfLong s d m z l fun i => fSqrt s.hart.fmt s.hart.frmode (s.hart.laneA a i)

end Sys2Proof.Machine
end

