-- ==== Sys2Proof/Machine/VecMem.lean ====
section
/-!
DEFINITION. Vector loads and stores (09 R151 to R158).
-/

namespace Sys2Proof.Machine

/-- Bytes of an element; a q4 lane lies in one byte (09 R152). -/
def elemBytes (et : Nat) : Nat := max 1 (elemWidth et / 8)

/-- Whether an element type is q4. -/
def isQ4 (et : Nat) : Bool := et == 15

/-- The address of lane i in the unit-stride modes (09 R152). -/
def unitAddress (h : Hart) (a : Reg) (i : Nat) : Dword :=
  h.rx a + dw (if isQ4 h.et then i / 2 else i * elemBytes h.et)

/-- The address of lane i in the strided mode. -/
def strideAddress (h : Hart) (a b : Reg) (i : Nat) : Dword := h.rx a + dw i * h.rx b

/-- The address of lane i in the gather and scatter mode: the offset is read as signed. -/
def gatherAddress (h : Hart) (a b : Reg) (i : Nat) : Dword :=
  h.rx a + BitVec.ofInt 64 (sval (elemWidth h.et) (h.laneA b i) * elemBytes h.et)

/-- Sectors already read by this instruction (09 R153). -/
abbrev SectorCache := List (Dword × Except Trap (List Byte × Mask))

/-- Read a sector at most once. -/
def readOnce (s : State) (cache : SectorCache) (a : Dword) :
    State × SectorCache × Except Trap (List Byte × Mask) :=
  match cache.find? fun e => e.1 == a with
  | some (_, r) => (s, cache, r)
  | none =>
    let (s, r) := readPart s needRead a 32
    (s, (a, r) :: cache, r)

/-- The bytes of one lane from its parts; a fault names the first faulting byte's part (09 R155). -/
def readLane (s : State) (cache : SectorCache) :
    List (Dword × Nat) → State × SectorCache × Except Trap (List Byte × Mask)
  | [] => (s, cache, .ok ([], 0))
  | (e, n) :: l =>
    match readOnce s cache (e &&& ~~~31) with
    | (s, cache, .error t) => (s, cache, .error ⟨t.cause, e⟩)
    | (s, cache, .ok (bs, m)) =>
      match readLane s cache l with
      | (s, cache, .error t) => (s, cache, .error t)
      | (s, cache, .ok (b', m')) => (s, cache, .ok ((bs.drop (bits e 0 5)).take n ++ b', m ||| m'))

/-- What reading lanes in order found: lane values, the label, and the first lane that faulted. -/
structure LaneReads where
  vals : List (Nat × Nat)
  mask : Mask
  fault : Option (Nat × Trap)
  deriving DecidableEq, Repr

/-- Read lanes in ascending order until one faults. `once` reads each sector at one point (09 R153);
`addr` gives a lane's address, none for ADDR (07 R127), with the address before the spill window. -/
def readLanes (s : State) (once : Bool) (n : Nat) (addr : Nat → Option Dword × Dword) :
    List Nat → SectorCache → LaneReads → State × LaneReads
  | [], _, r => (s, r)
  | i :: l, cache, r =>
    match addr i with
    | (none, e) => (s, { r with fault := some (i, ⟨.addr, e⟩) })
    | (some e, _) =>
      match addrFault s s.agent false true (parts e n) with
      | some t => (s, { r with fault := some (i, t) })
      | none =>
        match readLane s (if once then cache else []) (parts e n) with
        | (s, _, .error t) => (s, { r with fault := some (i, t) })
        | (s, cache, .ok (bs, m)) =>
          readLanes s once n addr l cache
            { r with vals := r.vals ++ [(i, ofBytes bs)], mask := r.mask ||| m }

/-- The first lane of a list that raises ADDR or DIECROSS (09 R155, R157). -/
def laneAddrFault (s : State) (write : Bool) (n : Nat) (addr : Nat → Option Dword × Dword) :
    List Nat → Option Trap
  | [] => none
  | i :: l =>
    match addr i with
    | (none, e) => some ⟨.addr, e⟩
    | (some e, _) =>
      match addrFault s s.agent write true (parts e n) with
      | some t => some t
      | none => laneAddrFault s write n addr l

/-- The active lanes in ascending order. -/
def Hart.activeLanes (h : Hart) (m : BitVec 3) : List Nat :=
  (List.range (laneCount h.et)).filter (h.active m)

/-- A lane's address through the spill window (09 R152). -/
def laneAddress (h : Hart) (a : Reg) (f : Nat → Dword) (i : Nat) : Option Dword × Dword :=
  ((baseAddress h a (f i) (elemBytes h.et)).map Prod.fst, f i)

/-- The value of a lane read; a q4 lane is a nibble of its byte (05 R98). -/
def laneValue (et i v : Nat) : Nat := if isQ4 et then v / 16 ^ (i % 2) % 16 else v

/-- Set VT.VL (09 R156). -/
def Hart.setVl (h : Hart) (k : Nat) : Hart :=
  { h with vt := (h.vt &&& ~~~(0x7F00 : Dword)) ||| dw (k % 128 * 256) }

/-- vd after a load of the lanes below `top` (09 R146, R156). -/
def loadedLanes (h : Hart) (d : Reg) (m : BitVec 3) (z : BitVec 1) (top : Nat)
    (vals : List (Nat × Nat)) : VReg :=
  mergeLanes (elemWidth h.et) (laneCount h.et) (fun i => h.active m i && decide (i < top))
    (fun i => decide (i < h.al) && decide (i < top)) (h.mp || z == 1) h.tp (h.rv d)
    fun i => laneValue h.et i ((assocGet vals i).getD 0)

/-- Note whether every lane of a load reads the own slice (01 R21, R23). -/
def nearLanes (s : State) (addr : Nat → Option Dword × Dword) (lanes : List Nat) : State :=
  { s with hart := { s.hart with near := lanes.all fun i => (addr i).1.any (ownSlice s s.cid) } }

/-- A vector load whose fault traps (09 R155). -/
def vload (s : State) (once : Bool) (lanes : List Nat) (addr : Nat → Option Dword × Dword) (d : Reg)
    (m : BitVec 3) (z : BitVec 1) (la : BitVec 4) (spread : List (Nat × Nat) → List (Nat × Nat)) :
    State :=
  let h := s.hart
  let n := elemBytes h.et
  match laneAddrFault s false n addr lanes with
  | some t => raiseL s t.cause t.val
  | none =>
    let (s, r) := readLanes (nearLanes s addr lanes) once n addr lanes [] ⟨[], 0, none⟩
    match r.fault with
    | some (_, t) => issueL s la (.v d 0) 0 false (some t)
    | none =>
      issueL (widenHla s r.mask) la (.v d (loadedLanes h d m z 512 (spread r.vals))) 0 false none

/-- VLD (09 R151). -/
def execVld (d a : Reg) (m : BitVec 3) (z : BitVec 1) (l : BitVec 4) (s : State) :
    Host.Outcome State Fault Refusal :=
  let h := s.hart
  ok (vload s true (h.activeLanes m) (laneAddress h a (unitAddress h a)) d m z l id)

/-- VLD.st; class A4 (09 R151). -/
def execVldSt (d a b : Reg) (m : BitVec 3) (z : BitVec 1) (l : BitVec 4) (s : State) :
    Host.Outcome State Fault Refusal :=
  let h := s.hart
  if classA4 h.et then
    ok (vload s false (h.activeLanes m) (laneAddress h a (strideAddress h a b)) d m z l id)
  else ok (illegal s)

/-- VLD.gt; class A4 (09 R151). -/
def execVldGt (d a b : Reg) (m : BitVec 3) (z : BitVec 1) (l : BitVec 4) (s : State) :
    Host.Outcome State Fault Refusal :=
  let h := s.hart
  if classA4 h.et then
    ok (vload s false (h.activeLanes m) (laneAddress h a (gatherAddress h a b)) d m z l id)
  else ok (illegal s)

/-- VLD.bc reads its element once and gives it to every active lane; class A4 (09 R151, R153). -/
def execVldBc (d a : Reg) (m : BitVec 3) (z : BitVec 1) (l : BitVec 4) (s : State) :
    Host.Outcome State Fault Refusal :=
  let h := s.hart
  if classA4 h.et then
    let lanes := h.activeLanes m
    ok (vload s true (lanes.take 1) (laneAddress h a fun _ => h.rx a) d m z l
      fun vals => lanes.map fun i => (i, ((vals.head?).map Prod.snd).getD 0))
  else ok (illegal s)

/-- VLD.ff: a fault past the first active lane ends the vector there (09 R156). A lane whose stage-2 entry Understory
can serve has the whole load wait for it (17 R339); the vector ends there only when no entry comes (DESIGN CHOICE:
notes/assumptions/95.md). -/
def execVldFf (d a : Reg) (m : BitVec 3) (z : BitVec 1) (l : BitVec 4) (s : State) :
    Host.Outcome State Fault Refusal :=
  let h := s.hart
  let lanes := h.activeLanes m
  let addr := laneAddress h a (unitAddress h a)
  let (s', r) := readLanes (nearLanes s addr lanes) true (elemBytes h.et) addr lanes [] ⟨[], 0, none⟩
  match r.fault with
  | none => ok (issueL (widenHla s' r.mask) l (.v d (loadedLanes h d m z 512 r.vals)) 0 false none)
  | some (k, _) =>
    if lanes.head? = some k then ok (vload s true lanes addr d m z l id)
    else
      let s' := issueL (widenHla s' r.mask) l (.v d (loadedLanes h d m z k r.vals)) 0 false none
      ok { s' with hart := s'.hart.setVl k }

/-- A lane's store: its address, its bytes and whether the spill window redirected it. -/
structure LaneStore where
  addr : Dword
  bytes : List Byte
  stk : Bool
  deriving DecidableEq, Repr

/-- Add a piece to a list in ascending sector address, over an earlier piece of its sector (09 R153).
`name` gives an address its S-space form, so that the two names of an own sector (11 R183) are one. -/
def insertPiece (name : Dword → Dword) (p : Piece) : List Piece → List Piece
  | [] => [p]
  | q :: l =>
    if name q.addr = name p.addr then q.merge p :: l
    else if (name p.addr).toNat < (name q.addr).toNat then p :: q :: l
    else q :: insertPiece name p l

/-- The pieces of a unit-stride or strided store. -/
def sortedPieces (name : Dword → Dword) : List LaneStore → List Piece → List Piece
  | [], acc => acc
  | x :: l, acc =>
    sortedPieces name l ((piecesOf x.addr x.bytes x.stk).foldl (fun a p => insertPiece name p a) acc)

/-- The stored bytes of a lane; a q4 store writes the byte of two lanes from its even lane
(09 R154). -/
def laneBytes (h : Hart) (d : Reg) (i : Nat) : List Byte :=
  if isQ4 h.et then [BitVec.ofNat 8 (h.laneA d i + 16 * h.laneA d (i + 1))]
  else bytesOf (elemBytes h.et) (h.laneA d i)

/-- A vector store (09 R153, R157). `scatter` keeps one sequence of element stores. -/
def vstore (s : State) (scatter : Bool) (lanes : List Nat) (a : Reg) (f : Nat → Dword) (d : Reg) :
    State :=
  let h := s.hart
  let n := elemBytes h.et
  match laneAddrFault s true n (laneAddress h a f) lanes with
  | some t => raise s t.cause t.val
  | none =>
    let xs := lanes.map fun i =>
      let (e, k) := (baseAddress h a (f i) n).getD (0, false)
      ({ addr := e, bytes := laneBytes h d i, stk := k } : LaneStore)
    let ps := if scatter then xs.flatMap fun x => piecesOf x.addr x.bytes x.stk
      else sortedPieces (normalise s s.cid) xs []
    storePieces s ps

/-- The lanes that store: for q4 the active even lanes (09 R154). -/
def Hart.storeLanes (h : Hart) (m : BitVec 3) : List Nat :=
  (h.activeLanes m).filter fun i => !isQ4 h.et || i % 2 == 0

/-- VST (09 R151). -/
def execVst (d a : Reg) (m : BitVec 3) (s : State) : Host.Outcome State Fault Refusal :=
  let h := s.hart
  ok (vstore s false (h.storeLanes m) a (unitAddress h a) d)

/-- VST.st; class A4 (09 R151). -/
def execVstSt (d a b : Reg) (m : BitVec 3) (s : State) : Host.Outcome State Fault Refusal :=
  let h := s.hart
  if classA4 h.et then ok (vstore s false (h.storeLanes m) a (strideAddress h a b) d)
  else ok (illegal s)

/-- VST.sc; class A4 (09 R151, R153). -/
def execVstSc (d a b : Reg) (m : BitVec 3) (s : State) : Host.Outcome State Fault Refusal :=
  let h := s.hart
  if classA4 h.et then ok (vstore s true (h.storeLanes m) a (gatherAddress h a b) d)
  else ok (illegal s)

end Sys2Proof.Machine
end

