-- ==== Sys2Proof/Machine/VecPerm.lean ====
section
/-!
DEFINITION. Reductions, permutes and mask functions (09 R168 to R171, 05 R99, R100).
-/

namespace Sys2Proof.Machine

/-- One node of the reduction tree: an absent operand passes the other (05 R99). -/
def node {α : Type} (f : α → α → α × Flags) (a b : Option α × Flags) : Option α × Flags :=
  match a.1, b.1 with
  | none, _ => (b.1, a.2 ||| b.2)
  | _, none => (a.1, a.2 ||| b.2)
  | some x, some y => let r := f x y; (some r.1, a.2 ||| b.2 ||| r.2)

/-- One level of the tree: neighbours combined in pairs. -/
def treeLevel {α : Type} (f : α → α → α × Flags) : List (Option α × Flags) → List (Option α × Flags)
  | a :: b :: l => node f a b :: treeLevel f l
  | l => l

/-- The fixed tree over a power of two of lanes (05 R99). -/
def tree {α : Type} (f : α → α → α × Flags) : Nat → List (Option α × Flags) → Option α × Flags
  | 0, l => l.headD (none, 0)
  | n + 1, l => tree f n (treeLevel f l)

/-- An unordered reduction: the tree's result combined with the start value last (05 R99). -/
def reduceTree (f : Nat → Nat → Nat × Flags) (start : Nat) (l : List (Option Nat)) : Nat × Flags :=
  let (t, fl) := tree f 7 (l.map fun v => (v, 0))
  match t with
  | none => (start, fl)
  | some v => let r := f start v; (r.1, fl ||| r.2)

/-- The sequential reduction (05 R100). -/
def reduceSeq (f : Nat → Nat → Nat × Flags) (start : Nat) (l : List (Option Nat)) : Nat × Flags :=
  l.foldl (fun acc v => match v with
    | none => acc
    | some x => let r := f acc.1 x; (r.1, acc.2 ||| r.2)) (start, 0)

/-- A reduction: the result goes to lane 0, the other lanes follow VT.TP (09 R168). -/
def vred (s : State) (d a b : Reg) (m : BitVec 3) (v : BitVec 1) (accept : Nat → Bool)
    (red : Nat → List (Option Nat) → Nat × Flags) : Host.Outcome State Fault Refusal :=
  if accept s.hart.et then
    let h := s.hart
    let l := laneCount h.et
    let src := (List.range l).map fun i => if h.active m i then some (h.laneA a i) else none
    let (r, fl) := red (h.laneB v b 0) src
    let out := mergeLanes (elemWidth h.et) l (fun i => i == 0) (fun _ => false) false h.tp (h.rv d)
      fun _ => r
    ok (raiseFlags { s with hart := (h.wv d out).retire } fl)
  else ok (illegal s)

/-- Integer minimum or maximum, signed for the s types (09 R168). -/
def redMinMax (et : Nat) (mx : Bool) (x y : Nat) : Nat × Flags :=
  let w := elemWidth et
  let below := if elemSigned et then decide (sval w x < sval w y) else decide (x < y)
  (if below != mx then x else y, 0)

def execVredsum (d a b : Reg) (m : BitVec 3) (v : BitVec 1) (s : State) :=
  vred s d a b m v classI (reduceTree fun x y => ((x + y) % 2 ^ elemWidth s.hart.et, 0))
def execVredmin (d a b : Reg) (m : BitVec 3) (v : BitVec 1) (s : State) :=
  vred s d a b m v classI (reduceTree (redMinMax s.hart.et false))
def execVredmax (d a b : Reg) (m : BitVec 3) (v : BitVec 1) (s : State) :=
  vred s d a b m v classI (reduceTree (redMinMax s.hart.et true))
def execVfredsum (d a b : Reg) (m : BitVec 3) (v : BitVec 1) (s : State) :=
  vred s d a b m v classF (reduceTree (fAdd s.hart.fmt s.hart.frmode))
def execVfredseq (d a b : Reg) (m : BitVec 3) (v : BitVec 1) (s : State) :=
  vred s d a b m v classF (reduceSeq (fAdd s.hart.fmt s.hart.frmode))
def execVfredmin (d a b : Reg) (m : BitVec 3) (v : BitVec 1) (s : State) :=
  vred s d a b m v classF (reduceTree (fMinMax s.hart.fmt false false))
def execVfredmax (d a b : Reg) (m : BitVec 3) (v : BitVec 1) (s : State) :=
  vred s d a b m v classF (reduceTree (fMinMax s.hart.fmt true false))

/-- The shift of a slide: the rb field as an immediate, or u(x[rb]) (09 R169). -/
def Hart.slide (h : Hart) (v : BitVec 1) (k : BitVec 5) : Nat :=
  if v = 1 then (h.rx k).toNat else k.toNat

/-- VSLIDEUP (09 R169): lanes below the shift are left unchanged. -/
def execVslideup (d a : Reg) (k : BitVec 5) (m : BitVec 3) (v : BitVec 1) (s : State) :
    Host.Outcome State Fault Refusal :=
  vecOn s (fun _ => true) fun h =>
    h.writeLanes d m false fun i =>
      if h.slide v k ≤ i then h.laneA a (i - h.slide v k) else h.laneA d i

/-- VSLIDEDN (09 R169). -/
def execVslidedn (d a : Reg) (k : BitVec 5) (m : BitVec 3) (v : BitVec 1) (s : State) :
    Host.Outcome State Fault Refusal :=
  vecOn s (fun _ => true) fun h =>
    h.writeLanes d m false fun i =>
      if i + h.slide v k < laneCount h.et then h.laneA a (i + h.slide v k) else 0

/-- VPERM (09 R170). -/
def execVperm (d a b : Reg) (m : BitVec 3) (s : State) : Host.Outcome State Fault Refusal :=
  vecOn s classA4 fun h =>
    h.writeLanes d m false fun i =>
      if h.laneA b i < laneCount h.et then h.laneA a (h.laneA b i) else 0

/-- VSQZ: selected lanes squeezed to the front, the rest follow VT.TP (09 R170). -/
def execVsqz (d a : Reg) (m : BitVec 3) (s : State) : Host.Outcome State Fault Refusal :=
  vecOn s (fun _ => true) fun h =>
    let sel := ((List.range (laneCount h.et)).filter (h.active m)).map (h.laneA a)
    h.wv d (mergeLanes (elemWidth h.et) (laneCount h.et) (fun i => decide (i < sel.length))
      (fun _ => false) false h.tp (h.rv d) fun i => (sel[i]?).getD 0)

/-- The rank of lane i among the active lanes (09 R170). -/
def Hart.rank (h : Hart) (m : BitVec 3) (i : Nat) : Nat := ((List.range i).filter (h.active m)).length

/-- VSPRD (09 R170). -/
def execVsprd (d a : Reg) (m : BitVec 3) (s : State) : Host.Outcome State Fault Refusal :=
  vecOn s (fun _ => true) fun h => h.writeLanes d m false fun i => h.laneA a (h.rank m i)

/-- VZIP (09 R170). -/
def execVzip (d a b : Reg) (m : BitVec 3) (s : State) : Host.Outcome State Fault Refusal :=
  vecOn s (fun _ => true) fun h =>
    h.writeLanes d m false fun i => if i % 2 = 0 then h.laneA a (i / 2) else h.laneA b (i / 2)

/-- VUNZIP (09 R170). -/
def execVunzip (d a b : Reg) (m : BitVec 3) (s : State) : Host.Outcome State Fault Refusal :=
  vecOn s (fun _ => true) fun h =>
    h.writeLanes d m false fun i =>
      let half := laneCount h.et / 2
      if i < half then h.laneA a (2 * i) else h.laneA b (2 * (i - half))

/-- VRANK (09 R170). -/
def execVrank (d : Reg) (m : BitVec 3) (s : State) : Host.Outcome State Fault Refusal :=
  vecOn s classI fun h => h.writeLanes d m false (h.rank m)

def execVmand (d a b : BitVec 3) (s : State) : Host.Outcome State Fault Refusal :=
  ok (onHart s fun h => (h.wm d (h.rm a &&& h.rm b)).retire)
def execVmor (d a b : BitVec 3) (s : State) : Host.Outcome State Fault Refusal :=
  ok (onHart s fun h => (h.wm d (h.rm a ||| h.rm b)).retire)
def execVmxor (d a b : BitVec 3) (s : State) : Host.Outcome State Fault Refusal :=
  ok (onHart s fun h => (h.wm d (h.rm a ^^^ h.rm b)).retire)
def execVmnot (d a : BitVec 3) (s : State) : Host.Outcome State Fault Refusal :=
  ok (onHart s fun h => (h.wm d (~~~h.rm a)).retire)
def execVmpopc (d : Reg) (a : BitVec 3) (s : State) : Host.Outcome State Fault Refusal :=
  ok (onHart s fun h => (h.wx d (dw (popNat 64 (h.rm a).toNat))).retire)
/-- VMFIRST: all ones for an empty mask (09 R171). -/
def execVmfirst (d : Reg) (a : BitVec 3) (s : State) : Host.Outcome State Fault Refusal :=
  ok (onHart s fun h =>
    (h.wx d (if h.rm a = 0 then BitVec.allOnes 64 else dw (ctzNat 64 (h.rm a).toNat))).retire)

end Sys2Proof.Machine
end

