-- ==== Sys2Proof/Machine/VecMove.lean ====
section
/-!
DEFINITION. Moves and the type register (09 R172, R173), conversions (R174 to R178) and the counter-based
generator (R179, R180).
-/

namespace Sys2Proof.Machine

/-- VSPLAT (09 R172). -/
def execVsplat (d a : Reg) (m : BitVec 3) (s : State) : Host.Outcome State Fault Refusal :=
  vecOn s (fun _ => true) fun h =>
    h.writeLanes d m false fun _ => (h.rx a).toNat % 2 ^ elemWidth h.et

/-- VEXT: sign-extended for s types, zero-extended otherwise (09 R172). -/
def execVext (d a b : Reg) (s : State) : Host.Outcome State Fault Refusal :=
  vecOn s (fun _ => true) fun h =>
    let w := elemWidth h.et
    let v := h.laneA a ((h.rx b).toNat % laneCount h.et)
    h.wx d (if elemSigned h.et then dw (wrapInt 64 (sval w v)) else dw v)

/-- VINS: one lane, no policy applied (09 R172). -/
def execVins (d a b : Reg) (s : State) : Host.Outcome State Fault Refusal :=
  vecOn s (fun _ => true) fun h =>
    let w := elemWidth h.et
    let j := (h.rx b).toNat % laneCount h.et
    h.wv d (mergeLanes w (laneCount h.et) (fun i => i == j) (fun _ => true) false false (h.rv d)
      fun _ => (h.rx a).toNat % 2 ^ w)

/-- VMOV (09 R172). -/
def execVmov (d a : Reg) (m : BitVec 3) (s : State) : Host.Outcome State Fault Refusal :=
  vecOn s (fun _ => true) fun h => h.writeLanes d m false fun i => h.laneA a i

/-- The writable bits of VT (03 R43). -/
def vtMask : Dword := 0x1FF0F

/-- VSETT: VT takes x[ra], then x[rd] the active length (09 R173). -/
def execVsett (d a : Reg) (s : State) : Host.Outcome State Fault Refusal :=
  ok (onHart s fun h =>
    let h := { h with vt := h.rx a &&& vtMask }
    (h.wx d (dw h.al)).retire)

/-- VGETT (09 R172). -/
def execVgett (d : Reg) (s : State) : Host.Outcome State Fault Refusal :=
  ok (onHart s fun h => (h.wx d h.vt).retire)

/-- VID (09 R172). -/
def execVid (d : Reg) (m : BitVec 3) (s : State) : Host.Outcome State Fault Refusal :=
  vecOn s classI fun h => h.writeLanes d m false fun i => i

/-- VMTOX (09 R172). -/
def execVmtox (d : Reg) (a : BitVec 3) (s : State) : Host.Outcome State Fault Refusal :=
  ok (onHart s fun h => (h.wx d (h.rm a)).retire)

/-- VXTOM (09 R172). -/
def execVxtom (d : BitVec 3) (a : Reg) (s : State) : Host.Outcome State Fault Refusal :=
  ok (onHart s fun h => (h.wm d (h.rx a)).retire)

/-! ### Conversions -/

/-- The factor between two widths (09 R174). -/
def partCount (ws wd : Nat) : Nat := if ws ≤ wd then wd / ws else ws / wd

/-- A conversion's lanes (09 R174): `f` gives the converted value of a source lane. Widening takes source
lanes from part p; narrowing writes destination lanes of part p and leaves the others unchanged. A lane
of the part follows 09 R146 by the activity of its source lane. -/
def convertLanes (h : Hart) (d a : Reg) (m : BitVec 3) (t p : Nat) (f : Nat → Nat × Flags) :
    VReg × Flags :=
  let ws := elemWidth h.et
  let wd := elemWidth t
  let ls := laneCount h.et
  let ld := laneCount t
  let src := fun i => if ws ≤ wd then p * ld + i else i - p * ls
  let inPart := fun i => decide (ws ≤ wd) || (decide (p * ls ≤ i) && decide (i < p * ls + ls))
  let act := fun i => inPart i && h.active m (src i)
  let old := fun i => lane (h.rv d) wd i
  (BitVec.ofNat 512 (packLanes wd ((List.range ld).map fun i =>
      if act i then (f (h.laneA a (src i))).1
      else if !inPart i then old i
      else if src i < h.al then (if h.mp then 0 else old i)
      else if h.tp then 0 else old i)),
    laneFlags ld act fun i => (f (h.laneA a (src i))).2)

/-- A conversion instruction's result with its flags. -/
def convOn (s : State) (legal : Bool) (d a : Reg) (m : BitVec 3) (t p : Nat)
    (f : Nat → Nat × Flags) : Host.Outcome State Fault Refusal :=
  if legal then
    let (v, fl) := convertLanes s.hart d a m t p f
    ok (raiseFlags { s with hart := (s.hart.wv d v).retire } fl)
  else ok (illegal s)

/-- The value of an element of a code 0 to 13 converted to another (09 R175). The saturating form is
that of float to float; an integer follows 05 R92, so R86, which for f8e4, a type with no infinity, sends
back to the two forms of R91 (notes/assumptions/44.md). -/
def convertElem (mode : RMode) (sat : Bool) (et t v : Nat) : Nat × Flags :=
  let w := elemWidth t
  if et < 8 then
    let x := if elemSigned et then sval (elemWidth et) v else (v : Int)
    if t < 8 then (wrapInt w (satInt (elemSigned t) w x), 0)
    else if sat && t == 12 then
      let r := fToFSat (Fmt.ofElem t) mode (.fin (x < 0) x.natAbs 0); (r.1, r.2.1)
    else fToF (Fmt.ofElem t) mode (.fin (x < 0) x.natAbs 0)
  else
    let x := (Fmt.ofElem et).val v
    if t < 8 then let r := fToInt x mode (elemSigned t) w; (wrapInt w r.1, r.2)
    else if sat && 12 ≤ t then let r := fToFSat (Fmt.ofElem t) mode x; (r.1, r.2.1)
    else fToF (Fmt.ofElem t) mode x

/-- Whether VCVT accepts its types and part (09 R175). -/
def cvtLegal (et t p : Nat) : Bool :=
  et < 14 && t < 14 && et != t && decide (p < partCount (elemWidth et) (elemWidth t))

/-- VCVT (09 R175). -/
def execVcvt (d a : Reg) (p : BitVec 5) (m : BitVec 3) (t : BitVec 4) (s : State) :
    Host.Outcome State Fault Refusal :=
  convOn s (cvtLegal s.hart.et t.toNat p.toNat) d a m t.toNat p.toNat
    (convertElem s.hart.frmode false s.hart.et t.toNat)

/-- VCVTS: the saturating form into f8 types (09 R175). -/
def execVcvts (d a : Reg) (p : BitVec 5) (m : BitVec 3) (t : BitVec 4) (s : State) :
    Host.Outcome State Fault Refusal :=
  convOn s (cvtLegal s.hart.et t.toNat p.toNat) d a m t.toNat p.toNat
    (convertElem s.hart.frmode true s.hart.et t.toNat)

/-- The zero point of x[rb] for a code of width w (09 R176). -/
def zeroPoint (x : Dword) (w : Nat) : Nat := bits x 16 8 % 2 ^ w

/-- The part index of x[rb] (09 R176). -/
def qPart (x : Dword) (ws wd : Nat) : Nat := bits x 32 4 % partCount ws wd

/-- VQUANT (09 R176). -/
def execVquant (d a b : Reg) (m : BitVec 3) (t : BitVec 4) (s : State) :
    Host.Outcome State Fault Refusal :=
  let x := s.hart.rx b
  let w := elemWidth t.toNat
  let sc := Fmt.f16.val (bits x 0 16)
  convOn s (classF s.hart.et && decide (14 ≤ t.toNat)) d a m t.toNat
    (qPart x (elemWidth s.hart.et) w)
    fun v => let r := qEncode (s.hart.fmt.val v) sc (zeroPoint x w) w; (r.1, r.2.1)

/-- VDEQ (09 R176): the exact product rounded once by FRM. -/
def execVdeq (d a b : Reg) (m : BitVec 3) (t : BitVec 4) (s : State) :
    Host.Outcome State Fault Refusal :=
  let x := s.hart.rx b
  let ty := Fmt.ofElem t.toNat
  let sc := Fmt.f16.val (bits x 0 16)
  convOn s (decide (14 ≤ s.hart.et) && classF t.toNat) d a m t.toNat
    (qPart x (elemWidth s.hart.et) (elemWidth t.toNat))
    fun v =>
      match qDecode v sc (zeroPoint x (elemWidth s.hart.et)) with
      | (_, true) => (ty.nan, flagNV)
      | (y, _) => fToF ty s.hart.frmode y

/-- Whether VPACK accepts its types (09 R177). q8, which is saturated as n8, counts among the integer codes of 8 bits
(DEDUCED: notes/assumptions/95.md). -/
def packLegal (et t : Nat) : Bool :=
  ((1 ≤ et && et ≤ 3 || 5 ≤ et && et ≤ 7) && (decide (t < 8) || t == 14) && elemWidth t * 2 == elemWidth et)
    || ((et == 0 || et == 4 || et == 14) && t == 15)

/-- Saturation of VPACK: q8 as n8, q4 as 0 to 15 (09 R177). -/
def packElem (et t v : Nat) : Nat :=
  let x := if elemSigned et then sval (elemWidth et) v else (v : Int)
  wrapInt (elemWidth t) (satInt (elemSigned t) (elemWidth t) x)

/-- VPACK (09 R177). -/
def execVpack (d a b : Reg) (m : BitVec 3) (t : BitVec 4) (s : State) :
    Host.Outcome State Fault Refusal :=
  vecOn s (fun et => packLegal et t.toNat) fun h =>
    let ls := laneCount h.et
    let src := fun i => if i < ls then i else i - ls
    h.wv d (mergeLanes (elemWidth t.toNat) (2 * ls) (fun i => h.active m (src i))
      (fun i => decide (src i < h.al)) h.mp h.tp (h.rv d) fun i =>
        packElem h.et t.toNat (if i < ls then h.laneA a i else h.laneA b (i - ls)))

/-- Whether VUNPK accepts its types (09 R178). -/
def unpackLegal (et t p : Nat) : Bool :=
  decide (p < 2) &&
    (((et ≤ 2 || 4 ≤ et && et ≤ 6) && decide (t < 8) && elemWidth t == 2 * elemWidth et)
      || (et == 15 && (t == 4 || t == 14)) || (et == 14 && t == 5))

/-- VUNPK (09 R178). -/
def execVunpk (d a : Reg) (p : BitVec 5) (m : BitVec 3) (t : BitVec 4) (s : State) :
    Host.Outcome State Fault Refusal :=
  convOn s (unpackLegal s.hart.et t.toNat p.toNat) d a m t.toNat p.toNat fun v =>
    (if elemSigned s.hart.et then wrapInt (elemWidth t.toNat) (sval (elemWidth s.hart.et) v) else v, 0)

/-! ### The counter-based generator -/

/-- Word i of lane k of a register seen as 128-bit lanes (09 R179). -/
def word128 (v : VReg) (k i : Nat) : BitVec 32 := BitVec.ofNat 32 (lane v 32 (4 * k + i))

/-- One round of VRMIX (09 R180). -/
def mixRound (k : Nat → BitVec 32) (i : Nat)
    (w : BitVec 32 × BitVec 32 × BitVec 32 × BitVec 32) :
    BitVec 32 × BitVec 32 × BitVec 32 × BitVec 32 :=
  let (w0, w1, w2, w3) := w
  let w0 := w0 + w1 + k (i % 4)
  let w3 := (w3 ^^^ w0).rotateLeft 16
  let w2 := w2 + w3
  let w1 := (w1 ^^^ w2).rotateLeft 12
  let w0 := w0 + w1 + 0x9E3779B9 * BitVec.ofNat 32 (i + 1)
  let w3 := (w3 ^^^ w0).rotateLeft 8
  let w2 := w2 + w3 + k ((i + 1) % 4)
  let w1 := (w1 ^^^ w2).rotateLeft 7
  (w0, w1, w2, w3)

/-- One 128-bit lane of VRMIX (09 R180). -/
def mixLane (c k : Nat → BitVec 32) : List Nat :=
  let (w0, w1, w2, w3) := (List.range 10).foldl (fun w i => mixRound k i w) (c 0, c 1, c 2, c 3)
  [(w0 ^^^ c 0).toNat, (w1 ^^^ c 1).toNat, (w2 ^^^ c 2).toNat, (w3 ^^^ c 3).toNat]

/-- VRMIX (09 R180). -/
def execVrmix (d a b : Reg) (s : State) : Host.Outcome State Fault Refusal :=
  ok (onHart s fun h =>
    (h.wv d (BitVec.ofNat 512 (packLanes 32 ((List.range 4).flatMap fun k =>
      mixLane (word128 (h.rv a) k) (word128 (h.rv b) k))))).retire)

/-- VADDQ (09 R179). -/
def execVaddq (d a b : Reg) (s : State) : Host.Outcome State Fault Refusal :=
  ok (onHart s fun h =>
    (h.wv d (BitVec.ofNat 512 (packLanes 128 ((List.range 4).map fun k =>
      lane (h.rv a) 128 k + lane (h.rv b) 128 k)))).retire)

/-- VEQQ (09 R179). -/
def execVeqq (d : BitVec 3) (a b : Reg) (s : State) : Host.Outcome State Fault Refusal :=
  ok (onHart s fun h =>
    (h.wm d (dw (packLanes 1 ((List.range 4).map fun k =>
      (lane (h.rv a) 128 k == lane (h.rv b) 128 k).toNat)))).retire)

end Sys2Proof.Machine
end

