-- ==== Sys2Proof/Machine/Dispatch.lean ====
section
/-!
DEFINITION. The dispatcher: one arm per constructor of `Instr`, each one direct call of its meaning.
-/

namespace Sys2Proof.Machine

/-- What an instruction or step does to the machine. -/
def exec (i : Instr) (s : State) : Host.Outcome State Fault Refusal :=
  match i with
  | .add d a b => Sys2Proof.Machine.execAdd d a b s
  | .sub d a b => Sys2Proof.Machine.execSub d a b s
  | .and d a b => Sys2Proof.Machine.execAnd d a b s
  | .or d a b => Sys2Proof.Machine.execOr d a b s
  | .xor d a b => Sys2Proof.Machine.execXor d a b s
  | .andn d a b => Sys2Proof.Machine.execAndn d a b s
  | .orn d a b => Sys2Proof.Machine.execOrn d a b s
  | .sll d a b => Sys2Proof.Machine.execSll d a b s
  | .srl d a b => Sys2Proof.Machine.execSrl d a b s
  | .sra d a b => Sys2Proof.Machine.execSra d a b s
  | .ror d a b => Sys2Proof.Machine.execRor d a b s
  | .slt d a b => Sys2Proof.Machine.execSlt d a b s
  | .sltn d a b => Sys2Proof.Machine.execSltn d a b s
  | .seq d a b => Sys2Proof.Machine.execSeq d a b s
  | .min d a b => Sys2Proof.Machine.execMin d a b s
  | .max d a b => Sys2Proof.Machine.execMax d a b s
  | .minn d a b => Sys2Proof.Machine.execMinn d a b s
  | .maxn d a b => Sys2Proof.Machine.execMaxn d a b s
  | .addw d a b => Sys2Proof.Machine.execAddw d a b s
  | .subw d a b => Sys2Proof.Machine.execSubw d a b s
  | .sllw d a b => Sys2Proof.Machine.execSllw d a b s
  | .srlw d a b => Sys2Proof.Machine.execSrlw d a b s
  | .sraw d a b => Sys2Proof.Machine.execSraw d a b s
  | .clz d a => Sys2Proof.Machine.execClz d a s
  | .ctz d a => Sys2Proof.Machine.execCtz d a s
  | .popc d a => Sys2Proof.Machine.execPopc d a s
  | .brev d a => Sys2Proof.Machine.execBrev d a s
  | .bswap d a => Sys2Proof.Machine.execBswap d a s
  | .sext d a w => Sys2Proof.Machine.execSext d a w s
  | .zext d a w => Sys2Proof.Machine.execZext d a w s
  | .mul d a b => Sys2Proof.Machine.execMul d a b s
  | .mulh d a b => Sys2Proof.Machine.execMulh d a b s
  | .mulhn d a b => Sys2Proof.Machine.execMulhn d a b s
  | .mulw d a b => Sys2Proof.Machine.execMulw d a b s
  | .div d a b l => Sys2Proof.Machine.execDiv d a b l s
  | .divn d a b l => Sys2Proof.Machine.execDivn d a b l s
  | .rem d a b l => Sys2Proof.Machine.execRem d a b l s
  | .remn d a b l => Sys2Proof.Machine.execRemn d a b l s
  | .addi d a imm => Sys2Proof.Machine.execAddi d a imm s
  | .slti d a imm => Sys2Proof.Machine.execSlti d a imm s
  | .andi d a imm => Sys2Proof.Machine.execAndi d a imm s
  | .ori d a imm => Sys2Proof.Machine.execOri d a imm s
  | .xori d a imm => Sys2Proof.Machine.execXori d a imm s
  | .slli d a n => Sys2Proof.Machine.execSlli d a n s
  | .srli d a n => Sys2Proof.Machine.execSrli d a n s
  | .srai d a n => Sys2Proof.Machine.execSrai d a n s
  | .rori d a n => Sys2Proof.Machine.execRori d a n s
  | .seth d h imm => Sys2Proof.Machine.execSeth d h imm s
  | .insh d h imm => Sys2Proof.Machine.execInsh d h imm s
  | .fadd d a b t r => Sys2Proof.Machine.execFadd d a b t r s
  | .fsub d a b t r => Sys2Proof.Machine.execFsub d a b t r s
  | .fmul d a b t r => Sys2Proof.Machine.execFmul d a b t r s
  | .fmin d a b t => Sys2Proof.Machine.execFmin d a b t s
  | .fmax d a b t => Sys2Proof.Machine.execFmax d a b t s
  | .fmini d a b t => Sys2Proof.Machine.execFmini d a b t s
  | .fmaxi d a b t => Sys2Proof.Machine.execFmaxi d a b t s
  | .fsgc d a b t => Sys2Proof.Machine.execFsgc d a b t s
  | .fsgi d a b t => Sys2Proof.Machine.execFsgi d a b t s
  | .fsgx d a b t => Sys2Proof.Machine.execFsgx d a b t s
  | .feq d a b t => Sys2Proof.Machine.execFeq d a b t s
  | .flt d a b t => Sys2Proof.Machine.execFlt d a b t s
  | .fle d a b t => Sys2Proof.Machine.execFle d a b t s
  | .fclass d a t => Sys2Proof.Machine.execFclass d a t s
  | .fcvti d a c t r => Sys2Proof.Machine.execFcvti d a c t r s
  | .fcvtn d a c t r => Sys2Proof.Machine.execFcvtn d a c t r s
  | .icvtf d a c t r => Sys2Proof.Machine.execIcvtf d a c t r s
  | .ncvtf d a c t r => Sys2Proof.Machine.execNcvtf d a c t r s
  | .fcvtf d a c t r => Sys2Proof.Machine.execFcvtf d a c t r s
  | .fdiv d a b t r l => Sys2Proof.Machine.execFdiv d a b t r l s
  | .fsqrt d a t r l => Sys2Proof.Machine.execFsqrt d a t r l s
  | .fmadd d a b c t => Sys2Proof.Machine.execFmadd d a b c t s
  | .fmsub d a b c t => Sys2Proof.Machine.execFmsub d a b c t s
  | .fnmadd d a b c t => Sys2Proof.Machine.execFnmadd d a b c t s
  | .fnmsub d a b c t => Sys2Proof.Machine.execFnmsub d a b c t s
  | .lds d a o f l => Sys2Proof.Machine.execLds d a o f l s
  | .ldz d a o f l => Sys2Proof.Machine.execLdz d a o f l s
  | .st d a o f => Sys2Proof.Machine.execSt d a o f s
  | .ldsx d a b f l => Sys2Proof.Machine.execLdsx d a b f l s
  | .ldzx d a b f l => Sys2Proof.Machine.execLdzx d a b f l s
  | .stx d a b f => Sys2Proof.Machine.execStx d a b f s
  | .vld d a m z l => Sys2Proof.Machine.execVld d a m z l s
  | .vldSt d a b m z l => Sys2Proof.Machine.execVldSt d a b m z l s
  | .vldGt d a b m z l => Sys2Proof.Machine.execVldGt d a b m z l s
  | .vldBc d a m z l => Sys2Proof.Machine.execVldBc d a m z l s
  | .vldFf d a m z l => Sys2Proof.Machine.execVldFf d a m z l s
  | .vst d a m => Sys2Proof.Machine.execVst d a m s
  | .vstSt d a b m => Sys2Proof.Machine.execVstSt d a b m s
  | .vstSc d a b m => Sys2Proof.Machine.execVstSc d a b m s
  | .amoSwap d a b w p l => Sys2Proof.Machine.execAmoSwap d a b w p l s
  | .amoAdd d a b w p l => Sys2Proof.Machine.execAmoAdd d a b w p l s
  | .amoAnd d a b w p l => Sys2Proof.Machine.execAmoAnd d a b w p l s
  | .amoOr d a b w p l => Sys2Proof.Machine.execAmoOr d a b w p l s
  | .amoXor d a b w p l => Sys2Proof.Machine.execAmoXor d a b w p l s
  | .amoMin d a b w p l => Sys2Proof.Machine.execAmoMin d a b w p l s
  | .amoMax d a b w p l => Sys2Proof.Machine.execAmoMax d a b w p l s
  | .amoMinn d a b w p l => Sys2Proof.Machine.execAmoMinn d a b w p l s
  | .amoMaxn d a b w p l => Sys2Proof.Machine.execAmoMaxn d a b w p l s
  | .amoCas d a b w p l => Sys2Proof.Machine.execAmoCas d a b w p l s
  | .amoFadd d a b w p l => Sys2Proof.Machine.execAmoFadd d a b w p l s
  | .amoLd d a w p l => Sys2Proof.Machine.execAmoLd d a w p l s
  | .amoSt a b w p l => Sys2Proof.Machine.execAmoSt a b w p l s
  | .pub d => Sys2Proof.Machine.execPub d s
  | .pubn d => Sys2Proof.Machine.execPubn d s
  | .pubwait a => Sys2Proof.Machine.execPubwait a s
  | .acq a => Sys2Proof.Machine.execAcq a s
  | .acqs f => Sys2Proof.Machine.execAcqs f s
  | .fence f => Sys2Proof.Machine.execFence f s
  | .iacq => Sys2Proof.Machine.execIacq s
  | .logstat d => Sys2Proof.Machine.execLogstat d s
  | .brcEq t a b k => Sys2Proof.Machine.execBrcEq t a b k s
  | .brcNe t a b k => Sys2Proof.Machine.execBrcNe t a b k s
  | .brcLt t a b k => Sys2Proof.Machine.execBrcLt t a b k s
  | .brcGe t a b k => Sys2Proof.Machine.execBrcGe t a b k s
  | .brcLtn t a b k => Sys2Proof.Machine.execBrcLtn t a b k s
  | .brcGen t a b k => Sys2Proof.Machine.execBrcGen t a b k s
  | .brcAlw t k => Sys2Proof.Machine.execBrcAlw t k s
  | .brcBset t a b k => Sys2Proof.Machine.execBrcBset t a b k s
  | .pbr t d => Sys2Proof.Machine.execPbr t d s
  | .pbrr a t => Sys2Proof.Machine.execPbrr a t s
  | .call d t => Sys2Proof.Machine.execCall d t s
  | .ret a => Sys2Proof.Machine.execRet a s
  | .jmpb t => Sys2Proof.Machine.execJmpb t s
  | .bget d t => Sys2Proof.Machine.execBget d t s
  | .j d => Sys2Proof.Machine.execJ d s
  | .repf n imm d a b c => Sys2Proof.Machine.execRepf n imm d a b c s
  | .vadd d a b m v z => Sys2Proof.Machine.execVadd d a b m v z s
  | .vsub d a b m v z => Sys2Proof.Machine.execVsub d a b m v z s
  | .vmul d a b m v z => Sys2Proof.Machine.execVmul d a b m v z s
  | .vmulh d a b m v z => Sys2Proof.Machine.execVmulh d a b m v z s
  | .vmulhn d a b m v z => Sys2Proof.Machine.execVmulhn d a b m v z s
  | .vand d a b m v z => Sys2Proof.Machine.execVand d a b m v z s
  | .vor d a b m v z => Sys2Proof.Machine.execVor d a b m v z s
  | .vxor d a b m v z => Sys2Proof.Machine.execVxor d a b m v z s
  | .vandn d a b m v z => Sys2Proof.Machine.execVandn d a b m v z s
  | .vsll d a b m v z => Sys2Proof.Machine.execVsll d a b m v z s
  | .vsrl d a b m v z => Sys2Proof.Machine.execVsrl d a b m v z s
  | .vsra d a b m v z => Sys2Proof.Machine.execVsra d a b m v z s
  | .vmin d a b m v z => Sys2Proof.Machine.execVmin d a b m v z s
  | .vmax d a b m v z => Sys2Proof.Machine.execVmax d a b m v z s
  | .vminn d a b m v z => Sys2Proof.Machine.execVminn d a b m v z s
  | .vmaxn d a b m v z => Sys2Proof.Machine.execVmaxn d a b m v z s
  | .vsadd d a b m v z => Sys2Proof.Machine.execVsadd d a b m v z s
  | .vssub d a b m v z => Sys2Proof.Machine.execVssub d a b m v z s
  | .vsaddn d a b m v z => Sys2Proof.Machine.execVsaddn d a b m v z s
  | .vssubn d a b m v z => Sys2Proof.Machine.execVssubn d a b m v z s
  | .vabsd d a b m v z => Sys2Proof.Machine.execVabsd d a b m v z s
  | .vseq d a b m v z => Sys2Proof.Machine.execVseq d a b m v z s
  | .vsne d a b m v z => Sys2Proof.Machine.execVsne d a b m v z s
  | .vslt d a b m v z => Sys2Proof.Machine.execVslt d a b m v z s
  | .vsltn d a b m v z => Sys2Proof.Machine.execVsltn d a b m v z s
  | .vmerge d a b m v => Sys2Proof.Machine.execVmerge d a b m v s
  | .vpopc d a m z => Sys2Proof.Machine.execVpopc d a m z s
  | .vclz d a m z => Sys2Proof.Machine.execVclz d a m z s
  | .vfadd d a b m v z => Sys2Proof.Machine.execVfadd d a b m v z s
  | .vfsub d a b m v z => Sys2Proof.Machine.execVfsub d a b m v z s
  | .vfmul d a b m v z => Sys2Proof.Machine.execVfmul d a b m v z s
  | .vfmin d a b m v z => Sys2Proof.Machine.execVfmin d a b m v z s
  | .vfmax d a b m v z => Sys2Proof.Machine.execVfmax d a b m v z s
  | .vfmini d a b m v z => Sys2Proof.Machine.execVfmini d a b m v z s
  | .vfmaxi d a b m v z => Sys2Proof.Machine.execVfmaxi d a b m v z s
  | .vfsgc d a b m v z => Sys2Proof.Machine.execVfsgc d a b m v z s
  | .vfsgi d a b m v z => Sys2Proof.Machine.execVfsgi d a b m v z s
  | .vfsgx d a b m v z => Sys2Proof.Machine.execVfsgx d a b m v z s
  | .vfeq d a b m v z => Sys2Proof.Machine.execVfeq d a b m v z s
  | .vflt d a b m v z => Sys2Proof.Machine.execVflt d a b m v z s
  | .vfle d a b m v z => Sys2Proof.Machine.execVfle d a b m v z s
  | .vfclass d a m z => Sys2Proof.Machine.execVfclass d a m z s
  | .vfmadd d a b c m => Sys2Proof.Machine.execVfmadd d a b c m s
  | .vfmsub d a b c m => Sys2Proof.Machine.execVfmsub d a b c m s
  | .vfnmadd d a b c m => Sys2Proof.Machine.execVfnmadd d a b c m s
  | .vfnmsub d a b c m => Sys2Proof.Machine.execVfnmsub d a b c m s
  | .vfdot2 d a b c m => Sys2Proof.Machine.execVfdot2 d a b c m s
  | .vidot4 d a b c m => Sys2Proof.Machine.execVidot4 d a b c m s
  | .vfdiv d a b m z l => Sys2Proof.Machine.execVfdiv d a b m z l s
  | .vfsqrt d a m z l => Sys2Proof.Machine.execVfsqrt d a m z l s
  | .vdiv d a b m z l => Sys2Proof.Machine.execVdiv d a b m z l s
  | .vdivn d a b m z l => Sys2Proof.Machine.execVdivn d a b m z l s
  | .vrem d a b m z l => Sys2Proof.Machine.execVrem d a b m z l s
  | .vremn d a b m z l => Sys2Proof.Machine.execVremn d a b m z l s
  | .vredsum d a b m v => Sys2Proof.Machine.execVredsum d a b m v s
  | .vredmin d a b m v => Sys2Proof.Machine.execVredmin d a b m v s
  | .vredmax d a b m v => Sys2Proof.Machine.execVredmax d a b m v s
  | .vfredsum d a b m v => Sys2Proof.Machine.execVfredsum d a b m v s
  | .vfredseq d a b m v => Sys2Proof.Machine.execVfredseq d a b m v s
  | .vfredmin d a b m v => Sys2Proof.Machine.execVfredmin d a b m v s
  | .vfredmax d a b m v => Sys2Proof.Machine.execVfredmax d a b m v s
  | .vslideup d a k m v => Sys2Proof.Machine.execVslideup d a k m v s
  | .vslidedn d a k m v => Sys2Proof.Machine.execVslidedn d a k m v s
  | .vperm d a b m => Sys2Proof.Machine.execVperm d a b m s
  | .vsqz d a m => Sys2Proof.Machine.execVsqz d a m s
  | .vsprd d a m => Sys2Proof.Machine.execVsprd d a m s
  | .vzip d a b m => Sys2Proof.Machine.execVzip d a b m s
  | .vunzip d a b m => Sys2Proof.Machine.execVunzip d a b m s
  | .vrank d m => Sys2Proof.Machine.execVrank d m s
  | .vmand d a b => Sys2Proof.Machine.execVmand d a b s
  | .vmor d a b => Sys2Proof.Machine.execVmor d a b s
  | .vmxor d a b => Sys2Proof.Machine.execVmxor d a b s
  | .vmnot d a => Sys2Proof.Machine.execVmnot d a s
  | .vmpopc d a => Sys2Proof.Machine.execVmpopc d a s
  | .vmfirst d a => Sys2Proof.Machine.execVmfirst d a s
  | .vsplat d a m => Sys2Proof.Machine.execVsplat d a m s
  | .vext d a b => Sys2Proof.Machine.execVext d a b s
  | .vins d a b => Sys2Proof.Machine.execVins d a b s
  | .vmov d a m => Sys2Proof.Machine.execVmov d a m s
  | .vsett d a => Sys2Proof.Machine.execVsett d a s
  | .vgett d => Sys2Proof.Machine.execVgett d s
  | .vid d m => Sys2Proof.Machine.execVid d m s
  | .vmtox d a => Sys2Proof.Machine.execVmtox d a s
  | .vxtom d a => Sys2Proof.Machine.execVxtom d a s
  | .vcvt d a p m t => Sys2Proof.Machine.execVcvt d a p m t s
  | .vcvts d a p m t => Sys2Proof.Machine.execVcvts d a p m t s
  | .vquant d a b m t => Sys2Proof.Machine.execVquant d a b m t s
  | .vdeq d a b m t => Sys2Proof.Machine.execVdeq d a b m t s
  | .vpack d a b m t => Sys2Proof.Machine.execVpack d a b m t s
  | .vunpk d a p m t => Sys2Proof.Machine.execVunpk d a p m t s
  | .vrmix d a b => Sys2Proof.Machine.execVrmix d a b s
  | .vaddq d a b => Sys2Proof.Machine.execVaddq d a b s
  | .veqq d a b => Sys2Proof.Machine.execVeqq d a b s
  | .qbind q a => Sys2Proof.Machine.execQbind q a s
  | .qunbind q => Sys2Proof.Machine.execQunbind q s
  | .qpush q a => Sys2Proof.Machine.execQpush q a s
  | .qpop q d l => Sys2Proof.Machine.execQpop q d l s
  | .qpushv q a => Sys2Proof.Machine.execQpushv q a s
  | .qpopv q d l => Sys2Proof.Machine.execQpopv q d l s
  | .qpopt q d b => Sys2Proof.Machine.execQpopt q d b s
  | .qstat q d => Sys2Proof.Machine.execQstat q d s
  | .mlease l => Sys2Proof.Machine.execMlease l s
  | .mrels => Sys2Proof.Machine.execMrels s
  | .mma z a b => Sys2Proof.Machine.execMma z a b s
  | .mzero z => Sys2Proof.Machine.execMzero z s
  | .mdrain l => Sys2Proof.Machine.execMdrain l s
  | .mprog d => Sys2Proof.Machine.execMprog d s
  | .mresume => Sys2Proof.Machine.execMresume s
  | .mscale a => Sys2Proof.Machine.execMscale a s
  | .mstat d => Sys2Proof.Machine.execMstat d s
  | .zbind z a => Sys2Proof.Machine.execZbind z a s
  | .zunbind z => Sys2Proof.Machine.execZunbind z s
  | .zget d z b => Sys2Proof.Machine.execZget d z b s
  | .zlbl d z => Sys2Proof.Machine.execZlbl d z s
  | .copy d a c => Sys2Proof.Machine.execCopy d a c s
  | .copym d a c => Sys2Proof.Machine.execCopym d a c s
  | .copyrd d a c => Sys2Proof.Machine.execCopyrd d a c s
  | .bfree a => Sys2Proof.Machine.execBfree a s
  | .cpwait a c f => Sys2Proof.Machine.execCpwait a c f s
  | .cpmark d c => Sys2Proof.Machine.execCpmark d c s
  | .cpui a c => Sys2Proof.Machine.execCpui a c s
  | .cpstat d c => Sys2Proof.Machine.execCpstat d c s
  | .tspawn a => Sys2Proof.Machine.execTspawn a s
  | .commit => Sys2Proof.Machine.execCommit s
  | .tabort k => Sys2Proof.Machine.execTabort k s
  | .depset d a b => Sys2Proof.Machine.execDepset d a b s
  | .depdec a => Sys2Proof.Machine.execDepdec a s
  | .depget d a l => Sys2Proof.Machine.execDepget d a l s
  | .tself d => Sys2Proof.Machine.execTself d s
  | .twork a => Sys2Proof.Machine.execTwork a s
  | .tpin d a l => Sys2Proof.Machine.execTpin d a l s
  | .lblget d a k => Sys2Proof.Machine.execLblget d a k s
  | .lblpage d a => Sys2Proof.Machine.execLblpage d a s
  | .lblsub d a b => Sys2Proof.Machine.execLblsub d a b s
  | .srd d f => Sys2Proof.Machine.execSrd d f s
  | .swr d a f => Sys2Proof.Machine.execSwr d a f s
  | .sset d a f => Sys2Proof.Machine.execSset d a f s
  | .sclr d a f => Sys2Proof.Machine.execSclr d a f s
  | .scall c => Sys2Proof.Machine.execScall c s
  | .mcall c => Sys2Proof.Machine.execMcall c s
  | .rets => Sys2Proof.Machine.execRets s
  | .retm => Sys2Proof.Machine.execRetm s
  | .retu => Sys2Proof.Machine.execRetu s
  | .idle => Sys2Proof.Machine.execIdle s
  | .halt => Sys2Proof.Machine.execHalt s
  | .brk c => Sys2Proof.Machine.execBrk c s
  | .trapi a c => Sys2Proof.Machine.execTrapi a c s
  | .xlinvS1 a => Sys2Proof.Machine.execXlinvS1 a s
  | .xlinvS2 a => Sys2Proof.Machine.execXlinvS2 a s
  | .nop => Sys2Proof.Machine.execNop s
  | .align w => Sys2Proof.Machine.execAlign w s
  | .pref a k => Sys2Proof.Machine.execPref a k s
  | .spin => Sys2Proof.Machine.execSpin s
  | .frmWrite op d a => Sys2Proof.Machine.execFrmWrite op d a s
  | .fflagsAccess op d a => Sys2Proof.Machine.execFflagsAccess op d a s
  | .logbaseWrite size op d a => Sys2Proof.Machine.execLogbaseWrite size op d a s
  | .spillbaseWrite size op d a => Sys2Proof.Machine.execSpillbaseWrite size op d a s
  | .hlaWrite op d a => Sys2Proof.Machine.execHlaWrite op d a s
  | .winWrite n op d a => Sys2Proof.Machine.execWinWrite n op d a s
  | .blblWrite n op d a => Sys2Proof.Machine.execBlblWrite n op d a s
  | .bfmtWrite n op d a => Sys2Proof.Machine.execBfmtWrite n op d a s
  | .gfflagsClear op d a => Sys2Proof.Machine.execGfflagsClear op d a s
  | .hnoteRead d => Sys2Proof.Machine.execHnoteRead d s
  | .serrcpWrite d a => Sys2Proof.Machine.execSerrcpWrite d a s
  | .sipndSoftWrite op d a => Sys2Proof.Machine.execSipndSoftWrite op d a s
  | .fstatWrite fn v => Sys2Proof.Machine.execFstatWrite fn v s
  | .notify fn q v => Sys2Proof.Machine.execNotify fn q v s
  | .recctlGo v => Sys2Proof.Machine.execRecctlGo v s
  | .recoveryImageFetched ok => Sys2Proof.Machine.execRecoveryImageFetched ok s
  | .hostRegisterWrite fn off v => Sys2Proof.Machine.execHostRegisterWrite fn off v s
  | .tdispTransition vf new => Sys2Proof.Machine.execTdispTransition vf new s
  | .getVersion msg => Sys2Proof.Machine.execGetVersion msg s
  | .getCapabilities msg => Sys2Proof.Machine.execGetCapabilities msg s
  | .negotiateAlgorithms msg => Sys2Proof.Machine.execNegotiateAlgorithms msg s
  | .getDigests msg => Sys2Proof.Machine.execGetDigests msg s
  | .getCertificate msg => Sys2Proof.Machine.execGetCertificate msg s
  | .challenge msg => Sys2Proof.Machine.execChallenge msg s
  | .getMeasurements msg => Sys2Proof.Machine.execGetMeasurements msg s
  | .keyExchange msg => Sys2Proof.Machine.execKeyExchange msg s
  | .finish msg => Sys2Proof.Machine.execFinish msg s
  | .endSession msg => Sys2Proof.Machine.execEndSession msg s
  | .identify cmd => Sys2Proof.Machine.execIdentify cmd s
  | .resync cmd => Sys2Proof.Machine.execResync cmd s
  | .signal cmd => Sys2Proof.Machine.execSignal cmd s
  | .note cmd => Sys2Proof.Machine.execNote cmd s
  | .partGrant cmd => Sys2Proof.Machine.execPartGrant cmd s
  | .partReturn cmd => Sys2Proof.Machine.execPartReturn cmd s
  | .partConfig cmd => Sys2Proof.Machine.execPartConfig cmd s
  | .labelIntern cmd => Sys2Proof.Machine.execLabelIntern cmd s
  | .rtLoad cmd => Sys2Proof.Machine.execRtLoad cmd s
  | .s2Root cmd => Sys2Proof.Machine.execS2Root cmd s
  | .launch cmd => Sys2Proof.Machine.execLaunch cmd s
  | .hartLaunchDispatch launch at_ => Sys2Proof.Machine.execHartLaunchDispatch launch at_ s
  | .preempt cmd => Sys2Proof.Machine.execPreempt cmd s
  | .preemptDeadline launch => Sys2Proof.Machine.execPreemptDeadline launch s
  | .resume cmd => Sys2Proof.Machine.execResume cmd s
  | .endLaunch cmd => Sys2Proof.Machine.execEndLaunch cmd s
  | .policyAdd cmd => Sys2Proof.Machine.execPolicyAdd cmd s
  | .policyDel cmd => Sys2Proof.Machine.execPolicyDel cmd s
  | .budgetSet cmd => Sys2Proof.Machine.execBudgetSet cmd s
  | .scrubSet cmd => Sys2Proof.Machine.execScrubSet cmd s
  | .counters cmd => Sys2Proof.Machine.execCounters cmd s
  | .vfCreate cmd => Sys2Proof.Machine.execVfCreate cmd s
  | .vfDestroy cmd => Sys2Proof.Machine.execVfDestroy cmd s
  | .vfConfig cmd => Sys2Proof.Machine.execVfConfig cmd s
  | .fwStage cmd => Sys2Proof.Machine.execFwStage cmd s
  | .fwCommit cmd => Sys2Proof.Machine.execFwCommit cmd s
  | .errlogRead cmd => Sys2Proof.Machine.execErrlogRead cmd s
  | .unknownCommand cmd => Sys2Proof.Machine.execUnknownCommand cmd s
  | .functionLevelReset vf => Sys2Proof.Machine.execFunctionLevelReset vf s
  | .packageReset => Sys2Proof.Machine.execPackageReset s
  | .boot src => Sys2Proof.Machine.execBoot src s
  | .domainAdmission peers => Sys2Proof.Machine.execDomainAdmission peers s
  | .hostModuleTraining trained => Sys2Proof.Machine.execHostModuleTraining trained s
  | .linkFailure port => Sys2Proof.Machine.execLinkFailure port s
  | .flitResend port => Sys2Proof.Machine.execFlitResend port s
  | .routeTimeout pkg => Sys2Proof.Machine.execRouteTimeout pkg s
  | .thermalTrip => Sys2Proof.Machine.execThermalTrip s
  | .thermalRecovery => Sys2Proof.Machine.execThermalRecovery s
  | .issueQuantum core => Sys2Proof.Machine.execIssueQuantum core s
  | .groveFetch hart addr => Sys2Proof.Machine.execGroveFetch hart addr s
  | .alignTimeout hart => Sys2Proof.Machine.execAlignTimeout hart s
  | .classLWriteback hart => Sys2Proof.Machine.execClassLWriteback hart s
  | .readRequest core addr n => Sys2Proof.Machine.execReadRequest core addr n s
  | .autoPublication core n => Sys2Proof.Machine.execAutoPublication core n s
  | .recordApply core idx => Sys2Proof.Machine.execRecordApply core idx s
  | .recordAck core idx => Sys2Proof.Machine.execRecordAck core idx s
  | .recordResend core idx => Sys2Proof.Machine.execRecordResend core idx s
  | .logErrorDetected core idx => Sys2Proof.Machine.execLogErrorDetected core idx s
  | .releaseCompletion core => Sys2Proof.Machine.execReleaseCompletion core s
  | .acquireRequest core stamp => Sys2Proof.Machine.execAcquireRequest core stamp s
  | .atomicApply req => Sys2Proof.Machine.execAtomicApply req s
  | .viewBufferExpiry core => Sys2Proof.Machine.execViewBufferExpiry core s
  | .acquiredEntryExpiry core => Sys2Proof.Machine.execAcquiredEntryExpiry core s
  | .releaseTagExpiry => Sys2Proof.Machine.execReleaseTagExpiry s
  | .egressCheck core idx => Sys2Proof.Machine.execEgressCheck core idx s
  | .hostWriteReject part addr => Sys2Proof.Machine.execHostWriteReject part addr s
  | .replicaCollapse part ia => Sys2Proof.Machine.execReplicaCollapse part ia s
  | .shadowCopy launch page => Sys2Proof.Machine.execShadowCopy launch page s
  | .stage2Service part ia leaf => Sys2Proof.Machine.execStage2Service part ia leaf s
  | .xlinvCompletion hart => Sys2Proof.Machine.execXlinvCompletion hart s
  | .bankZeroCompletion core => Sys2Proof.Machine.execBankZeroCompletion core s
  | .queueMessageArrival core q => Sys2Proof.Machine.execQueueMessageArrival core q s
  | .qstall hart => Sys2Proof.Machine.execQstall hart s
  | .leaseGrant grove => Sys2Proof.Machine.execLeaseGrant grove s
  | .grantPeriodExpiry grove => Sys2Proof.Machine.execGrantPeriodExpiry grove s
  | .mmaStart grove => Sys2Proof.Machine.execMmaStart grove s
  | .mmaCompletion grove => Sys2Proof.Machine.execMmaCompletion grove s
  | .mmaSuspend grove => Sys2Proof.Machine.execMmaSuspend grove s
  | .mscaleWord grove => Sys2Proof.Machine.execMscaleWord grove s
  | .copySegment key => Sys2Proof.Machine.execCopySegment key s
  | .copyUnitApply key => Sys2Proof.Machine.execCopyUnitApply key s
  | .copyrdUnitApply key => Sys2Proof.Machine.execCopyrdUnitApply key s
  | .copyCompletion key => Sys2Proof.Machine.execCopyCompletion key s
  | .bfreeCombine core smbox => Sys2Proof.Machine.execBfreeCombine core smbox s
  | .taskRelease launch => Sys2Proof.Machine.execTaskRelease launch s
  | .taskDispatch hart at_ => Sys2Proof.Machine.execTaskDispatch hart at_ s
  | .commitRequest hart => Sys2Proof.Machine.execCommitRequest hart s
  | .commitRedecision launch tile => Sys2Proof.Machine.execCommitRedecision launch tile s
  | .commitReply hart => Sys2Proof.Machine.execCommitReply hart s
  | .taskCancel hart => Sys2Proof.Machine.execTaskCancel hart s
  | .depsetApply launch => Sys2Proof.Machine.execDepsetApply launch s
  | .counterDecrement launch => Sys2Proof.Machine.execCounterDecrement launch s
  | .canopyCheck die => Sys2Proof.Machine.execCanopyCheck die s
  | .backupStart launch reg at_ => Sys2Proof.Machine.execBackupStart launch reg at_ s
  | .contextRotation hart => Sys2Proof.Machine.execContextRotation hart s
  | .supervisorInterrupt => Sys2Proof.Machine.execSupervisorInterrupt s
  | .eventEntry => Sys2Proof.Machine.execEventEntry s
  | .userInterrupt => Sys2Proof.Machine.execUserInterrupt s
  | .idleWake hart => Sys2Proof.Machine.execIdleWake hart s
  | .budgetPeriod => Sys2Proof.Machine.execBudgetPeriod s
  | .energyTick grove microjoule => Sys2Proof.Machine.execEnergyTick grove microjoule s
  | .scrubSector level sector found => Sys2Proof.Machine.execScrubSector level sector found s
  | .checkerMismatch hart found => Sys2Proof.Machine.execCheckerMismatch hart found s
  | .unpinnableError launch level => Sys2Proof.Machine.execUnpinnableError launch level s
  | .spareSubstitution core => Sys2Proof.Machine.execSpareSubstitution core s
  | .reservedEncoding w => Sys2Proof.Machine.execReservedEncoding w s
  | .groveFlagArrival grove => Sys2Proof.Machine.execGroveFlagArrival grove s
  | .routeReturn pkg port => Sys2Proof.Machine.execRouteReturn pkg port s
  | .issueGating die on => Sys2Proof.Machine.execIssueGating die on s
  | .flrCompletion vf => Sys2Proof.Machine.execFlrCompletion vf s
  | .fwCommitCompletion => Sys2Proof.Machine.execFwCommitCompletion s
  | .substitutionCompletion core => Sys2Proof.Machine.execSubstitutionCompletion core s

end Sys2Proof.Machine
end

