-- ==== Sys2Proof/Machine/Schedule.lean ====
section
/-!
DEFINITION. The order of the model's steps (notes/assumptions/4.md, 11.md): deadlines that have come, steps of the
environment from the agenda, host commands in their order of arrival (19 R356), the instructions of the issuing
harts (01 R21 to R23), and the engines' and Understory's own work; and the boundary of a hart before
it issues (17 R315, R316, R322).
-/

namespace Sys2Proof.Machine

/-! ### Steps of the environment -/

/-- Whether a step may stand in the agenda: every step that is neither an instruction of a hart, nor taken at
the acting hart's own boundary, nor a host command, which arrives through NOTIFY. -/
def onAgenda (i : Instr) : Bool :=
  match i with
  | .fstatWrite _ _ | .notify _ _ _ | .recctlGo _ | .recoveryImageFetched _ | .hostRegisterWrite _ _ _ => true
  | .tdispTransition _ _ | .getVersion _ | .getCapabilities _ | .negotiateAlgorithms _ => true
  | .getDigests _ | .getCertificate _ | .challenge _ | .getMeasurements _ | .keyExchange _ => true
  | .finish _ | .endSession _ | .hartLaunchDispatch _ _ | .preemptDeadline _ => true
  | .functionLevelReset _ | .packageReset | .boot _ | .domainAdmission _ | .hostModuleTraining _ => true
  | .linkFailure _ | .flitResend _ | .routeTimeout _ | .thermalTrip | .thermalRecovery => true
  | .issueQuantum _ | .groveFetch _ _ | .alignTimeout _ | .classLWriteback _ | .readRequest _ _ _ => true
  | .autoPublication _ _ | .recordApply _ _ | .recordAck _ _ | .recordResend _ _ => true
  | .logErrorDetected _ _ | .releaseCompletion _ | .acquireRequest _ _ | .atomicApply _ => true
  | .viewBufferExpiry _ | .acquiredEntryExpiry _ | .releaseTagExpiry | .egressCheck _ _ => true
  | .hostWriteReject _ _ | .replicaCollapse _ _ | .shadowCopy _ _ | .stage2Service _ _ _ => true
  | .xlinvCompletion _ | .bankZeroCompletion _ | .queueMessageArrival _ _ | .qstall _ => true
  | .leaseGrant _ | .grantPeriodExpiry _ | .mmaStart _ | .mmaCompletion _ | .mmaSuspend _ => true
  | .mscaleWord _ | .copySegment _ | .copyUnitApply _ | .copyrdUnitApply _ | .copyCompletion _ => true
  | .bfreeCombine _ _ | .taskRelease _ | .taskDispatch _ _ | .commitRequest _ => true
  | .commitRedecision _ _ | .commitReply _ | .taskCancel _ | .depsetApply _ | .counterDecrement _ => true
  | .canopyCheck _ | .backupStart _ _ _ | .contextRotation _ | .idleWake _ | .budgetPeriod => true
  | .energyTick _ _ | .scrubSector _ _ _ | .checkerMismatch _ _ | .unpinnableError _ _ => true
  | .spareSubstitution _ | .groveFlagArrival _ | .routeReturn _ _ | .issueGating _ _ => true
  | .flrCompletion _ | .fwCommitCompletion | .substitutionCompletion _ => true
  | _ => false

/-- Ask Understory to serve a stage-2 entry (17 R339); none when it has been asked. -/
def asked (s : State) (handle page : Nat) : Option State :=
  if s.pk.asks.any fun a => a.1 == handle && a.2.1 == page then none
  else some { s with pk := { s.pk with asks := s.pk.asks ++ [(handle, page, false)] } }

/-- What a step leaves in place of its effect when it must wait: nothing for an unreachable package
(21 R391), and for an invalid stage-2 entry the question to Understory. -/
def waitsAway (s : State) : Away → Option State
  | .route _ => none
  | .service handle page => asked s handle page

/-- A step of the device or environment, if it goes on: not when it must wait, and not when it is not enabled,
which leaves all but the model's counter as it was. -/
def tryEvent (s : State) (i : Instr) : Option State :=
  let t := after (exec i { s with away := none }) s
  match t.away with
  | some a => waitsAway s a
  | none =>
  if { t with tick := s.tick } = s then none
  else some t

/-- The first step of a list that goes on. -/
def firstEvent (s : State) : List Instr → Option State
  | [] => none
  | i :: l =>
    match tryEvent s i with
    | some t => some t
    | none => firstEvent s l

/-! ### The device's own work -/

/-- Work at a core: records, messages, bank zeroing, BFREE counts. -/
noncomputable def coreWork (s : State) (c : Nat) : List Instr :=
  let co := getCore s c
  let log := List.range co.log.length
  log.map (fun i => Instr.recordApply c i) ++ log.map (fun i => Instr.recordAck c i) ++
    ((log.filter fun i => (co.log[i]?).any fun r => r.bad && r.resub).map fun i => Instr.recordResend c i) ++
    (if crowded co then [Instr.autoPublication c co.log.length] else []) ++
    (if co.forming.isEmpty then [] else [Instr.releaseCompletion c]) ++
    ((List.range 16).filter fun q => !(sendersAt s c q).isEmpty).map (fun q => Instr.queueMessageArrival c q) ++
    (if co.zeroing.isSome then [Instr.bankZeroCompletion c] else []) ++
    co.frees.map fun f => Instr.bfreeCombine c f.1

/-- Work at a grove: its fetch port and its matrix array. -/
noncomputable def groveWork (s : State) (g : Nat) : List Instr :=
  ((portNext s g).bind fun h => (getHart s h).asks.map fun r => Instr.groveFetch h r.addr).toList ++ [Instr.leaseGrant g, Instr.mmaStart g, Instr.mscaleWord g, Instr.mmaCompletion g, Instr.mmaSuspend g]

/-- The groves of the cores the state lists, and those it lists. -/
def knownGroves (s : State) : List Nat := ((knownCores s).map groveOf ++ s.groves.map Prod.fst).eraseDups

/-- Work of a copy command. -/
noncomputable def copyWork (c : CopyCmd) : List Instr :=
  [Instr.copyUnitApply c.key, Instr.copyrdUnitApply c.key, Instr.copyCompletion c.key, Instr.copySegment c.key]

/-- Work that waits at a hart. -/
noncomputable def hartWork (s : State) (h : Nat) : List Instr :=
  let x := getHart s h
  (if x.inv.isSome then [Instr.xlinvCompletion h] else []) ++
    (if x.pend.any fun p => p.out || !pendReady (focus s h) p then [Instr.classLWriteback h] else []) ++
    (if x.task.isSome then [Instr.commitReply h, Instr.commitRequest h, Instr.taskCancel h] else [])

/-- A placement at the top of a partition's smallest slice (11 R403; notes/assumptions/22.md). -/
def topOf (s : State) (l : Launch) : Placement := topPlacement (smallestSlice s l.part) l.logPages l.spill

/-- The harts of a launch's partition. -/
def partHarts (s : State) (handle : Nat) : List Nat :=
  (liveCores s handle).flatMap fun c => (List.range 4).map fun i => c * 4 + i

/-- Work of a launch: releases, counters, decisions, placement, backups, starts and stops. -/
noncomputable def launchWork (s : State) (l : Launch) : List Instr :=
  let at_ := topOf s l
  if l.isTask then
    [Instr.depsetApply l.key, Instr.counterDecrement l.key, Instr.taskRelease l.key] ++
      ((none :: (List.range l.tiles.length).map some).map fun t => Instr.commitRedecision l.key t) ++
      (if copiesLeft l then [] else [Instr.preemptDeadline l.key]) ++
      ((knownHarts s).filterMap fun h => (getHart s h).reserved.map fun w => Instr.backupStart w.1 w.2.1 at_) ++
      (if l.regs.any fun r => r.state == .queued then (partHarts s l.part).map fun h => Instr.taskDispatch h at_ else [])
  else if l.state = .queued then [Instr.hartLaunchDispatch l.key at_]
  else []

/-- The device's own work, in the order in which the model tries it. -/
noncomputable def ownWork (s : State) : List Instr :=
  (knownCores s).flatMap (coreWork s) ++ (knownGroves s).flatMap (groveWork s) ++
    s.pk.copies.flatMap copyWork ++ (knownHarts s).flatMap (hartWork s) ++ s.pk.launches.flatMap (launchWork s) ++
    ((s.pk.asks.filter fun a => !a.2.2).map fun a => Instr.stage2Service a.1 (dw (a.2.1 * 65536)) none) ++
    (wornCores s).map (fun c => Instr.spareSubstitution c) ++
    s.pk.substituting.map fun c => Instr.substitutionCompletion c

/-! ### Deadlines -/

/-- The deadlines of a hart, each with its step: QLIMIT (13 R232), ALIGN (07 R142), the end of a bubble (R136), the
end of a slice (17 R334). -/
noncomputable def hartDeadlines (s : State) (h : Nat) : List (Nat × Option Instr) :=
  let x := getHart s h
  let limit := bits (getCore s (h / 4)).qlimit 0 32
  (match x.sendWait, x.waitSince with
    | some _, some t => if limit = 0 then [] else [(t + limit + 1, some (Instr.qstall h))]
    | _, _ => []) ++
    (match x.fetch.bind (·.hold) with
      | some t => [(t, some (Instr.alignTimeout h))]
      | none => []) ++
    (if s.cycle < x.redirect then [(x.redirect, none)] else []) ++
    (if (rotating s h).isSome then [(sliceEnd s h, some (Instr.contextRotation h))] else []) ++
    (if x.run = .idle ∧ x.sien.getLsbD 1 then [(x.stimecmp.toNat, none)] else [])

/-- Whether a tenant has budgets, or is to have them (19 R366, R368). -/
def Tenant.budgeted (t : Tenant) : Bool :=
  t.refill != 0 || t.hedge != 0 || t.nextRefill != 0 || t.nextHedge != 0 || t.weight != t.nextWeight

/-- Every deadline: those of harts, grant periods (13 R236), token periods (19 R366), checks of Canopy (15 R305),
stops (15 R311), lost routes (21 R391), changes of pins (21 R393). -/
noncomputable def deadlines (s : State) : List (Nat × Option Instr) :=
  (knownHarts s).flatMap (hartDeadlines s) ++
    (s.groves.filterMap fun (k, g) =>
      if g.holder.isSome then some (g.periodStart + 65536, some (Instr.grantPeriodExpiry k)) else none) ++
    (if s.pk.tenants.any Tenant.budgeted then [((s.pk.period + 1) * 130000, some Instr.budgetPeriod)] else []) ++
    (if s.pk.launches.any fun l => l.isTask && l.state == .running
      then (List.range 8).map fun d => (nextCheck s d, some (Instr.canopyCheck d)) else []) ++
    (s.hostWrites.map fun w => (w.due, none)) ++
    (s.pk.launches.filterMap fun l =>
      if l.state = .stopping then some (l.stopAt, some (Instr.preemptDeadline l.key)) else none) ++
    (s.pk.unreachable.map fun k => (routeDeadline s k, some (Instr.routeTimeout k))) ++
    (s.pk.pins.head?.map fun c => (c.due, none)).toList

/-- The steps whose deadline has come. -/
noncomputable def dueSteps (s : State) : List Instr :=
  (deadlines s).filterMap fun d => if d.1 ≤ s.cycle then d.2 else none

/-- The next deadline after now. -/
noncomputable def nextDeadline (s : State) : Option Nat :=
  ((deadlines s).map Prod.fst).filter (fun t => decide (s.cycle < t)) |>.foldl
    (fun m t => match m with
      | none => some t
      | some k => some (min k t)) none

/-! ### A hart's turn -/

/-- The word the acting hart issues next: the one a return executes again (17 R324), of its frame (03 R61), or
fetched at PC (17 R330). -/
def nextWord (s : State) : State × Got :=
  match s.hart.replayEnd, s.hart.replayWord, s.hart.frame with
  | some _, some w, _ => (s, .word w)
  | none, _, some f => (s, .word (frameWord f))
  | _, _, _ => fetchAt s s.hart.pc

/-- The instruction of a word; a word that names none is RESERVED_ENCODING (03 R55). -/
noncomputable def wordInstr (w : IWord) : Instr :=
  match decode w with
  | .ok i => i
  | .error _ => .reservedEncoding w

/-- Fetch and run the acting hart's next instruction, once the windows that are over have closed. -/
noncomputable def issue (s : State) : Host.Outcome State Fault Refusal :=
  match nextWord (completeAll s (s.hart.pend.filter (windowOver s.hart))) with
  | (t, .wait) => .next (pause t)
  | (t, .fault c) => .next (raise t c t.hart.pc)
  | (t, .word w) => exec (wordInstr w) (onHart t fun h => { h with iword := w })

/-- Whether a window is over whose class L instruction has yet to complete (03 R58). -/
def windowBlocks (s : State) : Bool :=
  s.hart.pend.any fun p => windowOver s.hart p && p.fault.isNone && !pendReady s p

/-- Whether an interrupt, an event or a user-level completion may be taken at the acting hart's boundary. -/
def asyncDue (s : State) : Bool :=
  let h := s.hart
  (h.sien != 0 && takesInterrupts h && (pendingCode s).isSome) ||
    (!h.commandFaults.isEmpty && h.mode != .machine && h.replayEnd.isNone) ||
    (!h.events.isEmpty && takesInterrupts h) || (takesUser h && (dueChannel h).isSome)

/-- The synchronous fault due at the instruction the acting hart waits in, if its next attempt takes one: it
neither waits again nor issues (17 R316, R326). -/
noncomputable def waitingFault (s : State) : Option State :=
  if s.hart.waitSince.isNone then none
  else
    match issue s with
    | .next t => if t.hart.stall.isNone && t.hart.issued == s.hart.issued then some t else none
    | _ => none

/-- What the acting hart does at its boundary in place of an instruction, in the order of 17 R316: leave IDLE;
take the fault of a window that is over (03 R58) or wait for one that is not done; a fault recorded at a stop;
a synchronous fault due where it waits; an interrupt; its own commands' events, then a queued one; a user-level
completion. -/
noncomputable def boundary (s : State) : Option State :=
  let h := s.hart
  if h.run = .idle then some (after (execIdleWake s.hgid s) s)
  else if h.run = .unloaded then some (after (execEventEntry s) s)
  else if h.pend.any fun p => windowOver h p && p.fault.isSome then some (closeWindows s)
  else if windowBlocks s then some (pause s)
  else if pendingDue h then some (takePending s)
  else if asyncDue s then
    match waitingFault s with
    | some t => some t
    | none =>
      if h.sien != 0 && takesInterrupts h && (pendingCode s).isSome then some (after (execSupervisorInterrupt s) s)
      else if !h.commandFaults.isEmpty || !h.events.isEmpty && takesInterrupts h then
        some (after (execEventEntry s) s)
      else some (after (execUserInterrupt s) s)
  else none

/-- What the acting hart does next: its boundary's act, or its next instruction. Pops that wait behind their
windows first take what has come. -/
noncomputable def act (s : State) : Host.Outcome State Fault Refusal :=
  let s := arrivePops s
  match boundary s with
  | some t => .next t
  | none => issue s

/-- The acting hart waits for an unreachable package (21 R391). -/
def waitForRoute (s : State) (p : Nat) : State := stall (onHart s fun h => { h with waitRoute := some p })

/-- An access bound for an unreachable package, or for a page that Understory has yet to serve, waits with no
effect (17 R339, 21 R391). `before` is the state in which the turn began. -/
def reached (before t : State) : State :=
  let b := { before with away := none }
  match t.away with
  | some (.route p) => waitForRoute b p
  | some (.service handle page) => stall ((asked b handle page).getD b)
  | none => t

/-- A hart's waiting marks and the model's draw taken away, so that what remains is what a turn has done. -/
def bare (s : State) : State :=
  { s with
    tick := 0, away := none
    hart := { s.hart with stall := none, waitSince := none, waitRoute := none, iword := 0 } }

/-- Whether a turn has done anything but wait. -/
def moved (before t : State) : Bool := t.hart.stall.isNone || decide (bare t ≠ bare before)

/-! ### Which hart issues -/

/-- Whether a hart's next instruction is not there yet: in the bubble of a transfer (07 R136), and for the 1,024
cycles in which its write of a bank label zeroes the bank (11 R220). -/
def busyHart (s : State) (hart : Nat) (h : Hart) : Bool :=
  bubbling s h || (getCore s (hart / 4)).zeroing.any fun z => z.2.2 == hart

/-- The acting hart's next instruction or event, tried (01 R21): whether it does anything. -/
noncomputable def wouldMove (s : State) : Bool :=
  match act s with
  | .next t => moved s (reached s t)
  | _ => true

/-- Whether a hart is ready (01 R21): it is running and its next instruction can issue, or an idle hart has a
cause to wake, or a waiting hart of a task launch has an event. A hart that was found unable to go on is tried
again only after something has happened (notes/assumptions/11.md). -/
noncomputable def hartReady (s : State) (hart : Nat) : Bool :=
  let h := getHart s hart
  let open_ := !s.pk.tripped && !(getDie s (dieOf (hart / 4))).gated
  open_ && (wakes s hart ||
    (h.run == .unloaded && h.launch.isSome && h.reserved.isNone && !h.events.isEmpty && takesInterrupts h) ||
    (h.run == .running && !busyHart s hart h && (h.pend.isEmpty || !windowBlocks (arrivePops (focus s hart))) &&
      (h.stall.isNone || (h.stall != some s.work && wouldMove (focus s hart)))))

/-- The hart of a core that issues next (01 R22, R23). -/
noncomputable def nextIssuer (s : State) (core : Nat) : Option Nat :=
  (issueOrder (getCore s core) core).find? (hartReady s)

/-- The order in which the model turns to a core from the acting one. -/
def coreDistance (s : State) (c : Nat) : Nat := (c + 4096 - s.cid) % 4096

/-- Of a list of cores, the nearest after the acting one. -/
def nearest (s : State) : List Nat → Option Nat
  | [] => none
  | c :: l =>
    match nearest s l with
    | none => some c
    | some d => if coreDistance s c ≤ coreDistance s d then some c else some d

/-- The hart that issues in this step: of the core the environment names, else of the nearest core after the
acting one that has one ready; last the acting core itself (01 R22). -/
noncomputable def issuingHart (s : State) : Option Nat :=
  match (s.turns.head?).bind (nextIssuer s) with
  | some h => some h
  | none =>
    let others := (knownCores s).filter fun c => c != s.cid && (nextIssuer s c).isSome
    match (nearest s others).bind (nextIssuer s) with
    | some h => some h
    | none => nextIssuer s s.cid

/-- Whether the acting hart began to wait in this turn in an instruction that has issued: one that formed a release or
waits for one (11 R226), an XLINV whose removal is in progress (17 R348), an MLEASE that has asked for the array, or a
COMMIT (15 R288; notes/assumptions/101.md). -/
def begun (before t : State) : Bool :=
  let a := before.hart
  let b := t.hart
  b.stall.isSome && ((a.waitStamp.isNone && b.waitStamp.isSome) || (a.inv.isNone && b.inv.isSome) ||
    (a.lease.isNone && b.lease.isSome) || (!a.task.any (·.waiting) && b.task.any (·.waiting)))

/-- Note how the acting core's issue stands after a turn of the acting hart (01 R22, R23). A turn that issued, or took
a trap, makes the hart the issuing one, and it keeps issue while it is ready. One that only waited leaves the issuing
hart as it was; issue has passed that one if it is not ready itself. The run counts the issuing hart's issues while it
stays ready. `co` is the core before the turn. -/
noncomputable def noteIssue (co : Core) (before t : State) : State :=
  let i := BitVec.ofNat 2 t.hgid
  let issued := begun before t || decide (before.hart.issued < t.hart.issued)
  let stays := t.hart.stall.isNone && t.hart.run == .running && !busyHart t t.hgid t.hart && !windowBlocks t
  let gone := co.issuer == i || !hartReady before (t.cid * 4 + co.issuer.toNat)
  { t with core :=
      if t.hart.stall.isNone || begun before t then
        { t.core with
          issuer := i
          issueRun := if !issued || !stays then 0 else if co.issuer = i then co.issueRun + 1 else 1
          pass := if stays then t.core.pass else .stopped }
      else
        { t.core with
          issuer := co.issuer
          issueRun := if gone then 0 else co.issueRun
          pass := if gone then .stopped else co.pass } }

/-- A turn in which the acting hart's copy was cancelled, so that its pins may no longer be live, has the parked
commits of the launch decided again (15 R287, R310). -/
def redecided (before t : State) : State :=
  match before.hart.task, t.hart.task, before.hart.launch with
  | some _, none, some key => redecideLaunch t key
  | _, _, _ => t

/-- Whether a trap that has just been taken reports an uncorrectable error to the hart that met it: the ECC of an
access or a held segment, or the MFAULT of an array command suspended for one (13 R248, R256, 19 R373). -/
def reportsEcc (h : Hart) : Bool :=
  let r := if h.mode = .machine then h.mach else h.sup
  !bit r.cause 63 && (bits r.cause 0 8 == Cause.ecc.code ||
    (bits r.cause 0 8 == Cause.mfault.code && (h.lease.bind (·.susp)).any fun c => c.2.cause == .ecc))

/-- A turn in which the acting hart takes an uncorrectable error: it is its consumer (19 R381). -/
def eccTaken (before t : State) : State :=
  if before.hart.fromEvents.length < t.hart.fromEvents.length ∧ reportsEcc t.hart = true then
    let v := if t.hart.mode = .machine then t.hart.mach.tval else t.hart.sup.tval
    consumed t t.cid (metEntry t before.agent t.cid v) v (hartId t t.hgid)
  else t

/-- What a hart's turn ends with: progress wakes what waits (01 R21; notes/assumptions/11.md). -/
noncomputable def endTurn (co : Core) (before t : State) : State :=
  let t := reached before (redecided before (eccTaken before t))
  let went := moved before t
  let t := noteIssue co before t
  if went then { t with work := t.work + 1 } else t

/-- A hart's turn. -/
noncomputable def turn (s : State) (hart : Nat) : Host.Outcome State Fault Refusal :=
  let g := focus { s with turns := s.turns.drop 1 } hart
  let f := { g with core := { g.core with pass := .keep } }
  match act f with
  | .next t => .next (endTurn g.core f t)
  | .fault q => .fault q
  | .refused q => .refused q

/-! ### Steps -/

/-- Time passes with a step (notes/assumptions/5.md). -/
def tickOver (s : State) : State :=
  { s with cycle := s.cycle + 1 + Config.cycleGap s.tick, tick := s.tick + 1 }

/-- Progress outside the harts wakes what waits. -/
def worked (t : State) : State := { t with work := t.work + 1 }

/-- The submission queues with a command still taking effect: a PREEMPT or RESUME, or the initialisation run of an
RT_LOAD (19 R356; notes/assumptions/71.md). -/
def busyQueues (s : State) : List (Nat × Nat) :=
  (s.pk.launches.filterMap (·.stopCmd) ++ s.pk.parts.filterMap fun p => p.rtload.map Prod.fst).map fun c => (c.fn, c.sq)

/-- The oldest host command whose queue has none in effect, if the firmware serves commands and it can be performed
now (19 R356) and there is a host (21 R387). -/
noncomputable def nextHostCommand (s : State) : Option State :=
  let busy := busyQueues s
  match s.pk.cmds.find? fun c => !busy.contains (c.fn, c.sq) with
  | none => none
  | some c =>
    if s.pk.boot ≠ .up ∨ s.pk.tripped = true ∨ s.pk.modules = 0 then none
    else
      let t := after (exec (cmdInstr c) { s with pk := { s.pk with cmds := s.pk.cmds.erase c } }) s
      match t.away with
      | some a => waitsAway s a
      | none => some t

/-- Whether the device's own work is tried before a core issues: after SPIN, after each 63 issues modulo 64 of
one hart, and once its quantum is used (01 R23; notes/assumptions/4.md). -/
def ownFirst (co : Core) : Bool :=
  co.pass == .spun || decide (4096 ≤ co.issueRun) || co.issueRun % 64 == 63

/-- A turn of the device: the issuing hart, or when none is ready the device's own work, which at times comes
before an issue too. With nothing to do time passes to the next deadline. -/
noncomputable def deviceTurn (s : State) : Host.Outcome State Fault Refusal :=
  match issuingHart s with
  | some h =>
    if ownFirst (getCore s (h / 4)) then
      match firstEvent s (ownWork s) with
      | some t => .next (worked t)
      | none => turn s h
    else turn s h
  | none =>
    match (if s.pk.tripped then none else firstEvent s (ownWork s)) with
    | some t => .next (worked t)
    | none => .next (worked { s with cycle := max s.cycle ((nextDeadline s).getD 0), turns := s.turns.drop 1 })

/-- Host memory takes a write of the host or another agent (11 R400). -/
def takeWrite (s : State) (w : HostWrite) : State :=
  writeHost s w.fn w.addr (w.bytes.take (16 - w.addr % 16))

/-- Host memory takes the writes that are due, in their order. -/
def takeWrites (s : State) : State :=
  (s.hostWrites.filter fun w => decide (w.due ≤ s.cycle)).foldl takeWrite
    { s with hostWrites := s.hostWrites.filter fun w => decide (s.cycle < w.due) }

/-- Whether a step of the environment may act while a thermal trip holds, with every die stopped (21 R392): the
cooling and a reset. -/
def actsTripped (i : Instr) : Bool :=
  match i with
  | .thermalRecovery | .packageReset => true
  | _ => false

/-- A step without time once nothing is due: the environment's next step, a host command, or a turn of the device. -/
noncomputable def afterDue (s : State) : Host.Outcome State Fault Refusal :=
  match s.agenda with
  | i :: rest =>
    let s := { s with agenda := rest }
    .next (if onAgenda i && (!s.pk.tripped || actsTripped i) then (match tryEvent s i with
      | some t => worked t
      | none => s) else s)
  | [] =>
    match nextHostCommand s with
    | some t => .next (worked t)
    | none => deviceTurn s

/-- A step without time: a deadline that has come goes before everything else. -/
noncomputable def advance (s : State) : Host.Outcome State Fault Refusal :=
  match (if s.pk.tripped then none else firstEvent s (dueSteps s)) with
  | some t => .next (worked t)
  | none => afterDue s

/-- A hart about to issue a word of a block its buffer holds: running in supervisor mode with nothing pending. -/
def Hart.atWord (h : Hart) (pc : Dword) (b : FetchBlock) : Hart :=
  { h with
    run := .running, mode := .supervisor, pc := pc, frame := none, pend := [], replay := [], replayEnd := none
    replayWord := none, near := false, fetch := none, ibuf := [b], alignHold := none, events := []
    commandFaults := [], pendingTrap := none, sien := 0, stall := none, waitSince := none, waitStamp := none
    sendWait := none, inv := none, waitRoute := none }

/-- The own-slice alias of offset 0x8000 (11 R183). -/
def wordPlace : Dword := 0x4000000000008000

/-- Store a word in the acting core's slice at offset 0x8000 and make it the next to issue: its block is in the
hart's instruction buffer (01 R401). -/
def placeWord (s : State) (w : IWord) : State :=
  let mem := memWrite s.mem (sliceKey s.cid 0x8000) 4 w.toNat
  let b : FetchBlock :=
    { addr := wordPlace, root := s.hart.s1base, launch := s.hart.launch.getD 0
      bytes := BitVec.ofNat 512 (memRead mem (sliceKey s.cid 0x8000) 64), faultLo := none, faultHi := none }
  { s with
    hart := s.hart.atWord wordPlace b
    core := { s.core with issuer := BitVec.ofNat 2 s.hgid, issueRun := 0, pass := .keep }
    mem := mem
    agenda := [], turns := [s.cid], away := none, hostWrites := []
    pk := { s.pk with cmds := [], tripped := false, pins := [] } }

end Sys2Proof.Machine
end

