-- ==== Sys2Proof/Machine/Step.lean ====
section
/-!
DEFINITION. One step of the machine, and the placing of one word where the next step fetches it.
-/

namespace Sys2Proof.Machine

/-- One step: a change of a sideband input (21 R393) and the writes of host memory (11 R400) that are due, what
`advance` does, and the time it takes. -/
noncomputable def step (s : State) : Host.Outcome State Fault Refusal :=
  match advance (takeWrites (takePin { s with away := none })) with
  | .next t => .next (tickOver t)
  | .fault f => .fault f
  | .refused r => .refused r

/-- The state with a word stored at the next fetch: the acting hart runs in supervisor mode with its PC in its
own slice at offset 0x8000, outside any frame, window or wait, and nothing else is due
(notes/assumptions/4.md). -/
def State.withFetchWord (s : State) (nbits w : Nat) : State :=
  placeWord s (BitVec.ofNat 32 (w % 2 ^ nbits))

end Sys2Proof.Machine
end

