-- ==== Sys2Proof/Safety.lean ====
section
/-!
DEFINITION. What claims mean by a step that goes on, by the effects that many instructions share, and by the
machine's invariant.
-/

namespace Sys2Proof.Machine

/-- An instruction or step that goes on to a state: no fault, no refusal. -/
def Runs (i : Instr) (s t : State) : Prop := exec i s = .next t

/-- It writes an x register, retires, and changes nothing else. -/
def WritesX (i : Instr) (s : State) (d : Reg) (v : Dword) : Prop :=
  Runs i s { s with hart := (s.hart.wx d v).retire }

/-- It writes an x register, retires, raises exception flags, and changes nothing else. -/
def WritesXF (i : Instr) (s : State) (d : Reg) (v : Dword) (f : Flags) : Prop :=
  Runs i s (raiseFlags { s with hart := (s.hart.wx d v).retire } f)

/-- It writes a vector register, retires, raises exception flags, and changes nothing else. -/
def WritesV (i : Instr) (s : State) (d : Reg) (v : VReg) (f : Flags) : Prop :=
  Runs i s (raiseFlags { s with hart := (s.hart.wv d v).retire } f)

/-- It writes a mask register, retires, raises exception flags, and changes nothing else. -/
def WritesM (i : Instr) (s : State) (d : BitVec 3) (v : Dword) (f : Flags) : Prop :=
  Runs i s (raiseFlags { s with hart := (s.hart.wm d v).retire } f)

/-- It retires, goes to a target whose instruction is delivered a number of bubble cycles late (07 R136), and changes
nothing else of the state with the hart `h`. -/
def JumpsTo (i : Instr) (s : State) (h : Hart) (target : Dword) (bubble : Nat) : Prop :=
  Runs i s { s with hart := { h.jump target with
    redirect := if bubble = 0 then 0 else s.cycle + 1 + bubble } }

/-- It takes a trap at point I: the address of the instruction is saved (17 R315). -/
def Traps (i : Instr) (s : State) (c : Cause) (v : Dword) : Prop := Runs i s (raise s c v)

/-- It is a class L instruction that traps as it issues: the address of the instruction is saved (17 R315, R323). -/
def TrapsL (i : Instr) (s : State) (c : Cause) (v : Dword) : Prop := Runs i s (raiseL s c v)

/-- The records that a store of pieces appends, one a piece, each numbered and placed after those before it (11 R189,
R190). -/
def newRecords (s : State) (tag : Option (BitVec 16)) : List Piece → List Record
  | [] => []
  | p :: l =>
    let r := recordOf s p tag
    r :: newRecords { s with core := { s.core with log := s.core.log ++ [r], nextRid := s.core.nextRid + 1 } } tag l

/-- It appends its pieces to the log, whose records are sent once it is three quarters full, and retires; with too
little room it takes the fault of the hart's own held record, or waits (11 R189, R194, R207). -/
def Logs (i : Instr) (s : State) (tag : Option (BitVec 16)) (ps : List Piece) : Prop :=
  (s.core.log.length + ps.length ≤ s.core.logsize.toNat / 48 →
    Runs i s (autoSend { s with
      hart := s.hart.retire
      core := { s.core with
        log := s.core.log ++ newRecords s tag ps, nextRid := s.core.nextRid + ps.length } })) ∧
  (s.core.logsize.toNat / 48 < s.core.log.length + ps.length →
    (heldOf s s.hgid = none → Runs i s (stall s)) ∧
    ∀ r t, heldOf s s.hgid = some (r, t) → Runs i s (raiseDeferred s t r.pc))

/-- It stores pieces whose addresses exist: outside a task in place when all of them are private and
through the log otherwise; in a task by the rule of 15 R282 and within the budget of R284. -/
def Stores (i : Instr) (s : State) (ps : List Piece) : Prop :=
  (ps = [] → Runs i s { s with hart := s.hart.retire }) ∧
  (ps ≠ [] → inTask s.hart = false →
    ((∀ p ∈ ps, isPrivate s s.cid p.addr = true) → Runs i s (onHart (applyPrivate s ps) Hart.retire)) ∧
    ((∃ p ∈ ps, isPrivate s s.cid p.addr = false) → Logs i s none ps)) ∧
  ∀ task key la reg, inTask s.hart = true → s.hart.task = some task → s.hart.launch = some key →
    getLaunch s key = some la → la.regs.find? (fun r => r.id == task.reg) = some reg → ps ≠ [] →
      (taskStore s (pieceParts ps) = .refused →
        ∀ p, ps.head? = some p → Traps i s .taskctx (firstByte p.addr p.mask)) ∧
      (taskStore s (pieceParts ps) = .private_ → Runs i s (onHart (applyPrivate s ps) Hart.retire)) ∧
      (taskStore s (pieceParts ps) = .output ∨ taskStore s (pieceParts ps) = .stack →
        let used := taskRecords s task.tag + ps.length
        (budgetRecords s s.cid reg < used → Runs i s (cancelLogFull s)) ∧
        (used ≤ budgetRecords s s.cid reg → Logs i s (some task.tag) ps))

/-- Every bank of the acting core already holds the label of its acting hart, so that a private store
widens none (11 R219). -/
def BanksHoldLabel (s : State) : Prop :=
  ∀ p, getPart s (handleAt s s.cid) = some p → ∀ b : Nat,
    subMask (hlaMask s) ((maskOf p (BitVec.ofNat 10 ((s.core.blbl[b]?).getD 0).toNat)).getD 0) = true

/-- The lanes of a vector result by 09 R146: an active lane holds its value, an inactive lane below the
active length its old value or zero by the zeroing policy, a lane past it by the tail policy. -/
def MergedLanes (h : Hart) (m : BitVec 3) (z : Bool) (old v : VReg) (f : Nat → Nat) : Prop :=
  ∀ k, k < laneCount h.et → lane v (elemWidth h.et) k =
    if h.active m k = true then f k % 2 ^ elemWidth h.et
    else if k < h.al then (if h.mp = true ∨ z = true then 0 else lane old (elemWidth h.et) k)
    else if h.tp = true then 0 else lane old (elemWidth h.et) k

/-- It writes the lanes of a vector register by the policies, raises the active lanes' flags, retires, and
changes nothing else. -/
def WritesLanes (i : Instr) (s : State) (d : Reg) (m : BitVec 3) (z : Bool) (f : Nat → Nat)
    (fl : Nat → Flags) : Prop :=
  ∃ v, WritesV i s d v (laneFlags (laneCount s.hart.et) (s.hart.active m) fl) ∧
    MergedLanes s.hart m z (s.hart.rv d) v f

/-- It writes a mask by 09 R147, raises the active lanes' flags, retires, and changes nothing else. -/
def WritesMask (i : Instr) (s : State) (d : BitVec 3) (m : BitVec 3) (z : Bool) (f : Nat → Bool)
    (fl : Nat → Flags) : Prop :=
  let h := s.hart
  ∃ v, WritesM i s d v (laneFlags (laneCount h.et) (h.active m) fl) ∧
    ∀ k, k < 64 → v.getLsbD k =
      if laneCount h.et ≤ k then false
      else if h.active m k = true then f k
      else if k < h.al then (if h.mp = true ∨ z = true then false else (h.rm d).getLsbD k)
      else if h.tp = true then false else (h.rm d).getLsbD k

/-- What a synchronising instruction does first (11 R210, 17 R326): it waits for its open windows, takes the
fault of a window, closes the windows, and reports a held record or a lost one; then the rest applies. -/
def Synchronises (i : Instr) (s : State) (rest : State → Prop) : Prop :=
  (windowsWait s = true → Runs i s (pause s)) ∧
  (windowsWait s = false → (∃ p ∈ s.hart.pend, p.fault.isSome = true) → Runs i s (raiseWindow s)) ∧
  (windowsWait s = false → (∀ p ∈ s.hart.pend, p.fault = none) →
    let u := completeAll s s.hart.pend
    (∀ t, report u = some t → Runs i s t) ∧ (report u = none → rest u))

/-- The state and stamp with which a publishing instruction waits: the release formed before, or one formed
now (11 R195, R226). -/
def afterRelease (s : State) : State × Dword :=
  match s.hart.waitStamp with
  | some st => (s, st)
  | none =>
    let u := settle (formRelease s s.cid).1 s.cid
    let st := (formRelease s s.cid).2
    ({ u with hart := { u.hart with waitStamp := some st } }, st)

/-- It forms a release once, waits until it has completed, and then goes on with its stamp. -/
def Publishes (i : Instr) (s u : State) (k : State → Dword → State) : Prop :=
  let r := afterRelease u
  (isForming r.1.core r.2 = true → Runs i s (stall r.1)) ∧
    (isForming r.1.core r.2 = false → Runs i s (k r.1 r.2))

/-- The grant period of a hart ends by count or time (13 R236): with no waiter a new one begins for it; otherwise the
array passes to the next waiter in the round, and the hart rejoins the waiters with its session open. -/
def PeriodEnds (s u : State) (grove hart : Nat) : Prop :=
  let g := getGrove s grove
  let g' := getGrove u grove
  g'.periodStart = u.cycle ∧ g'.periodCmds = 0 ∧ (getHart u hart).lease = (getHart s hart).lease ∧
    (g.waiters = [] → g'.holder = some hart) ∧
    (g.waiters ≠ [] → g'.holder = nextWaiter g.lastHolder (g.waiters ++ [hart]) ∧
      (g'.holder ≠ some hart → hart ∈ g'.waiters))

/-- Everything of a state that stands outside the acting hart. -/
def SameOutsideHart (s t : State) : Prop := t = { s with hart := t.hart }

/-! ### Rounding, as the real numbers have it -/

/-- The real number of a finite floating-point value. -/
noncomputable def FVal.real : FVal → ℝ
  | .fin neg m e => (if neg then -1 else 1) * (m : ℝ) * (2 : ℝ) ^ e
  | _ => 0

/-- The real number of a code of a type. -/
noncomputable def Fmt.real (t : Fmt) (c : Nat) : ℝ := (t.val c).real

/-- Whether a code of a type is a finite number. -/
def Fmt.Finite (t : Fmt) (c : Nat) : Prop := c < 2 ^ t.w ∧ c % 2 ^ (t.w - 1) ≤ t.maxCode

/-- A code is the representable value that a rounding of a real number gives (05 R85). -/
def Rounds (t : Fmt) (mode : RMode) (v : ℝ) (c : Nat) : Prop :=
  t.Finite c ∧ ∀ d, t.Finite d →
    let x := t.real c
    let y := t.real d
    match mode with
    | .rdn => x ≤ v ∧ (y ≤ v → y ≤ x)
    | .rup => v ≤ x ∧ (v ≤ y → x ≤ y)
    | .rtz => |x| ≤ |v| ∧ 0 ≤ x * v ∧ (|y| ≤ |v| → 0 ≤ y * v → |y| ≤ |x|)
    | .rne => |v - x| ≤ |v - y| ∧ (|v - x| = |v - y| → x = y ∨ c % 2 = 0)
    | .rmm => |v - x| ≤ |v - y| ∧ (|v - x| = |v - y| → |y| ≤ |x|)

/-- The magnitude of a real number, rounded as though the exponent range were unbounded, exceeds the largest finite
value of a type (05 R86). -/
def Overflows (t : Fmt) (mode : RMode) (v : ℝ) : Prop :=
  let most := t.real t.maxCode
  let gap := most - t.real (t.maxCode - 1)
  match mode with
  | .rne => most + gap / 2 ≤ |v|
  | .rmm => most + gap / 2 ≤ |v|
  | .rtz => most + gap ≤ |v|
  | .rdn => most + gap ≤ v ∨ v < -most
  | .rup => most < v ∨ v ≤ -(most + gap)

/-- Whether an overflow gives infinity, by the table of 05 R86. -/
def OverflowsToInfinity (mode : RMode) (v : ℝ) : Prop :=
  match mode with
  | .rne => True
  | .rmm => True
  | .rtz => False
  | .rdn => v < 0
  | .rup => 0 < v

/-- The magnitude of a real number, rounded as though the exponent range were unbounded below, is below the smallest
normal value of a type (05 R87). -/
def Tiny (t : Fmt) (mode : RMode) (v : ℝ) : Prop :=
  let least := t.real (2 ^ t.f)
  let step := t.real 1
  match mode with
  | .rne => |v| < least - step / 4
  | .rmm => |v| < least - step / 4
  | .rtz => |v| < least
  | .rdn => -(least - step / 2) ≤ v ∧ v < least
  | .rup => -least < v ∧ v ≤ least - step / 2

/-- What an operation whose exact result is a real number that is not 0 delivers: a code of its sign and the flags
(05 R85 to R88). -/
def Delivers (t : Fmt) (mode : RMode) (v : ℝ) (r : Nat × Flags) : Prop :=
  r.1 < 2 ^ t.w ∧ (t.neg r.1 = true ↔ v < 0) ∧
  (Overflows t mode v → r.2 = flagOF ||| flagNX ∧
    (OverflowsToInfinity mode v → r.1 % 2 ^ (t.w - 1) = t.infCode) ∧
    (¬ OverflowsToInfinity mode v → r.1 % 2 ^ (t.w - 1) = t.maxCode)) ∧
  (¬ Overflows t mode v → Rounds t mode v r.1 ∧ (t.real r.1 = v → r.2 = 0) ∧
    (t.real r.1 ≠ v → (Tiny t mode v → r.2 = flagUF ||| flagNX) ∧ (¬ Tiny t mode v → r.2 = flagNX)))

/-- The memory of a state is in canonical form. -/
def Inv (s : State) : Prop := Memory.wf s.mem = true

end Sys2Proof.Machine
end

