-- ==== Sys2Proof/Certificates/Slice0/Obligations.lean ====
section
/-!
DEFINITION. The statements about the model, each one proposition. The first group is about instructions, in the
order of the opcode table; the others are about the machine.
-/

open Sys2Proof Sys2Proof.Machine

/-! ### Registers and retirement -/

/-- 03 R33, R35, R36, 07 R130: a write of a register of any file is read back and every other register keeps its value;
x0 reads zero and discards a write, and the bank that a user-level handler does not see keeps its values; a branch
register holds a multiple of 4, and its write is counted among the instructions issued (07 R136). -/
def Obligations.RegisterWrites : Prop :=
  (∀ (h : Hart) (d r : Reg) (v : Dword),
     (h.wx d v).rx r = (if r = 0 then 0 else if r = d then v else h.rx r) ∧
       (d = 0 → h.wx d v = h) ∧
       (h.uih = true ∧ 24 ≤ d.toNat → (h.wx d v).x = h.x) ∧
       (¬ (h.uih = true ∧ 24 ≤ d.toNat) → (h.wx d v).shadow = h.shadow) ∧
       h.wx d v = { h with x := (h.wx d v).x, shadow := (h.wx d v).shadow }) ∧
  ((∀ (h : Hart) (d r : Reg) (v : VReg), (h.wv d v).rv r = (if r = d then v else h.rv r) ∧
     h.wv d v = { h with v := (h.wv d v).v }) ∧
   (∀ (h : Hart) (d r : BitVec 3) (v : Dword), (h.wm d v).rm r = (if r = d then v else h.rm r) ∧
     h.wm d v = { h with m := (h.wm d v).m }) ∧
   (∀ (h : Hart) (d r : BitVec 2) (v : Dword),
     (h.wb d v).rb r = (if r = d then BitVec.ofNat 64 (v.toNat / 4 * 4) else h.rb r) ∧
     (h.wb d v).bAt[r.toNat]? = (if r = d then some (h.issued + 1) else h.bAt[r.toNat]?) ∧
     h.wb d v = { h with b := (h.wb d v).b, bAt := (h.wb d v).bAt }))

/-- 03 R61, R62, 15 R303: a retired instruction outside a replay is counted once; execution goes to the next
word, inside a frame to the next captured word, from the last of them to the first while iterations are left,
and after the last iteration past the block. No register, flag, mode or trap register changes. -/
def Obligations.RetirementAdvances : Prop :=
  ∀ h : Hart, h.replayEnd = none →
    h.retire.rwc = h.rwc + 1 ∧
    h.retire = { h with
      pc := h.retire.pc, frame := h.retire.frame, rwc := h.rwc + 1, perf := bump h.perf 3 1
      issued := h.issued + 1, hist := (h.site :: h.hist).take 16, near := false, stall := none, waitSince := none
      waitStamp := none, sendWait := none, inv := none, waitRoute := none } ∧
    (h.frame = none → h.retire.pc = h.pc + 4 ∧ h.retire.frame = none) ∧
    (∀ f, h.frame = some f →
      (f.pos + 1 < f.words.length →
        h.retire.pc = h.pc + 4 ∧ h.retire.frame = some { f with pos := f.pos + 1 }) ∧
      (f.words.length ≤ f.pos + 1 → f.iter + 1 < f.iters →
        h.retire.pc = f.base + 4 ∧ h.retire.frame = some { f with pos := 0, iter := f.iter + 1 }) ∧
      (f.words.length ≤ f.pos + 1 → f.iters ≤ f.iter + 1 →
        h.retire.pc = f.base + 4 * BitVec.ofNat 64 (f.words.length + 1) ∧ h.retire.frame = none))

/-! ### Integer instructions -/

/-- 07 R109: the binary integer instructions write their result, reduced modulo 2^64, and change nothing
else. -/
def Obligations.IntegerRegisterResults : Prop :=
  ∀ (s : State) (d a b : Reg),
    let x := s.hart.rx a
    let y := s.hart.rx b
    WritesX (.add d a b) s d (BitVec.ofInt 64 (x.toInt + y.toInt)) ∧
    WritesX (.sub d a b) s d (BitVec.ofInt 64 (x.toInt - y.toInt)) ∧
    (∃ v, WritesX (.and d a b) s d v ∧ ∀ i, v.getLsbD i = (x.getLsbD i && y.getLsbD i)) ∧
    (∃ v, WritesX (.or d a b) s d v ∧ ∀ i, v.getLsbD i = (x.getLsbD i || y.getLsbD i)) ∧
    (∃ v, WritesX (.xor d a b) s d v ∧ ∀ i, v.getLsbD i = (x.getLsbD i != y.getLsbD i)) ∧
    (∃ v, WritesX (.andn d a b) s d v ∧ ∀ i, v.getLsbD i = (x.getLsbD i && !y.getLsbD i)) ∧
    (∃ v, WritesX (.orn d a b) s d v ∧ ∀ i, i < 64 → v.getLsbD i = (x.getLsbD i || !y.getLsbD i)) ∧
    WritesX (.sll d a b) s d (BitVec.ofNat 64 (x.toNat * 2 ^ (y.toNat % 64))) ∧
    WritesX (.srl d a b) s d (BitVec.ofNat 64 (x.toNat / 2 ^ (y.toNat % 64))) ∧
    WritesX (.sra d a b) s d (BitVec.ofInt 64 (x.toInt / 2 ^ (y.toNat % 64))) ∧
    (∃ v, WritesX (.ror d a b) s d v ∧ ∀ i, i < 64 → v.getLsbD i = x.getLsbD ((i + y.toNat % 64) % 64)) ∧
    WritesX (.slt d a b) s d (if x.toInt < y.toInt then 1 else 0) ∧
    WritesX (.sltn d a b) s d (if x.toNat < y.toNat then 1 else 0) ∧
    WritesX (.seq d a b) s d (if x = y then 1 else 0) ∧
    WritesX (.min d a b) s d (BitVec.ofInt 64 (Min.min x.toInt y.toInt)) ∧
    WritesX (.max d a b) s d (BitVec.ofInt 64 (Max.max x.toInt y.toInt)) ∧
    WritesX (.minn d a b) s d (BitVec.ofNat 64 (Min.min x.toNat y.toNat)) ∧
    WritesX (.maxn d a b) s d (BitVec.ofNat 64 (Max.max x.toNat y.toNat)) ∧
    WritesX (.addw d a b) s d ((BitVec.ofInt 32 (x.toInt + y.toInt)).signExtend 64) ∧
    WritesX (.subw d a b) s d ((BitVec.ofInt 32 (x.toInt - y.toInt)).signExtend 64) ∧
    WritesX (.sllw d a b) s d ((BitVec.ofNat 32 (x.toNat * 2 ^ (y.toNat % 32))).signExtend 64) ∧
    WritesX (.srlw d a b) s d ((BitVec.ofNat 32 (x.toNat % 2 ^ 32 / 2 ^ (y.toNat % 32))).signExtend 64) ∧
    WritesX (.sraw d a b) s d (BitVec.ofInt 64 ((x.setWidth 32).toInt / 2 ^ (y.toNat % 32)))

/-- 07 R109 to R114: counts, reversals and extensions, with the reserved widths ILLEGAL; the halves of products; the
divisions, which issue as class L and give all ones and the dividend for a zero divisor; immediates, shifts by an
immediate, and the halfword instructions. -/
def Obligations.IntegerOtherResults : Prop :=
  (∀ (s : State) (d a : Reg),
     let x := s.hart.rx a
     (∃ n, WritesX (.clz d a) s d (BitVec.ofNat 64 n) ∧ n ≤ 64 ∧ x.toNat < 2 ^ (64 - n) ∧
       (n < 64 → 2 ^ (63 - n) ≤ x.toNat)) ∧
     (∃ n, WritesX (.ctz d a) s d (BitVec.ofNat 64 n) ∧ n ≤ 64 ∧ x.toNat % 2 ^ n = 0 ∧
       (n < 64 → x.getLsbD n = true)) ∧
     WritesX (.popc d a) s d (BitVec.ofNat 64 ((List.range 64).countP fun i => x.getLsbD i)) ∧
     (∃ v, WritesX (.brev d a) s d v ∧ ∀ i, i < 64 → v.getLsbD i = x.getLsbD (63 - i)) ∧
     (∃ v, WritesX (.bswap d a) s d v ∧ ∀ i, i < 64 → v.getLsbD i = x.getLsbD (8 * (7 - i / 8) + i % 8)) ∧
     ∀ w : BitVec 4,
       (w.toNat < 3 →
         WritesX (.sext d a w) s d ((x.setWidth (8 * 2 ^ w.toNat)).signExtend 64) ∧
         WritesX (.zext d a w) s d (BitVec.ofNat 64 (x.toNat % 2 ^ (8 * 2 ^ w.toNat)))) ∧
       (3 ≤ w.toNat →
         Traps (.sext d a w) s .illegal (s.hart.iword.setWidth 64) ∧
         Traps (.zext d a w) s .illegal (s.hart.iword.setWidth 64))) ∧
  (∀ (s : State) (d a b : Reg),
     let x := s.hart.rx a
     let y := s.hart.rx b
     WritesX (.mul d a b) s d (BitVec.ofInt 64 (x.toInt * y.toInt)) ∧
     WritesX (.mulh d a b) s d (BitVec.ofInt 64 (x.toInt * y.toInt / 2 ^ 64)) ∧
     WritesX (.mulhn d a b) s d (BitVec.ofNat 64 (x.toNat * y.toNat / 2 ^ 64)) ∧
     WritesX (.mulw d a b) s d ((BitVec.ofInt 32 (x.toInt * y.toInt)).signExtend 64)) ∧
  (∀ (s : State) (d a b : Reg) (l : BitVec 4),
     let x := s.hart.rx a
     let y := s.hart.rx b
     Runs (.div d a b l) s (issueL s l
       (.x d (if y = 0 then BitVec.allOnes 64 else BitVec.ofInt 64 (x.toInt.tdiv y.toInt))) 0 false none) ∧
     Runs (.divn d a b l) s (issueL s l
       (.x d (if y = 0 then BitVec.allOnes 64 else BitVec.ofNat 64 (x.toNat / y.toNat))) 0 false none) ∧
     Runs (.rem d a b l) s (issueL s l
       (.x d (if y = 0 then x else BitVec.ofInt 64 (x.toInt.tmod y.toInt))) 0 false none) ∧
     Runs (.remn d a b l) s (issueL s l
       (.x d (if y = 0 then x else BitVec.ofNat 64 (x.toNat % y.toNat))) 0 false none)) ∧
  (∀ (s : State) (d a : Reg) (i : BitVec 16) (n : BitVec 6) (w : BitVec 2),
     let x := s.hart.rx a
     WritesX (.addi d a i) s d (BitVec.ofInt 64 (x.toInt + i.toInt)) ∧
     WritesX (.slti d a i) s d (if x.toInt < i.toInt then 1 else 0) ∧
     (∃ v, WritesX (.andi d a i) s d v ∧ ∀ k, v.getLsbD k = (x.getLsbD k && i.getLsbD k)) ∧
     (∃ v, WritesX (.ori d a i) s d v ∧ ∀ k, v.getLsbD k = (x.getLsbD k || i.getLsbD k)) ∧
     (∃ v, WritesX (.xori d a i) s d v ∧ ∀ k, v.getLsbD k = (x.getLsbD k != i.getLsbD k)) ∧
     WritesX (.slli d a n) s d (BitVec.ofNat 64 (x.toNat * 2 ^ n.toNat)) ∧
     WritesX (.srli d a n) s d (BitVec.ofNat 64 (x.toNat / 2 ^ n.toNat)) ∧
     WritesX (.srai d a n) s d (BitVec.ofInt 64 (x.toInt / 2 ^ n.toNat)) ∧
     (∃ v, WritesX (.rori d a n) s d v ∧ ∀ k, k < 64 → v.getLsbD k = x.getLsbD ((k + n.toNat) % 64)) ∧
     WritesX (.seth d w i) s d (BitVec.ofNat 64 (i.toNat * 2 ^ (16 * w.toNat))) ∧
     (∃ v, WritesX (.insh d w i) s d v ∧ ∀ k, k < 64 →
       v.getLsbD k = if k / 16 = w.toNat then i.getLsbD (k % 16) else (s.hart.rx d).getLsbD k))

/-! ### Control transfer -/

/-- 07 R130 to R134, R136, R137, R141, R142, 01 R23, R25: branches, jumps, calls and the branch registers; the bubble of
a transfer through a b register is 3 less the instructions issued since it was written, of J 2 and of RET 3; a target
that is no multiple of 4 is ALIGN and changes no register. NOP only retires, SPIN also ends the turn of its hart, and
ALIGN holds the next fetch. -/
def Obligations.ControlTransfers : Prop :=
  (∀ (s : State) (d a b : Reg) (t : BitVec 2) (k : BitVec 1) (j : BitVec 24) (l : BitVec 26),
     let x := s.hart.rx a
     let y := s.hart.rx b
     -- the block that the likely bit names, the target's or the next word's
     let kept := some (blockOf (if k = 1 then s.hart.rb t else s.hart.pc + 4))
     -- the instructions issued after the one that wrote b, the transfer among them
     let since := s.hart.issued + 1 - (s.hart.bAt[t.toNat]?).getD 0
     let branch := fun (i : Instr) (c : Prop) =>
       (c → JumpsTo i s { s.hart with keepBlock := kept } (s.hart.rb t) (3 - since)) ∧
       (¬ c → Runs i s { s with hart := { s.hart.retire with keepBlock := kept } })
     branch (.brcEq t a b k) (x = y) ∧
     branch (.brcNe t a b k) (x ≠ y) ∧
     branch (.brcLt t a b k) (x.toInt < y.toInt) ∧
     branch (.brcGe t a b k) (y.toInt ≤ x.toInt) ∧
     branch (.brcLtn t a b k) (x.toNat < y.toNat) ∧
     branch (.brcGen t a b k) (y.toNat ≤ x.toNat) ∧
     branch (.brcBset t a b k) (x.getLsbD (y.toNat % 64) = true) ∧
     branch (.brcAlw t k) True ∧
     JumpsTo (.jmpb t) s s.hart (s.hart.rb t) (3 - since) ∧
     JumpsTo (.j l) s s.hart (BitVec.ofInt 64 (s.hart.pc.toInt + 4 * l.toInt)) 2 ∧
     JumpsTo (.call d t) s (s.hart.wx d (s.hart.pc + 4)) (s.hart.rb t) (3 - since) ∧
     Runs (.pbr t j) s
       { s with hart := (s.hart.wb t (BitVec.ofInt 64 (s.hart.pc.toInt + 4 * j.toInt))).retire } ∧
     WritesX (.bget d t) s d (s.hart.rb t) ∧
     (x.toNat % 4 = 0 →
       JumpsTo (.ret a) s s.hart x 3 ∧ Runs (.pbrr a t) s { s with hart := (s.hart.wb t x).retire }) ∧
     (x.toNat % 4 ≠ 0 → Traps (.ret a) s .align x ∧ Traps (.pbrr a t) s .align x)) ∧
  (∀ (s : State) (w : BitVec 4),
     Runs .nop s { s with hart := s.hart.retire } ∧
     Runs .spin s { s with hart := s.hart.retire, core := { s.core with pass := .spun } } ∧
     Runs (.align w) s
       { s with hart := { s.hart.retire with alignHold := some (64 * (w.toNat + 1)) } })

/-! ### Floating-point instructions -/

/-- 07 R115, R118, R119, 05 R85 to R89: under a defined rounding mode the rounding instructions write the result
of their function, rounded once, and raise its flags; the class L ones do so when their window closes. Codes 5
and 6 of rm are ILLEGAL. -/
def Obligations.FloatingRoundedResults : Prop :=
  ∀ (s : State) (d a b c : Reg) (t : BitVec 2) (r : BitVec 3) (l : BitVec 4),
    let ty := Fmt.ofTy t
    let m := s.hart.rmode r
    let x := s.hart.rf ty a
    let y := s.hart.rf ty b
    let z := s.hart.rf ty c
    let dyn := s.hart.rmode 7
    let gives := fun (i : Instr) (v : Nat × Flags) => WritesXF i s d (BitVec.ofNat 64 v.1) v.2
    (r ≠ 5 ∧ r ≠ 6 →
      gives (.fadd d a b t r) (fAdd ty m x y) ∧ gives (.fsub d a b t r) (fSub ty m x y) ∧
      gives (.fmul d a b t r) (fMul ty m x y) ∧
      Runs (.fdiv d a b t r l) s
        (issueL s l (.x d (BitVec.ofNat 64 (fDiv ty m x y).1)) (fDiv ty m x y).2 true none) ∧
      Runs (.fsqrt d a t r l) s
        (issueL s l (.x d (BitVec.ofNat 64 (fSqrt ty m x).1)) (fSqrt ty m x).2 true none)) ∧
    (r = 5 ∨ r = 6 →
      let word := s.hart.iword.setWidth 64
      Traps (.fadd d a b t r) s .illegal word ∧ Traps (.fsub d a b t r) s .illegal word ∧
      Traps (.fmul d a b t r) s .illegal word ∧ Traps (.fdiv d a b t r l) s .illegal word ∧
      Traps (.fsqrt d a t r l) s .illegal word) ∧
    gives (.fmadd d a b c t) (fMulAdd ty dyn false false x y z) ∧
    gives (.fmsub d a b c t) (fMulAdd ty dyn false true x y z) ∧
    gives (.fnmadd d a b c t) (fMulAdd ty dyn true true x y z) ∧
    gives (.fnmsub d a b c t) (fMulAdd ty dyn true false x y z)

/-- 07 R115 to R117, 05 R83, R84, R91, R92: minimum and maximum, sign operations, compares, which follow the order of the
values and are false on a NaN, and the class code; conversions between types, where FCVTF to its own type and codes 5
and 6 of rm are ILLEGAL. That FCLASS raises no flag on a signalling NaN is the model's choice
(notes/assumptions/45.md), and so is NV when FCVTF widens one (95.md). -/
def Obligations.FloatingCompareAndConversionResults : Prop :=
  (∀ (s : State) (d a b : Reg) (t : BitVec 2),
     let ty := Fmt.ofTy t
     let x := s.hart.rf ty a
     let y := s.hart.rf ty b
     let gives := fun (i : Instr) (v : Nat × Flags) => WritesXF i s d (BitVec.ofNat 64 v.1) v.2
     gives (.fmin d a b t) (fMinMax ty false false x y) ∧
     gives (.fmax d a b t) (fMinMax ty true false x y) ∧
     gives (.fmini d a b t) (fMinMax ty false true x y) ∧
     gives (.fmaxi d a b t) (fMinMax ty true true x y) ∧
     gives (.fsgc d a b t) (y / 2 ^ (ty.w - 1) * 2 ^ (ty.w - 1) + x % 2 ^ (ty.w - 1), 0) ∧
     gives (.fsgi d a b t) ((1 - y / 2 ^ (ty.w - 1)) * 2 ^ (ty.w - 1) + x % 2 ^ (ty.w - 1), 0) ∧
     gives (.fsgx d a b t)
       ((x / 2 ^ (ty.w - 1) + y / 2 ^ (ty.w - 1)) % 2 * 2 ^ (ty.w - 1) + x % 2 ^ (ty.w - 1), 0) ∧
     gives (.fclass d a t) (fClass ty x, 0) ∧
     (let nan := (ty.val x).isNan || (ty.val y).isNan
      let quiet := nanFlags (ty.val x) ||| nanFlags (ty.val y)
      (nan = true →
        gives (.feq d a b t) (0, quiet) ∧ gives (.flt d a b t) (0, flagNV) ∧ gives (.fle d a b t) (0, flagNV)) ∧
      (nan = false →
        let o := cmpVals (ty.val x) (ty.val y)
        gives (.feq d a b t) (if o = .eq then 1 else 0, 0) ∧ gives (.flt d a b t) (if o = .lt then 1 else 0, 0) ∧
        gives (.fle d a b t) (if o = .gt then 0 else 1, 0)))) ∧
  (∀ (s : State) (d a : Reg) (c t : BitVec 2) (r : BitVec 3),
     let ty := Fmt.ofTy t
     let m := s.hart.rmode r
     let n := 8 * 2 ^ c.toNat
     let x := s.hart.rf ty a
     let word := s.hart.iword.setWidth 64
     (r ≠ 5 ∧ r ≠ 6 →
       WritesXF (.fcvti d a c t r) s d (BitVec.ofInt 64 (fToInt (ty.val x) m true n).1)
         (fToInt (ty.val x) m true n).2 ∧
       WritesXF (.fcvtn d a c t r) s d (BitVec.ofInt 64 (fToInt (ty.val x) m false n).1)
         (fToInt (ty.val x) m false n).2 ∧
       (let v := intToF ty m (sval n (s.hart.rx a).toNat)
        WritesXF (.icvtf d a c t r) s d (BitVec.ofNat 64 v.1) v.2) ∧
       (let v := intToF ty m ((s.hart.rx a).toNat % 2 ^ n : Nat)
        WritesXF (.ncvtf d a c t r) s d (BitVec.ofNat 64 v.1) v.2) ∧
       (let src := Fmt.ofElem (8 + c.toNat)
        let v := fToF ty m (src.val (s.hart.rf src a))
        sourceType c ≠ t → WritesXF (.fcvtf d a c t r) s d (BitVec.ofNat 64 v.1) v.2) ∧
       (sourceType c = t → Traps (.fcvtf d a c t r) s .illegal word)) ∧
     (r = 5 ∨ r = 6 →
       Traps (.fcvti d a c t r) s .illegal word ∧ Traps (.fcvtn d a c t r) s .illegal word ∧
       Traps (.icvtf d a c t r) s .illegal word ∧ Traps (.ncvtf d a c t r) s .illegal word ∧
       Traps (.fcvtf d a c t r) s .illegal word))

/-- 05 R82, R83, R85 to R88, R90: on finite operands the operations of the scalar types deliver the exact real result
rounded once by the mode: an exact result exactly and without flags, an inexact one as the representable value that the
mode names, with NX, and UF where it is tiny, and an overflow by its table, with OF and NX. A zero result has the sign of
R85 or of its operands, a division by zero sets DZ, and the root of a negative number is invalid. An operation on a NaN
gives the canonical NaN, and NV only for a signalling operand; addition and multiplication do not depend on the order of
their operands, flags included; raising flags only sets bits of FFLAGS and, 64 cycles later, those of the GFFLAGS of the
grove. -/
def Obligations.FloatingArithmeticLaws : Prop :=
  (∀ (t : Fmt) (mode : RMode) (a b c : Nat) (i : Int), t ∈ [Fmt.f16, .b16, .f32, .f64] →
     t.Finite a → t.Finite b → t.Finite c →
     let x := t.real a
     let y := t.real b
     let z := t.real c
     -- a zero, and the sign of one that is a sum of terms of these signs
     let zero := fun (neg : Bool) => (t.signed neg 0, (0 : Flags))
     let sign := fun (p q : Bool) => if p = q then p else decide (mode = .rdn)
     let odd := t.neg a != t.neg b
     (x + y ≠ 0 → Delivers t mode (x + y) (fAdd t mode a b)) ∧
     (x + y = 0 → fAdd t mode a b = zero (sign (t.neg a) (t.neg b))) ∧
     (x - y ≠ 0 → Delivers t mode (x - y) (fSub t mode a b)) ∧
     (x - y = 0 → fSub t mode a b = zero (sign (t.neg a) (!t.neg b))) ∧
     (x * y ≠ 0 → Delivers t mode (x * y) (fMul t mode a b)) ∧ (x * y = 0 → fMul t mode a b = zero odd) ∧
     (y ≠ 0 → x ≠ 0 → Delivers t mode (x / y) (fDiv t mode a b)) ∧
     (y ≠ 0 → x = 0 → fDiv t mode a b = zero odd) ∧
     (y = 0 → x ≠ 0 → fDiv t mode a b = (t.signed odd t.infCode, flagDZ)) ∧
     (y = 0 → x = 0 → fDiv t mode a b = (t.nan, flagNV)) ∧
     (0 < x → Delivers t mode (Real.sqrt x) (fSqrt t mode a)) ∧ (x = 0 → fSqrt t mode a = zero (t.neg a)) ∧
     (x < 0 → fSqrt t mode a = (t.nan, flagNV)) ∧
     (∀ np nc : Bool,
       let v := (if np then -(x * y) else x * y) + (if nc then -z else z)
       (v ≠ 0 → Delivers t mode v (fMulAdd t mode np nc a b c)) ∧
       (v = 0 → fMulAdd t mode np nc a b c = zero (sign (odd != np) (t.neg c != nc)))) ∧
     (i ≠ 0 → Delivers t mode i (intToF t mode i)) ∧ intToF t mode 0 = zero false ∧
     (∀ u ∈ [Fmt.f16, .b16, .f32, .f64], ∀ d, u.Finite d →
       (u.real d ≠ 0 → Delivers t mode (u.real d) (fToF t mode (u.val d))) ∧
       (u.real d = 0 → fToF t mode (u.val d) = zero (u.neg d)))) ∧
  (∀ (t : Fmt) (mode : RMode) (a b : Nat), (t.val a).isNan = true ∨ (t.val b).isNan = true →
     let invalid : Flags := if t.val a = .nan true ∨ t.val b = .nan true then flagNV else 0
     fAdd t mode a b = (t.nan, invalid) ∧ fSub t mode a b = (t.nan, invalid) ∧
       fMul t mode a b = (t.nan, invalid) ∧ fDiv t mode a b = (t.nan, invalid)) ∧
  (∀ (t : Fmt) (mode : RMode) (a b : Nat), fAdd t mode a b = fAdd t mode b a ∧ fMul t mode a b = fMul t mode b a) ∧
  (∀ (s : State) (f : Flags) (n : Nat),
     let t := raiseFlags s f
     t.hart.fflags = s.hart.fflags ||| f ∧
     t = { s with hart := { s.hart with fflags := t.hart.fflags }, groves := t.groves } ∧
     (f = 0 → t.groves = s.groves) ∧
     (f ≠ 0 → s.cycle + 64 ≤ n →
       hartFlags f &&& (arriveFlags n (getGrove t (groveOf s.cid))).gfflags = hartFlags f))

/-! ### Loads and stores -/

/-- 07 R121 to R127, 11 R218: a scalar load issues as class L with its little-endian bytes, extended as its
name says, and the label read; a fault of the address traps at once, and one of translation, window or error when
the window closes. PREF changes caches at most. The model's choices here: the bytes and label are those at issue
(notes/assumptions/7.md), faults of translation are found at issue (8.md), which bytes the view buffer and the log give
(12.md, 13.md). -/
def Obligations.ScalarLoadResults : Prop :=
  ∀ (s t : State) (d a b : Reg) (o : BitVec 10) (z : BitVec 2) (l k : BitVec 4) (f : Dword) (sp : Bool)
      (q : Trap) (bs : List Byte) (m : Mask),
    let n := 2 ^ z.toNat
    let loads := fun (i : Instr) (signed : Bool) (e : Dword) =>
      (baseAddress s.hart a e n = none → TrapsL i s .addr e) ∧
      (baseAddress s.hart a e n = some (f, sp) →
        (addrFault s s.agent false true (parts f n) = some q → TrapsL i s q.cause q.val) ∧
        (addrFault s s.agent false true (parts f n) = none →
          (loadBytes s f n = (t, .error q) → Runs i s (issueL t l (.x d 0) 0 false (some q))) ∧
          (loadBytes s f n = (t, .ok (bs, m)) →
            let v := if signed then BitVec.ofInt 64 (sval (8 * n) (ofBytes bs)) else dw (ofBytes bs)
            Runs i s (issueL (widenHla t m) l (.x d v) 0 false none))))
    let near := BitVec.ofInt 64 ((s.hart.rx a).toInt + o.toInt * n)
    let indexed := BitVec.ofInt 64 ((s.hart.rx a).toInt + (s.hart.rx b).toInt * n)
    loads (.lds d a o z l) true near ∧ loads (.ldz d a o z l) false near ∧
    loads (.ldsx d a b z l) true indexed ∧ loads (.ldzx d a b z l) false indexed ∧
    ∃ p : State, Runs (.pref a k) s p ∧ (k ≠ 0 → p.core = s.core) ∧
      p = { s with
        hart := s.hart.retire, core := { s.core with view := p.core.view }, dies := p.dies, tick := p.tick }

/-- 07 R121, R124, R127, 11 R189: a scalar store of an existing address stores the low bytes of x[rd]; other
addresses trap and store nothing. That each piece makes one record of its own, where R193 lets a core coalesce, is the
model's choice (notes/assumptions/55.md), and so is the place of a record (58.md). -/
def Obligations.ScalarStoreResults : Prop :=
  ∀ (s : State) (d a b : Reg) (o : BitVec 10) (z : BitVec 2) (f : Dword) (sp : Bool) (q : Trap),
    let n := 2 ^ z.toNat
    let stores := fun (i : Instr) (e : Dword) =>
      (baseAddress s.hart a e n = none → Traps i s .addr e) ∧
      (baseAddress s.hart a e n = some (f, sp) →
        (addrFault s s.agent true true (parts f n) = some q → Traps i s q.cause q.val) ∧
        (addrFault s s.agent true true (parts f n) = none →
          Stores i s (piecesOf f ((List.range n).map fun j => BitVec.ofNat 8 ((s.hart.rx d).toNat / 256 ^ j)) sp)))
    stores (.st d a o z) (BitVec.ofInt 64 ((s.hart.rx a).toInt + o.toInt * n)) ∧
    stores (.stx d a b z) (BitVec.ofInt 64 ((s.hart.rx a).toInt + (s.hart.rx b).toInt * n))

/-- 11 R183, R185, R188, R189, R192, 07 R121: private pieces, where no label widens, change memory and error marks alone;
a byte that no piece's mask names keeps its value, and the bytes that the last piece names hold its data. What a hart
stores to a private byte of its own slice, outside its system area and log region, its next load of the same bytes reads,
when no record of its log names the sector, no error marks it and no label widens. -/
def Obligations.PrivatePiecesWriteTheirBytes : Prop :=
  (∀ (s : State) (ps : List Piece) (p : Piece), Inv s → BanksHoldLabel s →
     let at_ := fun (x : Piece) (j : Nat) => sliceKey s.cid ((x.addr.toNat + j) % 2 ^ 19)
     (∀ x ∈ ps ++ [p], isPrivate s s.cid x.addr = true ∧ x.addr.toNat % 32 = 0) →
     let t := applyPrivate s (ps ++ [p])
     t = { s with mem := t.mem, pk := { s.pk with marked := t.pk.marked } } ∧
     (∀ a : Nat, (∀ x ∈ ps ++ [p], ∀ j, j < 32 → x.mask.getLsbD j = true → a ≠ at_ x j) →
       memGet t.mem a = memGet s.mem a) ∧
     ∀ j, j < 32 → p.mask.getLsbD j = true →
       memGet t.mem (at_ p j) = BitVec.ofNat 8 (p.data.toNat / 256 ^ j)) ∧
  (∀ (s : State) (e : Dword) (n : Nat) (bs : List Byte) (sp : Bool), Inv s → BanksHoldLabel s →
     s.hgid < 16384 → bs.length = n → 0 < n → e.toNat % 32 + n ≤ 32 → isPrivate s s.cid e = true →
     0x1000 ≤ e.toNat % 2 ^ 19 → inLog s.core (e.toNat % 2 ^ 19 / 32 * 32) 32 = false →
     (∀ r ∈ s.core.log, r.addr ≠ normalise s s.cid e &&& ~~~31) →
     isMarked s (sectorKey (sliceKey s.cid (e.toNat % 2 ^ 19))) = false →
     let t := applyPrivate s (piecesOf e bs sp)
     ∃ m, loadBytes t e n = ({ t with hart := { t.hart with near := true } }, .ok (bs, m)))

/-- 11 R189, R192, R201, R399, 07 R121, R125, R126: a load reads each sector that it touches, lowest first: what stands
below the log, or ECC where that sector is marked, overlaid by the unapplied records of its address in the core's own log,
sent or not, each over those before it; a failure of the first sector is the load's. In the own slice, outside the system
area and the log, what stands below the log is memory. That a record is matched by address and stage-1 root, and that an
applied one is no longer forwarded, is the model's choice (notes/assumptions/12.md). -/
def Obligations.LogForwarding : Prop :=
  (∀ (addr root : Dword) (tag : Option (BitVec 16)) (log : List Record) (r : Record) (d : Sector) (j : Nat),
    j < 32 →
    overlay addr root tag [] d = d ∧
    sectorByte (overlay addr root tag (log ++ [r]) d) j =
      if r.addr = addr ∧ (addr.getLsbD 63 = true ∨ r.root = root) ∧
          r.applied = false ∧ (r.task = false ∨ tag = some r.tag) ∧ r.mask.getLsbD j = true
      then sectorByte r.data j else sectorByte (overlay addr root tag log d) j) ∧
  -- a sector
  (∀ (s t : State) (n : Need) (e : Dword) (k : Nat) (f : Fetched) (q : Trap),
    (readSector s s.agent n e = (t, .error q) → readPart s n e k = (t, .error q)) ∧
    (readSector s s.agent n e = (t, .ok f) →
      (f.bad = true → readPart s n e k = (t, .error ⟨.ecc, e⟩)) ∧
      (f.bad = false →
        let d := overlay (normalise t t.cid e &&& ~~~31) t.hart.s1base (t.hart.task.map (·.tag)) t.core.log f.data
        readPart s n e k = (t, .ok ((List.range k).map (fun i => sectorByte d (e.toNat % 32 + i)), f.mask))))) ∧
  (∀ (s : State) (n : Need) (e : Dword) (x : BitVec 20) (o : Nat), formOf s s.cid e = .slice x o →
    x.toNat % 4096 = s.cid → 0x1000 ≤ o → inLog s.core (o / 32 * 32) 32 = false →
    let key := sectorKey (sliceKey s.cid o)
    readSector s s.agent n e = (s, .ok
      { key := key, data := memSector s.mem key, mask := bankMask s s.cid (o / 0x8000), bad := isMarked s key })) ∧
  -- a load of one sector, or of two
  (∀ (s t u : State) (e : Dword) (n : Nat) (q : Trap) (bs cs : List Byte) (m l : Mask),
    let s' := { s with hart := { s.hart with near := ownSlice s s.cid e } }
    let k := 32 - e.toNat % 32
    (n ≤ k →
      (readPart s' needRead e n = (t, .error q) → loadBytes s e n = (t, .error q)) ∧
      (readPart s' needRead e n = (t, .ok (bs, m)) → loadBytes s e n = (t, .ok (bs, m)))) ∧
    (k < n → n ≤ k + 32 →
      (readPart s' needRead e k = (t, .error q) → loadBytes s e n = (t, .error q)) ∧
      (readPart s' needRead e k = (t, .ok (bs, m)) →
        (readPart t needRead (e + BitVec.ofNat 64 k) (n - k) = (u, .error q) → loadBytes s e n = (u, .error q)) ∧
        (readPart t needRead (e + BitVec.ofNat 64 k) (n - k) = (u, .ok (cs, l)) →
          loadBytes s e n = (u, .ok (bs ++ cs, m ||| l))))))

/-! ### Vector loads and stores -/

/-- 09 R146, R151 to R156: vector loads write the lanes they read, by the zeroing policies, with the label read;
a fault traps by the rules of scalar loads; VLD.ff ends the vector at a fault past its first lane. The model's choices
here: VLD.ff sets VT.VL at issue (notes/assumptions/73.md) and waits for a missing stage-2 entry of a later lane (95.md),
memory and inactive lanes are those at issue (7.md), a load reads each sector once (87.md). -/
def Obligations.VectorLoadResults : Prop :=
  ∀ (s t : State) (d a b : Reg) (m : BitVec 3) (z : BitVec 1) (l : BitVec 4) (r : LaneReads),
    let h := s.hart
    let n := max 1 (elemWidth h.et / 8)
    let lanes := (List.range (laneCount h.et)).filter (h.active m)
    let unit_ := fun k => h.rx a + dw (if h.et = 15 then k / 2 else k * n)
    let stride := fun k : Nat => BitVec.ofInt 64 ((h.rx a).toInt + k * (h.rx b).toInt)
    let offset := fun k => BitVec.ofInt 64 ((h.rx a).toInt + sval (elemWidth h.et) (h.laneA b k) * n)
    let at_ := fun (addr : Nat → Dword) k => ((baseAddress h a (addr k) n).map Prod.fst, addr k)
    let loads := fun (i : Instr) (once : Bool) (lanes : List Nat) (addr : Nat → Dword) (val : Nat → Nat) =>
      (∀ q, laneAddrFault s false n (at_ addr) lanes = some q → TrapsL i s q.cause q.val) ∧
      (laneAddrFault s false n (at_ addr) lanes = none →
        readLanes (nearLanes s (at_ addr) lanes) once n (at_ addr) lanes [] ⟨[], 0, none⟩ = (t, r) →
        (∀ k q, r.fault = some (k, q) → Runs i s (issueL t l (.v d 0) 0 false (some q))) ∧
        (r.fault = none → ∃ v, Runs i s (issueL (widenHla t r.mask) l (.v d v) 0 false none) ∧
          MergedLanes h m (z == 1) (h.rv d) v val))
    let nibble := fun k v => if h.et = 15 then v / 16 ^ (k % 2) % 16 else v
    let got := fun k => nibble k ((assocGet r.vals k).getD 0)
    let word := h.iword.setWidth 64
    loads (.vld d a m z l) true lanes unit_ got ∧
    (h.et < 15 →
      loads (.vldSt d a b m z l) false lanes stride got ∧ loads (.vldGt d a b m z l) false lanes offset got ∧
      loads (.vldBc d a m z l) true (lanes.take 1) (fun _ => h.rx a)
        (fun _ => ((r.vals.head?).map Prod.snd).getD 0)) ∧
    (15 ≤ h.et → Traps (.vldSt d a b m z l) s .illegal word ∧ Traps (.vldGt d a b m z l) s .illegal word ∧
      Traps (.vldBc d a m z l) s .illegal word) ∧
    (readLanes (nearLanes s (at_ unit_) lanes) true n (at_ unit_) lanes [] ⟨[], 0, none⟩ = (t, r) →
      (r.fault = none → ∃ v, Runs (.vldFf d a m z l) s (issueL (widenHla t r.mask) l (.v d v) 0 false none) ∧
        MergedLanes h m (z == 1) (h.rv d) v got) ∧
      ∀ k q, r.fault = some (k, q) →
        (lanes.head? = some k → exec (.vldFf d a m z l) s = exec (.vld d a m z l) s) ∧
        (lanes.head? ≠ some k → ∃ v,
          let u := issueL (widenHla t r.mask) l (.v d v) 0 false none
          Runs (.vldFf d a m z l) s { u with hart := { u.hart with
            vt := BitVec.ofNat 64 (u.hart.vt.toNat - u.hart.vl * 256 + k * 256) } } ∧
          ∀ j, j < laneCount h.et → lane v (elemWidth h.et) j =
            if j < k ∧ h.active m j = true then got j % 2 ^ elemWidth h.et
            else if j < k ∧ j < h.al then (if h.mp = true ∨ z = 1 then 0 else lane (h.rv d) (elemWidth h.et) j)
            else if h.tp = true then 0 else lane (h.rv d) (elemWidth h.et) j))

/-- 09 R151 to R154, R157: vector stores check every lane's address first, then store the lanes' bytes: by
sector in ascending order, one sequence of element stores for VST.sc. Outside a task, with no address fault, no label
to widen and room in the log for a record a piece, each of them completes. The model's choices here: VST.sc appends a
record for each part of an element (notes/assumptions/24.md), no records are coalesced (55.md), sectors are told apart
by their S-space names (87.md). -/
def Obligations.VectorStoreResults : Prop :=
  ∀ (s : State) (d a b : Reg) (m : BitVec 3),
    let h := s.hart
    let n := max 1 (elemWidth h.et / 8)
    let lanes := (List.range (laneCount h.et)).filter fun k => h.active m k && (h.et != 15 || k % 2 == 0)
    let stores := fun (i : Instr) (addr : Nat → Dword) (ps : List LaneStore → List Piece) =>
      let at_ := fun k => ((baseAddress h a (addr k) n).map Prod.fst, addr k)
      (∀ q, laneAddrFault s true n at_ lanes = some q → Traps i s q.cause q.val) ∧
      let pieces := ps (lanes.map fun k =>
        let e := (baseAddress h a (addr k) n).getD (0, false)
        let v := if h.et = 15 then h.laneA d k + 16 * h.laneA d (k + 1) else h.laneA d k
        { addr := e.1, bytes := (List.range n).map fun j => BitVec.ofNat 8 (v / 256 ^ j), stk := e.2 })
      (laneAddrFault s true n at_ lanes = none → Stores i s pieces) ∧
      ((∀ k ∈ lanes, ∃ e sp, baseAddress h a (addr k) n = some (e, sp) ∧
          addrFault s s.agent true true (parts e n) = none) →
        inTask h = false → BanksHoldLabel s → s.core.log.length + pieces.length ≤ s.core.logsize.toNat / 48 →
        ∃ t, Runs i s t ∧ t.hart = h.retire)
    let word := h.iword.setWidth 64
    stores (.vst d a m) (fun k => h.rx a + dw (if h.et = 15 then k / 2 else k * n)) (sortedPieces (normalise s s.cid) · []) ∧
    (h.et < 15 →
      stores (.vstSt d a b m) (fun k : Nat => BitVec.ofInt 64 ((h.rx a).toInt + k * (h.rx b).toInt))
        (sortedPieces (normalise s s.cid) · []) ∧
      stores (.vstSc d a b m)
        (fun k => BitVec.ofInt 64 ((h.rx a).toInt + sval (elemWidth h.et) (h.laneA b k) * n))
        fun xs => xs.flatMap fun x => piecesOf x.addr x.bytes x.stk) ∧
    (15 ≤ h.et → Traps (.vstSt d a b m) s .illegal word ∧ Traps (.vstSc d a b m) s .illegal word)

/-! ### Atomics, publication and labels -/

/-- 11 R204, R219, R224: at its home an atomic reads the old value and, but for LD, replaces it once the
location's label has absorbed that of the write; SWAP and ST store the operand. -/
def Obligations.AtomicOperations : Prop :=
  ∀ (s u : State) (ag : Agent) (loc : Location) (w v cmp : Nat) (label : Mask) (c : Cause), w = 32 ∨ w = 64 →
    v < 2 ^ w → cmp < 2 ^ w →
    let old := amoOld s ag loc.key (w / 8)
    let absorbed := (loc.place.map fun pl => openPage u ag.launch pl).getD u
    let leaves := fun (op new : Nat) (fl : Flags) => amoApply s ag loc op w v cmp label =
      .ok ({ absorbed with mem := memWrite absorbed.mem loc.key (w / 8) new }, old, fl)
    amoApply s ag loc 11 w v cmp label = .ok (s, old, 0) ∧
    (amoLabel s ag loc label = .error c →
      ∀ op, op ≠ 11 → amoApply s ag loc op w v cmp label = .error c) ∧
    (amoLabel s ag loc label = .ok u →
      leaves 0 v 0 ∧ leaves 12 v 0 ∧ leaves 1 ((old + v) % 2 ^ w) 0 ∧
      (∃ x, leaves 2 x 0 ∧ ∀ i, x.testBit i = (old.testBit i && v.testBit i)) ∧
      (∃ x, leaves 3 x 0 ∧ ∀ i, x.testBit i = (old.testBit i || v.testBit i)) ∧
      (∃ x, leaves 4 x 0 ∧ ∀ i, x.testBit i = (old.testBit i != v.testBit i)) ∧
      leaves 5 (if sval w old ≤ sval w v then old else v) 0 ∧
      leaves 6 (if sval w v ≤ sval w old then old else v) 0 ∧
      leaves 7 (if old ≤ v then old else v) 0 ∧ leaves 8 (if v ≤ old then old else v) 0 ∧
      leaves 9 (if old = cmp then v else old) 0 ∧
      (let sum := fAdd (if w = 64 then .f64 else .f32) .rne old v
       leaves 10 sum.1 sum.2))

/-- 11 R204 to R206, R225: an atomic with acquire or release order synchronises first, one with release order
publishes; its faults come in the spec's order; it waits for the core's own records of the location; then the
home performs it, the tags of the location are acquired, and x[rd] takes the old value with its label. The model's
choices here: an unordered atomic behind its own held record takes that record's fault (notes/assumptions/74.md), the
operation is performed and HLA widened at issue (7.md), ADDR of host memory comes before the permission is judged
(87.md). -/
def Obligations.AtomicInstructions : Prop :=
  ∀ (s : State) (d a b : Reg) (wf : BitVec 1) (p : BitVec 2) (la : BitVec 4),
    let w := if wf = 1 then 32 else 64
    let form := fun (i : Instr) (op : Nat) (d b : Reg) =>
      -- the operation at a state, with the stamp of its release
      let performs := fun (u : State) (e : Dword) (st : Option Dword) =>
        let busy := u.core.log.filter (overlapsLocation u e (w / 8))
        let dest := fun v => if op = 12 then Dest.none else .x d v
        let blocks := fun (r : Record) => busy.any fun x => !x.pubd || decide (r.rid ≤ x.rid)
        (busy ≠ [] → ∀ r q, heldOf u u.hgid = some (r, q) →
          (blocks r = true → Runs i s (raiseDeferred u q r.pc)) ∧ (blocks r = false → Runs i s (stall u))) ∧
        (busy ≠ [] → heldOf u u.hgid = none →
          Runs i s (stall (if busy.any (fun r => !r.pubd) && u.core.held.isNone then sendUpTo u e (w / 8) else u))) ∧
        (busy = [] → ∀ (t : State) (loc : Location) (c : Cause),
          (amoLocate u u.agent op e = (t, .error c) → Runs i s (issueL t la (dest 0) 0 false (some ⟨c, e⟩))) ∧
          (amoLocate u u.agent op e = (t, .ok loc) →
            let done := amoApply t t.agent loc op w ((u.hart.rx b).toNat % 2 ^ w)
              ((t.hart.rx d).toNat % 2 ^ w) (hlaMask t ||| loc.mask)
            (done = .error c → Runs i s (issueL t la (dest 0) 0 false (some ⟨c, e⟩))) ∧
            ∀ (v : State) (old : Nat) (fl : Flags), done = .ok (v, old, fl) →
              let read := dropView v v.cid [sectorKey loc.key]
              let got := if p = 1 ∨ p = 3 then tagsAt read loc.key else []
              let tagged := match st with
                | some st => if isPrivate read read.cid e then read else tagLocation read loc.key read.cid st
                | none => read
              let seen := acquireEntries tagged tagged.cid got
              let seen := if op = 12 then seen else widenHla seen loc.mask
              let x := if w = 32 ∧ op ≠ 10 then BitVec.ofInt 64 (sval 32 old) else dw old
              Runs i s (issueL seen la (dest x) fl (op == 10) none)))
      let goes := fun (u : State) =>
        let e := u.hart.rx a
        let fault := amoIssueFault u op e (w / 8)
        (∀ q, fault = some q → Runs i s (raiseL u q.cause q.val)) ∧
        (fault = none →
          (p = 0 ∨ p = 1 → performs u e none) ∧
          (p = 2 ∨ p = 3 →
            let r := afterRelease u
            (isForming r.1.core r.2 = true → Runs i s (stall r.1)) ∧
            (isForming r.1.core r.2 = false → performs r.1 e (some r.2))))
      (p = 0 → goes s) ∧ (p ≠ 0 → Synchronises i s goes)
    form (.amoSwap d a b wf p la) 0 d b ∧ form (.amoAdd d a b wf p la) 1 d b ∧
    form (.amoAnd d a b wf p la) 2 d b ∧ form (.amoOr d a b wf p la) 3 d b ∧
    form (.amoXor d a b wf p la) 4 d b ∧ form (.amoMin d a b wf p la) 5 d b ∧
    form (.amoMax d a b wf p la) 6 d b ∧ form (.amoMinn d a b wf p la) 7 d b ∧
    form (.amoMaxn d a b wf p la) 8 d b ∧ form (.amoCas d a b wf p la) 9 d b ∧
    form (.amoFadd d a b wf p la) 10 d b ∧ form (.amoLd d a wf p la) 11 d 0 ∧
    form (.amoSt a b wf p la) 12 0 b

/-- 11 R195 to R197: forming a release advances LCLK past every stamp acquired since the last one, names it by the new
stamp, sends every record not of a task, and puts every record appended so far in its tail; acquiring the log of a
core of the same tenant takes its named release, or its latest completed one where the stamp names none, with the
completed releases of its tenant that its set names, entry by entry, and those that their sets name in turn, and no
others; each drops from the view of the acquirer what it had written and counts its stamp for LCLK. A region names the
latest release of each core of the tenant in it. An acquire waits while the release it names forms. The log of another
tenant gives nothing. -/
def Obligations.ReleasesAndAcquires : Prop :=
  (∀ (s : State) (t : State) (st : Dword), formRelease s s.cid = (t, st) →
     let c := s.core
     let clock := Min.min (Max.max c.lclk c.acqMax + 1) (2 ^ 44 - 1)
     st = BitVec.ofNat 64 (clock * 2 ^ 20 + (s.pk.pkg * 4096 + s.cid) % 2 ^ 20) ∧
     t = { s with core := t.core } ∧
     t.core = { c with log := t.core.log, lclk := clock, acqMax := 0, forming := t.core.forming } ∧
     (∃ r : Release, t.core.forming = c.forming ++ [r] ∧ r.stamp = st ∧ r.bound = c.nextRid ∧
       ∀ e, e ∈ r.set ↔ e ∈ c.acquired ∧ s.cycle < e.2 + 4096) ∧
     (c.held = none → t.core.log = c.log.map fun r => if r.task = true then r else { r with pubd := true }) ∧
     (c.lclk < 2 ^ 44 - 1 → c.lclk < t.core.lclk)) ∧
  (∀ (s : State) (log : Nat) (st : Dword),
     (tenantOf s s.cid ≠ tenantOf s log → acquireLog s s.cid log st = s) ∧
     (tenantOf s s.cid = tenantOf s log →
       (chosenRelease (getCore s log) st = none → acquireLog s s.cid log st = s) ∧
       ∀ r, chosenRelease (getCore s log) st = some r →
         let rs := releasesIn s s.cid (1 + setEntries s + 1) [.pair log st] []
         let names := fun (x y : Release) => ∃ e ∈ x.set, y ∈ namedReleases s s.cid e.1
         acquireLog s s.cid log st =
           addEntries (seeAll s s.cid rs) s.cid (.pair log r.stamp :: r.set.map Prod.fst) ∧
         -- that release, those that its set names, and so on, and no others
         r ∈ rs ∧ (∀ x ∈ rs, ∀ y, names x y → y ∈ rs) ∧
         ∀ P : Release → Prop, P r → (∀ x y, P x → names x y → P y) → ∀ x ∈ rs, P x)) ∧
  -- the release that a stamp takes, and those that an entry names
  (∀ (c : Core) (st : Dword),
     let k := st.toNat / 2 ^ 20
     let named := k ≠ 0 ∧ k ≠ 2 ^ 44 - 1 ∧ ∃ r ∈ c.done, r.stamp = st
     (named → ∃ r ∈ c.done, r.stamp = st ∧ chosenRelease c st = some r) ∧
     (¬ named → chosenRelease c st = c.done.getLast?)) ∧
  (∀ (s : State) (c sc : Nat) (st : Dword) (r : Release),
     let mine := fun (c : Nat) => tenantOf s s.cid = tenantOf s c
     let latest := fun (c : Nat) => (getCore s c).done.getLast? = some r
     (r ∈ namedReleases s s.cid (.pair c st) ↔ mine c ∧ chosenRelease (getCore s c) st = some r) ∧
     ((tenantOf s s.cid).isSome = true →
       (r ∈ namedReleases s s.cid (.region sc c) ↔ ∃ x, mine x ∧ inScope sc c x = true ∧ latest x) ∧
       (r ∈ namedReleases s s.cid (.homeRegion sc c) ↔ ∃ x, mine x ∧ inHomeRegion sc c x = true ∧ latest x)) ∧
     (mustWait s s.cid c st = true ↔ mine c ∧ st.toNat / 2 ^ 20 ≠ 2 ^ 44 - 1 ∧
       ((∃ x ∈ (getCore s c).forming, x.stamp = st) ∨
        ∃ l ∈ s.pk.launches, ∃ y ∈ l.saved, y.1 = c ∧ ∃ x ∈ y.2.forming, x.stamp = st))) ∧
  (∀ (s : State) (x : Nat) (l : List Release),
     seeAll s x [] = s ∧ ∀ r, seeAll s x (r :: l) = seeAll (seeRelease s x r) x l) ∧
  (∀ (s : State) (r : Release), seeRelease s s.cid r = { s with core := { s.core with
     view := s.core.view.filter fun v => decide (v.key ∉ r.sectors)
     acqMax := Max.max s.core.acqMax (r.stamp.toNat / 2 ^ 20) } })

/-- 11 R197 to R199, R226, R227: PUB and FENCE publish and wait, PUBN publishes without waiting, PUBWAIT waits
for the named or the last release, ACQ for the release its stamp names; ACQ, ACQS and FENCE acquire, IACQ
empties the instruction buffer, and counts the blocks in it whose fault was not reported (17 R330), LOGSTAT reads the
stamp of the last completed release. The model's choices: an ACQ which names a log of another package has no effect
(notes/assumptions/3.md), and a release behind a held record forms on with its launch when that is pre-empted (102.md). -/
def Obligations.SynchronisationResults : Prop :=
  ∀ (s : State) (d a : Reg) (sc : BitVec 4),
    Synchronises (.pub d) s (fun u => Publishes (.pub d) s u fun t st => { t with hart := (t.hart.wx d st).retire }) ∧
    (let t := settle (formRelease s s.cid).1 s.cid
     Runs (.pubn d) s { t with hart := (t.hart.wx d (formRelease s s.cid).2).retire }) ∧
    Synchronises (.pubwait a) s (fun u =>
      let v := u.hart.rx a
      let forming := fun (x : Dword) => (∃ r ∈ u.core.forming, r.stamp = x) ∨
        ∃ l ∈ u.pk.launches, ∃ c ∈ l.saved, c.1 = u.cid ∧ ∃ r ∈ c.2.forming, r.stamp = x
      let named : Prop := v.toNat / 2 ^ 20 ≠ 0 ∧ v.toNat % 2 ^ 20 = (u.pk.pkg * 4096 + u.cid) % 2 ^ 20 ∧
        (forming v ∨ ∃ r ∈ u.core.done, r.stamp = v)
      let waits := fun (st : Option Dword) =>
        (st = none → Runs (.pubwait a) s { u with hart := u.hart.retire }) ∧
        ∀ x, st = some x →
          (forming x → Runs (.pubwait a) s (stall { u with hart := { u.hart with waitStamp := some x } })) ∧
          (¬ forming x → Runs (.pubwait a) s { u with hart := u.hart.retire })
      (∀ x, u.hart.waitStamp = some x → waits (some x)) ∧
      (u.hart.waitStamp = none → (named → waits (some v)) ∧
        (¬ named → waits (u.core.forming.getLast?.map (·.stamp))))) ∧
    Synchronises (.acq a) s (fun u =>
      let v := u.hart.rx a
      let c := v.toNat % 4096
      (v.toNat % 2 ^ 20 / 4096 ≠ u.pk.pkg → Runs (.acq a) s { u with hart := u.hart.retire }) ∧
      (v.toNat % 2 ^ 20 / 4096 = u.pk.pkg →
        (mustWait u u.cid c v = true →
          Runs (.acq a) s (stall { u with hart := { u.hart with waitStamp := some v } })) ∧
        (mustWait u u.cid c v = false → Runs (.acq a) s (onHart (acquireLog u u.cid c v) Hart.retire)))) ∧
    Synchronises (.acqs sc) s (fun u => Runs (.acqs sc) s (onHart (acquireScope u u.cid sc.toNat) Hart.retire)) ∧
    Synchronises (.fence sc) s (fun u => Publishes (.fence sc) s u fun t _ =>
      onHart (acquireScope t t.cid sc.toNat) Hart.retire) ∧
    Synchronises .iacq s (fun u => Runs .iacq s { u with hart := { u.hart.retire with
      ibuf := [], perf := bump u.hart.retire.perf 15
        (u.hart.ibuf.filter fun b => b.faultLo.isSome || b.faultHi.isSome).length } }) ∧
    WritesX (.logstat d) s d
      ((s.core.done.getLast?.map (·.stamp)).getD (BitVec.ofNat 64 ((s.pk.pkg * 4096 + s.cid) % 2 ^ 20)))

/-- 11 R228, R218: LBLGET reads a third of an allocated LSID's set, LBLSUB compares two sets, an unallocated
LSID is LABEL; LBLPAGE gives the LSID of a page or bank, checked as a load of one byte. Of a page of host memory it is
the LSID field of the HOST leaf, the model's choice (notes/assumptions/51.md), as is STVAL of LABEL, the value that names
the set (32.md). -/
def Obligations.LabelInstructionResults : Prop :=
  ∀ (s t : State) (d a b : Reg) (k : BitVec 5) (x y : Mask) (q : Trap) (c : BitVec 20) (off : Nat) (n : Bool)
      (va : Nat) (pl : Place) (cs : Cause),
    let e := s.hart.rx a
    (3 ≤ k.toNat → Traps (.lblget d a k) s .illegal (s.hart.iword.setWidth 64)) ∧
    (k.toNat < 3 → namedMask s e = none → Traps (.lblget d a k) s .label e) ∧
    (k.toNat < 3 → namedMask s e = some x →
      WritesX (.lblget d a k) s d (BitVec.ofNat 64 (x.toNat / 2 ^ (64 * k.toNat)))) ∧
    (namedMask s e = none → Traps (.lblsub d a b) s .label e) ∧
    (namedMask s e = some x →
      (namedMask s (s.hart.rx b) = none → Traps (.lblsub d a b) s .label (s.hart.rx b)) ∧
      (namedMask s (s.hart.rx b) = some y →
        ∃ v, WritesX (.lblsub d a b) s d v ∧ (v = 0 ∨ v = 1) ∧
          (v = 1 ↔ ∀ i, i < 192 → x.getLsbD i = true → y.getLsbD i = true))) ∧
    (addrFault s s.agent false true [(e, 1)] = some q → TrapsL (.lblpage d a) s q.cause q.val) ∧
    (addrFault s s.agent false true [(e, 1)] = none →
      (formOf s s.cid e = .slice c off →
        let core := c.toNat % 4096
        (readRefused s s.cid core off = some n → Runs (.lblpage d a) s
          (issueL (if n = true then countRefusal s core else s) 0 (.x d 0) 0 false (some ⟨.win, e⟩))) ∧
        (readRefused s s.cid core off = none →
          (isMarked s (sliceKey core off) = true →
            Runs (.lblpage d a) s (issueL s 0 (.x d 0) 0 false (some ⟨.ecc, e⟩))) ∧
          (isMarked s (sliceKey core off) = false → Runs (.lblpage d a) s
            (issueL s 0 (.x d (BitVec.ofNat 64
              ((((getCore s core).blbl[off / 0x8000]?).getD 0).toNat % 1024))) 0 false none)))) ∧
      (formOf s s.cid e = .virt va →
        (translate s s.agent needRead va = (t, .error cs) →
          Runs (.lblpage d a) s (issueL t 0 (.x d 0) 0 false (some ⟨cs, e⟩))) ∧
        (translate s s.agent needRead va = (t, .ok pl) →
          let u := reachPlace t pl
          (placeMarked t pl = true → Runs (.lblpage d a) s (issueL u 0 (.x d 0) 0 false (some ⟨.ecc, e⟩))) ∧
          (placeMarked t pl = false → Runs (.lblpage d a) s
            (issueL u 0 (.x d (BitVec.ofNat 64 (pl.leaf.toNat / 2 ^ 52 % 1024))) 0 false none)))))

/-! ### Frames -/

/-- 03 R61, R62, 07 R138: REPF captures the words after it and starts their first iteration; a word that cannot be fetched
or stand in a frame traps with its own address and starts nothing. In iteration j each register field names its
register plus j times the step, modulo 32, as for ADD and FMADD here; in iteration 0 every word executes as captured. -/
def Obligations.FrameExecution : Prop :=
  (∀ (s t : State) (n : BitVec 4) (i : BitVec 8) (d a b c : BitVec 3) (ws : List IWord) (q : Cause) (e : Dword),
     (capture s (s.hart.pc + 4) (n.toNat + 1) [] = (t, .wait) → Runs (.repf n i d a b c) s (pause t)) ∧
     (capture s (s.hart.pc + 4) (n.toNat + 1) [] = (t, .fault q e) → Runs (.repf n i d a b c) s (raise t q e)) ∧
     (capture s (s.hart.pc + 4) (n.toNat + 1) [] = (t, .words ws) →
       ws.length = n.toNat + 1 ∧
       Runs (.repf n i d a b c) s { t with hart := { t.hart.jump (t.hart.pc + 4) with
         frame := some { words := ws, iters := i.toNat + 1, sd := d, sa := a, sb := b, sc := c, iter := 0, pos := 0
                         base := t.hart.pc } } })) ∧
  -- it completes where the instruction buffer holds the words, each of a major opcode that a frame allows
  (∀ (s : State) (n : BitVec 4) (i : BitVec 8) (d a b c : BitVec 3) (word : Nat → IWord),
     let at_ := fun (j : Nat) => s.hart.pc + BitVec.ofNat 64 (4 * (j + 1))
     (∀ j, j ≤ n.toNat →
       (s.hart.mode = .user → s.hart.codeBase.toNat ≤ (at_ j).toNat ∧
         (at_ j).toNat < s.hart.codeBase.toNat + s.hart.codeSize) ∧
       (∃ block, heldBlock s.hart (at_ j) = some block ∧ blockWord block (at_ j) = .word (word j)) ∧
       frameMajor ((word j).toNat / 2 ^ 26) = true) →
     Runs (.repf n i d a b c) s { s with hart := { s.hart.jump (s.hart.pc + 4) with
       frame := some { words := (List.range (n.toNat + 1)).map word, iters := i.toNat + 1, sd := d, sa := a, sb := b
                       sc := c, iter := 0, pos := 0, base := s.hart.pc } } }) ∧
  (∀ (f : Frame) (d a b c : Reg) (ty : BitVec 2),
     let step := fun (r : Reg) (k : BitVec 3) => BitVec.ofNat 5 (r.toNat + f.iter * k.toNat)
     (encode (.add d a b)).map (stepWord f) = encode (.add (step d f.sd) (step a f.sa) (step b f.sb)) ∧
     (encode (.fmadd d a b c ty)).map (stepWord f) =
       encode (.fmadd (step d f.sd) (step a f.sa) (step b f.sb) (step c f.sc) ty) ∧
     (f.iter = 0 → ∀ w, stepWord f w = w))

/-! ### Vector instructions -/

/-- 09 R145, R146, R159, R160, R166, R167: vector integer instructions work lane by lane modulo 2^w, write their
active lanes and treat the others by the policies; saturating forms clamp, a zero divisor gives all ones and the
dividend; a floating or q element type is ILLEGAL. VMERGE takes any type. -/
def Obligations.VectorIntegerResults : Prop :=
  ∀ (s : State) (d a b : Reg) (m : BitVec 3) (v z : BitVec 1) (l : BitVec 4),
    let h := s.hart
    let w := elemWidth h.et
    let x := h.laneA a
    let y := h.laneB v b
    let sx := fun k => sval w (x k)
    let sy := fun k => sval w (y k)
    let int := fun (n : Int) => (n % (2 ^ w : Nat)).toNat
    let clamp := fun (n : Int) => int (Max.max (-(2 ^ (w - 1) : Nat)) (Min.min ((2 ^ (w - 1) : Nat) - 1) n))
    let lanes := fun (i : Instr) (f : Nat → Nat) => WritesLanes i s d m (z == 1) f fun _ => 0
    let mask := fun (i : Instr) (f : Nat → Bool) => WritesMask i s (maskDest d) m (z == 1) f fun _ => 0
    let long := fun (i : Instr) (f : Nat → Nat) =>
      ∃ r, Runs i s (issueL s l (.v d r) 0 false none) ∧ MergedLanes h m (z == 1) (h.rv d) r f
    let yv := h.laneA b
    (h.et < 8 →
      lanes (.vadd d a b m v z) (fun k => x k + y k) ∧ lanes (.vsub d a b m v z) (fun k => x k + 2 ^ w - y k) ∧
      lanes (.vmul d a b m v z) (fun k => x k * y k) ∧
      lanes (.vmulh d a b m v z) (fun k => int (sx k * sy k / (2 ^ w : Nat))) ∧
      lanes (.vmulhn d a b m v z) (fun k => x k * y k / 2 ^ w) ∧
      lanes (.vand d a b m v z) (fun k => x k &&& y k) ∧ lanes (.vor d a b m v z) (fun k => x k ||| y k) ∧
      lanes (.vxor d a b m v z) (fun k => x k ^^^ y k) ∧ lanes (.vandn d a b m v z) (fun k => x k - (x k &&& y k)) ∧
      lanes (.vsll d a b m v z) (fun k => x k * 2 ^ (y k % w)) ∧
      lanes (.vsrl d a b m v z) (fun k => x k / 2 ^ (y k % w)) ∧
      lanes (.vsra d a b m v z) (fun k => int (sx k / (2 ^ (y k % w) : Nat))) ∧
      lanes (.vmin d a b m v z) (fun k => if sx k ≤ sy k then x k else y k) ∧
      lanes (.vmax d a b m v z) (fun k => if sx k ≤ sy k then y k else x k) ∧
      lanes (.vminn d a b m v z) (fun k => Min.min (x k) (y k)) ∧
      lanes (.vmaxn d a b m v z) (fun k => Max.max (x k) (y k)) ∧
      lanes (.vsadd d a b m v z) (fun k => clamp (sx k + sy k)) ∧
      lanes (.vssub d a b m v z) (fun k => clamp (sx k - sy k)) ∧
      lanes (.vsaddn d a b m v z) (fun k => Min.min (2 ^ w - 1) (x k + y k)) ∧
      lanes (.vssubn d a b m v z) (fun k => x k - y k) ∧
      lanes (.vabsd d a b m v z) (fun k => (sx k - sy k).natAbs) ∧
      mask (.vseq d a b m v z) (fun k => decide (x k = y k)) ∧
      mask (.vsne d a b m v z) (fun k => decide (x k ≠ y k)) ∧
      mask (.vslt d a b m v z) (fun k => decide (sx k < sy k)) ∧
      mask (.vsltn d a b m v z) (fun k => decide (x k < y k)) ∧
      lanes (.vpopc d a m z) (fun k => (List.range w).countP fun j => (x k).testBit j) ∧
      lanes (.vclz d a m z) (fun k => if x k = 0 then w else w - 1 - Nat.log2 (x k)) ∧
      long (.vdiv d a b m z l) (fun k => if yv k = 0 then 2 ^ w - 1 else int ((sx k).tdiv (sval w (yv k)))) ∧
      long (.vdivn d a b m z l) (fun k => if yv k = 0 then 2 ^ w - 1 else x k / yv k) ∧
      long (.vrem d a b m z l) (fun k => if yv k = 0 then x k else int ((sx k).tmod (sval w (yv k)))) ∧
      long (.vremn d a b m z l) (fun k => if yv k = 0 then x k else x k % yv k)) ∧
    (8 ≤ h.et → ∀ i ∈ [Instr.vadd d a b m v z, .vsub d a b m v z, .vmul d a b m v z, .vmulh d a b m v z,
        .vmulhn d a b m v z, .vand d a b m v z, .vor d a b m v z, .vxor d a b m v z, .vandn d a b m v z,
        .vsll d a b m v z, .vsrl d a b m v z, .vsra d a b m v z, .vmin d a b m v z, .vmax d a b m v z,
        .vminn d a b m v z, .vmaxn d a b m v z, .vsadd d a b m v z, .vssub d a b m v z, .vsaddn d a b m v z,
        .vssubn d a b m v z, .vabsd d a b m v z, .vseq d a b m v z, .vsne d a b m v z, .vslt d a b m v z,
        .vsltn d a b m v z],
      Traps i s .illegal (h.iword.setWidth 64)) ∧
    (8 ≤ h.et → ∀ i ∈ [Instr.vpopc d a m z, .vclz d a m z, .vdiv d a b m z l, .vdivn d a b m z l, .vrem d a b m z l,
        .vremn d a b m z l, .vrank d m, .vid d m, .vredsum d a b m v, .vredmin d a b m v, .vredmax d a b m v],
      Traps i s .illegal (h.iword.setWidth 64)) ∧
    ∃ r, WritesV (.vmerge d a b m v) s d r 0 ∧ ∀ k, k < laneCount h.et → lane r w k =
      if k < h.al then (if h.mbit m h.et k = true then y k else x k)
      else if h.tp = true then 0 else lane (h.rv d) w k

/-- 09 R145, R146, R161 to R163, R166, 05 R85 to R89: vector floating-point instructions apply the scalar
functions lane by lane under FRM, with the flags of the active lanes together; any other element type is ILLEGAL. The
model's choices here: VFCLASS raises no flag on a signalling NaN (notes/assumptions/45.md), and VFDIV and VFSQRT merge
the inactive lanes of vd as they stand at issue (7.md). -/
def Obligations.VectorFloatResults : Prop :=
  ∀ (s : State) (d a b c : Reg) (m : BitVec 3) (v z : BitVec 1) (l : BitVec 4),
    let h := s.hart
    let ty := Fmt.ofElem h.et
    let mode := h.rmode 7
    let x := h.laneA a
    let y := h.laneB v b
    let lanes := fun (i : Instr) (z : Bool) (f : Nat → Nat × Flags) =>
      WritesLanes i s d m z (fun k => (f k).1) fun k => (f k).2
    let sign := fun k => x k % 2 ^ (ty.w - 1)
    let top := fun (n : Nat) => n / 2 ^ (ty.w - 1)
    let compare := fun (i : Instr) (holds : Ordering → Bool) (quiet : Bool) =>
      WritesMask i s (maskDest d) m (z == 1)
        (fun k => !(ty.val (x k)).isNan && !(ty.val (y k)).isNan && holds (cmpVals (ty.val (x k)) (ty.val (y k))))
        fun k => if (ty.val (x k)).isNan || (ty.val (y k)).isNan then
            (if quiet then nanFlags (ty.val (x k)) ||| nanFlags (ty.val (y k)) else flagNV) else 0
    let fused := fun (i : Instr) (np nc : Bool) =>
      lanes i false fun k => fMulAdd ty mode np nc (x k) (h.laneA b k) (h.laneA c k)
    let long := fun (i : Instr) (f : Nat → Nat × Flags) => ∃ r,
      Runs i s (issueL s l (.v d r) (laneFlags (laneCount h.et) (h.active m) fun k => (f k).2) true none) ∧
        MergedLanes h m (z == 1) (h.rv d) r fun k => (f k).1
    (8 ≤ h.et ∧ h.et < 12 →
      lanes (.vfadd d a b m v z) (z == 1) (fun k => fAdd ty mode (x k) (y k)) ∧
      lanes (.vfsub d a b m v z) (z == 1) (fun k => fSub ty mode (x k) (y k)) ∧
      lanes (.vfmul d a b m v z) (z == 1) (fun k => fMul ty mode (x k) (y k)) ∧
      lanes (.vfmin d a b m v z) (z == 1) (fun k => fMinMax ty false false (x k) (y k)) ∧
      lanes (.vfmax d a b m v z) (z == 1) (fun k => fMinMax ty true false (x k) (y k)) ∧
      lanes (.vfmini d a b m v z) (z == 1) (fun k => fMinMax ty false true (x k) (y k)) ∧
      lanes (.vfmaxi d a b m v z) (z == 1) (fun k => fMinMax ty true true (x k) (y k)) ∧
      lanes (.vfsgc d a b m v z) (z == 1) (fun k => (top (y k) * 2 ^ (ty.w - 1) + sign k, 0)) ∧
      lanes (.vfsgi d a b m v z) (z == 1) (fun k => ((1 - top (y k)) * 2 ^ (ty.w - 1) + sign k, 0)) ∧
      lanes (.vfsgx d a b m v z) (z == 1)
        (fun k => ((top (x k) + top (y k)) % 2 * 2 ^ (ty.w - 1) + sign k, 0)) ∧
      lanes (.vfclass d a m z) (z == 1) (fun k => (fClass ty (x k), 0)) ∧
      compare (.vfeq d a b m v z) (fun o => o == .eq) true ∧
      compare (.vflt d a b m v z) (fun o => o == .lt) false ∧
      compare (.vfle d a b m v z) (fun o => o != .gt) false ∧
      fused (.vfmadd d a b c m) false false ∧ fused (.vfmsub d a b c m) false true ∧
      fused (.vfnmadd d a b c m) true true ∧ fused (.vfnmsub d a b c m) true false ∧
      long (.vfdiv d a b m z l) (fun k => fDiv ty mode (x k) (h.laneA b k)) ∧
      long (.vfsqrt d a m z l) (fun k => fSqrt ty mode (x k))) ∧
    (h.et < 8 ∨ 12 ≤ h.et → ∀ i ∈ [Instr.vfadd d a b m v z, .vfsub d a b m v z, .vfmul d a b m v z,
        .vfmin d a b m v z, .vfmax d a b m v z, .vfmini d a b m v z, .vfmaxi d a b m v z, .vfsgc d a b m v z,
        .vfsgi d a b m v z, .vfsgx d a b m v z, .vfclass d a m z, .vfeq d a b m v z, .vflt d a b m v z,
        .vfle d a b m v z, .vfmadd d a b c m, .vfmsub d a b c m, .vfnmadd d a b c m, .vfnmsub d a b c m,
        .vfdiv d a b m z l, .vfsqrt d a m z l, .vfdot2 d a b c m, .vfredsum d a b m v, .vfredseq d a b m v,
        .vfredmin d a b m v, .vfredmax d a b m v],
      Traps i s .illegal (h.iword.setWidth 64))

/-- 09 R164, R165, R168, 05 R99, R100: VFDOT2 adds the two exact products of the sources of a lane to the addend and
rounds once; VIDOT4 adds four 8-bit products modulo 2^32. A reduction writes lane 0 and leaves the others to the tail
policy: integer sums are exact modulo 2^w, integer minima and maxima are one of the values and bound the others,
floating reductions follow the fixed tree, VFREDSEQ the order of the lanes. -/
def Obligations.VectorReductionResults : Prop :=
  (∀ (s : State) (d a b c : Reg) (m : BitVec 3),
     let h := s.hart
     let takes := fun (n k : Nat) => decide (n * k < h.al) && (m = 0 || (h.rm m).getLsbD k)
     let merged := fun (n : Nat) (v : VReg) (f : Nat → Nat) => ∀ k, k < 16 → lane v 32 k =
       if takes n k = true then f k % 2 ^ 32
       else if n * k < h.al then (if h.mp = true then 0 else lane (h.rv d) 32 k)
       else if h.tp = true then 0 else lane (h.rv d) 32 k
     (h.et = 8 ∨ h.et = 9 →
       let ty := Fmt.ofElem h.et
       let f := fun k =>
         let one := mulVals (ty.val (h.laneA a (2 * k))) (ty.val (h.laneA b (2 * k)))
         let two := mulVals (ty.val (h.laneA a (2 * k + 1))) (ty.val (h.laneA b (2 * k + 1)))
         let sum := Fmt.f32.val (lane (h.rv c) 32 k)
         if 2 * k + 1 < h.al then addVals .f32 (h.rmode 7) (one.2 || two.2) [one.1, two.1, sum]
         else addVals .f32 (h.rmode 7) one.2 [one.1, sum]
       ∃ v, WritesV (.vfdot2 d a b c m) s d v (laneFlags 16 (takes 2) fun k => (f k).2) ∧
         merged 2 v fun k => (f k).1) ∧
     (h.et ≠ 8 ∧ h.et ≠ 9 → Traps (.vfdot2 d a b c m) s .illegal (h.iword.setWidth 64)) ∧
     (h.et = 0 ∨ h.et = 4 →
       let val := fun r k => if h.et = 0 then sval 8 (h.laneA r k) else (h.laneA r k : Int)
       let product := fun k => if k < h.al then val a k * val b k else 0
       ∃ v, WritesV (.vidot4 d a b c m) s d v 0 ∧ merged 4 v fun k =>
         ((product (4 * k) + product (4 * k + 1) + product (4 * k + 2) + product (4 * k + 3) +
           (lane (h.rv c) 32 k : Int)) % 2 ^ 32).toNat) ∧
     (h.et ≠ 0 ∧ h.et ≠ 4 → Traps (.vidot4 d a b c m) s .illegal (h.iword.setWidth 64))) ∧
  (∀ (s : State) (d a b : Reg) (m : BitVec 3) (v : BitVec 1),
     let h := s.hart
     let w := elemWidth h.et
     let start := h.laneB v b 0
     let lanes := (List.range (laneCount h.et)).filter (h.active m)
     let all := start :: lanes.map (h.laneA a)
     let order := fun n => if h.et < 4 then sval w n else (n : Int)
     let gives := fun (i : Instr) (r : Nat) (fl : Flags) => ∃ out, WritesV i s d out fl ∧
       lane out w 0 = r % 2 ^ w ∧
       ∀ k, k < laneCount h.et → 0 < k → lane out w k = if h.tp = true then 0 else lane (h.rv d) w k
     let values := (List.range (laneCount h.et)).map fun k => if h.active m k then some (h.laneA a k) else none
     let ty := Fmt.ofElem h.et
     (h.et < 8 →
       gives (.vredsum d a b m v) all.sum 0 ∧
       (∃ r, gives (.vredmin d a b m v) r 0 ∧ r ∈ all ∧ ∀ n ∈ all, order r ≤ order n) ∧
       ∃ r, gives (.vredmax d a b m v) r 0 ∧ r ∈ all ∧ ∀ n ∈ all, order n ≤ order r) ∧
     (8 ≤ h.et ∧ h.et < 12 →
       (let r := reduceTree (fAdd ty (h.rmode 7)) start values
        gives (.vfredsum d a b m v) r.1 r.2) ∧
       (let r := reduceTree (fMinMax ty false false) start values
        gives (.vfredmin d a b m v) r.1 r.2) ∧
       (let r := reduceTree (fMinMax ty true false) start values
        gives (.vfredmax d a b m v) r.1 r.2) ∧
       (let r := (lanes.map (h.laneA a)).foldl (fun (acc : Nat × Flags) n =>
          ((fAdd ty (h.rmode 7) acc.1 n).1, acc.2 ||| (fAdd ty (h.rmode 7) acc.1 n).2)) (start, 0)
        gives (.vfredseq d a b m v) r.1 r.2)))

/-- 09 R169 to R173, R179, R180: slides, permutes, squeezes, spreads, ranks, mask functions and moves between the register
files; VSETT writes VT and returns the active length; the instructions of the generator work on the four 128-bit lanes,
whatever VT holds. -/
def Obligations.VectorPermuteResults : Prop :=
  (∀ (s : State) (d a b k : Reg) (m : BitVec 3) (v : BitVec 1) (p q r : BitVec 3),
     let h := s.hart
     let w := elemWidth h.et
     let n := laneCount h.et
     let x := h.laneA a
     let rank := fun j => (List.range j).countP (h.active m)
     let lanes := fun (i : Instr) (f : Nat → Nat) => WritesLanes i s d m false f fun _ => 0
     let shift := if v = 1 then (h.rx k).toNat else k.toNat
     lanes (.vslideup d a k m v) (fun j => if shift ≤ j then x (j - shift) else h.laneA d j) ∧
     lanes (.vslidedn d a k m v) (fun j => if j + shift < n then x (j + shift) else 0) ∧
     (h.et < 15 → lanes (.vperm d a b m) fun j => if h.laneA b j < n then x (h.laneA b j) else 0) ∧
     (15 ≤ h.et → Traps (.vperm d a b m) s .illegal (h.iword.setWidth 64)) ∧
     (∃ o, WritesV (.vsqz d a m) s d o 0 ∧
       (∀ j, j < n → h.active m j = true → lane o w (rank j) = x j) ∧
       ∀ j, rank n ≤ j → j < n → lane o w j = if h.tp = true then 0 else lane (h.rv d) w j) ∧
     lanes (.vsprd d a m) (fun j => x (rank j)) ∧
     lanes (.vzip d a b m) (fun j => if j % 2 = 0 then x (j / 2) else h.laneA b (j / 2)) ∧
     lanes (.vunzip d a b m) (fun j => if j < n / 2 then x (2 * j) else h.laneA b (2 * (j - n / 2))) ∧
     (h.et < 8 → lanes (.vrank d m) rank ∧ lanes (.vid d m) fun j => j) ∧
     lanes (.vsplat d a m) (fun _ => (h.rx a).toNat) ∧ lanes (.vmov d a m) x ∧
     (let j := (h.rx b).toNat % n
      WritesX (.vext d a b) s d (if h.et < 4 then BitVec.ofInt 64 (sval w (x j)) else BitVec.ofNat 64 (x j)) ∧
      ∃ o, WritesV (.vins d a b) s d o 0 ∧ ∀ i, i < n →
        lane o w i = if i = j then (h.rx a).toNat % 2 ^ w else lane (h.rv d) w i) ∧
     (∃ o, WritesM (.vmand p q r) s p o 0 ∧ ∀ i, o.getLsbD i = ((h.rm q).getLsbD i && (h.rm r).getLsbD i)) ∧
     (∃ o, WritesM (.vmor p q r) s p o 0 ∧ ∀ i, o.getLsbD i = ((h.rm q).getLsbD i || (h.rm r).getLsbD i)) ∧
     (∃ o, WritesM (.vmxor p q r) s p o 0 ∧ ∀ i, o.getLsbD i = ((h.rm q).getLsbD i != (h.rm r).getLsbD i)) ∧
     (∃ o, WritesM (.vmnot p q) s p o 0 ∧ ∀ i, i < 64 → o.getLsbD i = !(h.rm q).getLsbD i) ∧
     WritesX (.vmpopc d q) s d (BitVec.ofNat 64 ((List.range 64).countP fun i => (h.rm q).getLsbD i)) ∧
     (∃ o, WritesX (.vmfirst d q) s d o ∧ (h.rm q = 0 → o = BitVec.allOnes 64) ∧
       ∀ i, i < 64 → (h.rm q).getLsbD i = true → (∀ j, j < i → (h.rm q).getLsbD j = false) →
         o = BitVec.ofNat 64 i) ∧
     WritesX (.vmtox d q) s d (h.rm q) ∧ WritesM (.vxtom p a) s p (h.rx a) 0 ∧ WritesX (.vgett d) s d h.vt ∧
     (let t := h.rx a
      let all := 512 / elemWidth (t.toNat % 16)
      let vl := t.toNat / 256 % 128
      Runs (.vsett d a) s { s with hart :=
        ({ h with vt := t &&& 0x1FF0F }.wx d
          (BitVec.ofNat 64 (if vl = 0 ∨ all ≤ vl then all else vl))).retire })) ∧
  (∀ (s : State) (d a b : Reg) (p : BitVec 3),
     let x := s.hart.rv a
     let y := s.hart.rv b
     (∃ v, WritesV (.vrmix d a b) s d v 0 ∧ ∀ k, k < 4 → ∀ i, i < 4 →
       some (lane v 32 (4 * k + i)) =
         (mixLane (fun j => BitVec.ofNat 32 (lane x 32 (4 * k + j)))
           fun j => BitVec.ofNat 32 (lane y 32 (4 * k + j)))[i]?) ∧
     (∃ v, WritesV (.vaddq d a b) s d v 0 ∧ ∀ k, k < 4 →
       lane v 128 k = (lane x 128 k + lane y 128 k) % 2 ^ 128) ∧
     ∃ v, WritesM (.veqq p a b) s p v 0 ∧ ∀ k, k < 64 →
       (v.getLsbD k = true ↔ k < 4 ∧ lane x 128 k = lane y 128 k))

/-- 09 R174 to R178, 05 R91, R92: conversions place converted lanes by their part: an active source lane's value goes
to its destination lane, others follow the policies, lanes outside the part stay; reserved pairings are ILLEGAL. The
model's choices here: VCVTS of an integer saturates for f8e4 and not for f8e5 (notes/assumptions/44.md), the flags are
those of the active source lanes of the part (87.md), q8, which VPACK saturates as n8, counts among the integer codes
of half the width of s16 and n16, and a signalling NaN widened sets NV (95.md). -/
def Obligations.VectorConversionResults : Prop :=
  ∀ (s : State) (d a b : Reg) (k : BitVec 5) (m : BitVec 3) (t : BitVec 4),
    let h := s.hart
    let ws := elemWidth h.et
    let wd := elemWidth t.toNat
    let mode := h.rmode 7
    let wide := Max.max ws wd / Min.min ws wd
    let dst := Fmt.ofElem t.toNat
    let places := fun (i : Instr) (p : Nat) (f : Nat → Nat × Flags) =>
      let inside := fun j => decide (ws ≤ wd ∨ (p * laneCount h.et ≤ j ∧ j < (p + 1) * laneCount h.et))
      let source := fun j => if ws ≤ wd then p * laneCount t.toNat + j else j - p * laneCount h.et
      let takes := fun j => inside j && h.active m (source j)
      let value := fun j => f (h.laneA a (source j))
      let old := fun j => lane (h.rv d) wd j
      ∃ v, WritesV i s d v (laneFlags (laneCount t.toNat) takes fun j => (value j).2) ∧
        ∀ j, j < laneCount t.toNat → lane v wd j =
          if inside j = false then old j
          else if h.active m (source j) = true then (value j).1 % 2 ^ wd
          else if source j < h.al then (if h.mp = true then 0 else old j)
          else if h.tp = true then 0 else old j
    let word := h.iword.setWidth 64
    let number := fun v => if h.et < 4 then sval ws v else (v : Int)
    let clamped := fun (signed : Bool) (w : Nat) (n : Int) => (satInt signed w n % (2 ^ w : Nat)).toNat
    let element := fun (saturate : Bool) v =>
      if h.et < 8 then
        if t.toNat < 8 then (clamped (decide (t.toNat < 4)) wd (number v), 0)
        else if saturate = true ∧ t.toNat = 12 then
          let r := fToFSat dst mode (.fin (number v < 0) (number v).natAbs 0)
          (r.1, r.2.1)
        else fToF dst mode (.fin (number v < 0) (number v).natAbs 0)
      else if t.toNat < 8 then
        let r := fToInt ((Fmt.ofElem h.et).val v) mode (decide (t.toNat < 4)) wd
        ((r.1 % (2 ^ wd : Nat)).toNat, r.2)
      else if saturate = true ∧ 12 ≤ t.toNat then
        let r := fToFSat dst mode ((Fmt.ofElem h.et).val v)
        (r.1, r.2.1)
      else fToF dst mode ((Fmt.ofElem h.et).val v)
    (h.et < 14 ∧ t.toNat < 14 ∧ h.et ≠ t.toNat ∧ k.toNat < wide →
      places (.vcvt d a k m t) k.toNat (element false) ∧ places (.vcvts d a k m t) k.toNat (element true)) ∧
    (14 ≤ h.et ∨ 14 ≤ t.toNat ∨ h.et = t.toNat ∨ wide ≤ k.toNat →
      Traps (.vcvt d a k m t) s .illegal word ∧ Traps (.vcvts d a k m t) s .illegal word) ∧
    (let scale := Fmt.f16.val ((h.rx b).toNat % 2 ^ 16)
     let zero := fun (w : Nat) => (h.rx b).toNat / 2 ^ 16 % 2 ^ w
     let part := (h.rx b).toNat / 2 ^ 32 % 16 % wide
     (8 ≤ h.et ∧ h.et < 12 ∧ 14 ≤ t.toNat → places (.vquant d a b m t) part fun v =>
       let r := qEncode ((Fmt.ofElem h.et).val v) scale (zero wd) wd
       (r.1, r.2.1)) ∧
     (h.et < 8 ∨ 12 ≤ h.et ∨ t.toNat < 14 → Traps (.vquant d a b m t) s .illegal word) ∧
     (14 ≤ h.et ∧ 8 ≤ t.toNat ∧ t.toNat < 12 → places (.vdeq d a b m t) part fun v =>
       let r := qDecode v scale (zero ws)
       if r.2 = true then (dst.nan, flagNV) else fToF dst mode r.1) ∧
     (h.et < 14 ∨ t.toNat < 8 ∨ 12 ≤ t.toNat → Traps (.vdeq d a b m t) s .illegal word)) ∧
    (let legal := ((t.toNat < 8 ∨ t = 14) ∧ h.et < 8 ∧ ws = 2 * wd) ∨ (t = 15 ∧ (h.et = 0 ∨ h.et = 4 ∨ h.et = 14))
     (legal → ∃ v, WritesV (.vpack d a b m t) s d v 0 ∧ ∀ j, j < 2 * laneCount h.et → lane v wd j =
       let i := j % laneCount h.et
       let src := if j < laneCount h.et then h.laneA a i else h.laneA b i
       if h.active m i = true then clamped (decide (t.toNat < 4)) wd (number src)
       else if i < h.al then (if h.mp = true then 0 else lane (h.rv d) wd j)
       else if h.tp = true then 0 else lane (h.rv d) wd j) ∧
     (¬ legal → Traps (.vpack d a b m t) s .illegal word)) ∧
    (let legal := k.toNat < 2 ∧ ((h.et < 8 ∧ t.toNat < 8 ∧ wd = 2 * ws) ∨ (h.et = 15 ∧ (t = 4 ∨ t = 14)) ∨
       (h.et = 14 ∧ t = 5))
     (legal → places (.vunpk d a k m t) k.toNat fun v => ((number v % (2 ^ wd : Nat)).toNat, 0)) ∧
     (¬ legal → Traps (.vunpk d a k m t) s .illegal word))

/-! ### Queues -/

/-- 13 R229 to R235, R259: binding, pushing, popping and the status of q registers; a push to a full queue waits
at its sender and stalls past QLIMIT, a pop from an empty one waits, behind its window where it has one, a message's
label joins HLA. An erroneous message leaves its queue with the ECC trap, which waits for outstanding class L
instructions and gives way to the fault of one (17 R322). STVAL of these faults is the model's choice: that of QBIND
(notes/assumptions/32.md), of a refused push (52.md), of a pop (53.md). -/
def Obligations.QueueInstructionResults : Prop :=
  ∀ (s : State) (q num : BitVec 4) (p : BitVec 3) (c : BitVec 20) (a d b : Reg) (l : BitVec 4) (m : Message)
      (rest : List Message) (t : Nat × BitVec 4),
    let h := s.hart
    let w := (h.rx a).toNat
    let word := h.iword.setWidth 64
    let bind := fun (x : Binding) =>
      Runs (.qbind q a) s { s with hart := { h with q := h.q.setIfInBounds q.toNat x }.retire }
    let wait := fun (i : Instr) => Runs i s (stall s)
    -- binding
    (inTask h = true ∧ 1 ≤ w / 2 ^ 60 ∧ w / 2 ^ 60 ≤ 3 → Traps (.qbind q a) s .taskctx 0) ∧
    (¬ (inTask h = true ∧ 1 ≤ w / 2 ^ 60 ∧ w / 2 ^ 60 ≤ 3) →
      let far := w % 2 ^ 20 / 512 ≠ (s.pk.pkg * 4096 + s.cid) % 2 ^ 20 / 512
      let core := w % 4096
      let number := BitVec.ofNat 4 (w / 2 ^ 32)
      let zeros := w / 2 ^ 36 % 2 ^ 24 = 0 ∧ w / 2 ^ 20 % 2 ^ 12 = 0
      (zeros ∧ w / 2 ^ 60 = 1 →
        (far → Traps (.qbind q a) s .diecross (h.rx a)) ∧
        (¬ far → inService s core = false → Traps (.qbind q a) s .addr (h.rx a)) ∧
        (¬ far → inService s core = true → samePartition s s.cid core = false → Traps (.qbind q a) s .win (h.rx a)) ∧
        (¬ far → inService s core = true → samePartition s s.cid core = true →
          bind (.send number (BitVec.ofNat 20 w)))) ∧
      (zeros ∧ w / 2 ^ 60 = 2 ∧ w % 2 ^ 20 = 0 → bind (.recv number)) ∧
      (zeros ∧ w / 2 ^ 60 = 3 ∧ w % 2 ^ 20 = 0 ∧ number.toNat < 8 → bind (.port (BitVec.ofNat 3 number.toNat))) ∧
      (¬ (zeros ∧ (w / 2 ^ 60 = 1 ∨ (w % 2 ^ 20 = 0 ∧ (w / 2 ^ 60 = 2 ∨ (w / 2 ^ 60 = 3 ∧ number.toNat < 8))))) →
        Traps (.qbind q a) s .illegal word)) ∧
    Runs (.qunbind q) s { s with hart := { h with q := h.q.setIfInBounds q.toNat .none }.retire } ∧
    -- pushing
    (∀ i wide data, (i = .qpush q a ∧ wide = false ∧ data = (h.rx a).setWidth 512) ∨
        (i = .qpushv q a ∧ wide = true ∧ data = h.rv a) →
      (inTask h = true → Traps i s .taskctx 0) ∧
      (inTask h = false → (∀ n e, h.binding q ≠ .send n e) → Traps i s .illegal word) ∧
      (inTask h = false → h.binding q = .send num c →
        let core := c.toNat % 4096
        let line := sendersAt s core num.toNat
        let msg : Message := { data := data, wide := wide, label := hlaMask s, hart := s.hgid, qreg := q, error := false
                               keeper := false, sess := none, launch := h.launch, lidx := h.lidx }
        (h.sendWait = none →
          (coreLaunch s core ≠ h.launch → Runs i s (raise (countRefusal s core) .win (BitVec.ofNat 64 c.toNat))) ∧
          (coreLaunch s core = h.launch →
            let room := (queueAt s core num.toNat).length + line.length < 8
            (room → Runs i s (onHart (setQueue s core num.toNat (queueAt s core num.toNat ++ [msg])) Hart.retire)) ∧
            (¬ room →
              let u := setSenders s core num.toNat (line ++ [msg])
              Runs i s (stall { u with hart := { u.hart with sendWait := some (core * 16 + num.toNat, q) } })))) ∧
        (h.sendWait = some t →
          let limit := s.core.qlimit.toNat % 2 ^ 32
          let late := limit ≠ 0 ∧ ∃ since, h.waitSince = some since ∧ since + limit < s.cycle
          (late → Traps i s .qstall (q.setWidth 64)) ∧ (¬ late → wait i)))) ∧
    -- popping
    (inTask h = true → Traps (.qpop q d l) s .taskctx 0 ∧ Traps (.qpopv q d l) s .taskctx 0 ∧
      Traps (.qpopt q d b) s .taskctx 0) ∧
    (inTask h = false →
      let same := b = d ∧ b ≠ 0
      (same → Traps (.qpopt q d b) s .illegal word) ∧
      (∀ x, h.binding q = x → (x = .none ∨ ∃ n e, x = .send n e) →
        Traps (.qpop q d l) s .illegal word ∧ Traps (.qpopv q d l) s .illegal word ∧
        Traps (.qpopt q d b) s .illegal word) ∧
      (h.binding q = .recv num →
        (queueAt s s.cid num.toNat = [] →
          (h.lookahead l = 0 → wait (.qpop q d l) ∧ wait (.qpopv q d l)) ∧
          (h.lookahead l ≠ 0 →
            Runs (.qpop q d l) s (issueL s l (.pop (.recv num) q d false) 0 false none) ∧
            Runs (.qpopv q d l) s (issueL s l (.pop (.recv num) q d true) 0 false none)) ∧
          (¬ same → Runs (.qpopt q d b) s { s with hart := (h.wx b 0).retire })) ∧
        (queueAt s s.cid num.toNat = m :: rest →
          let u := setQueue s s.cid num.toNat rest
          let got := widenHla u m.label
          (m.error = true →
            let ecc := some ⟨.ecc, q.setWidth 64⟩
            let traps := fun (i : Instr) (w t : State) =>
              (windowsWait s = true → wait i) ∧
              (windowsWait s = false → windowsFault s = true → Runs i s w) ∧
              (windowsWait s = false → windowsFault s = false → Runs i s t)
            (h.lookahead l ≠ 0 →
              Runs (.qpop q d l) s (issueL u l (.x d 0) 0 false ecc) ∧
              Runs (.qpopv q d l) s (issueL u l (.v d 0) 0 false ecc)) ∧
            (h.lookahead l = 0 →
              traps (.qpop q d l) (raiseL s .ecc (q.setWidth 64)) (raiseL u .ecc (q.setWidth 64)) ∧
              traps (.qpopv q d l) (raiseL s .ecc (q.setWidth 64)) (raiseL u .ecc (q.setWidth 64))) ∧
            (¬ same → traps (.qpopt q d b) (raiseWindow s) (raise u .ecc (q.setWidth 64)))) ∧
          (m.error = false →
            Runs (.qpop q d l) s (issueL got l (.x d (BitVec.ofNat 64 m.data.toNat)) 0 false none) ∧
            Runs (.qpopv q d l) s (issueL got l (.v d m.data) 0 false none) ∧
            (¬ same → Runs (.qpopt q d b) s
              { got with hart := ((got.hart.wx d (BitVec.ofNat 64 m.data.toNat)).wx b 1).retire })))) ∧
      (h.binding q = .port p →
        let n := (s.core.mailbox[p.toNat]?).getD 0
        Traps (.qpopv q d l) s .illegal word ∧
        (n = 0 →
          (h.lookahead l = 0 → wait (.qpop q d l)) ∧
          (h.lookahead l ≠ 0 → Runs (.qpop q d l) s (issueL s l (.pop (.port p) q d false) 0 false none)) ∧
          (¬ same → Runs (.qpopt q d b) s { s with hart := (h.wx b 0).retire })) ∧
        (n ≠ 0 →
          let u := { s with core := { s.core with
            mailbox := s.core.mailbox.setIfInBounds p.toNat (n - 1), view := [] } }
          Runs (.qpop q d l) s (issueL u l (.x d (n.setWidth 64)) 0 false none) ∧
          (¬ same → Runs (.qpopt q d b) s { u with hart := ((h.wx d (n.setWidth 64)).wx b 1).retire })))) ∧
    -- status
    (let state := fun (kind pending number core : Nat) =>
       WritesX (.qstat q d) s d
         (BitVec.ofNat 64 (kind * 2 ^ 60 + Min.min pending 255 * 2 ^ 48 + number * 2 ^ 32 + core))
     (h.binding q = .none → state 0 0 0 0) ∧
     (h.binding q = .send num c → state 1 ((sendersAt s (c.toNat % 4096) num.toNat).countP fun x =>
       x.hart == s.hgid && x.qreg == q && !x.keeper) num.toNat c.toNat) ∧
     (h.binding q = .recv num → state 2 (queueAt s s.cid num.toNat).length num.toNat 0) ∧
     (h.binding q = .port p → state 3 ((s.core.mailbox[p.toNat]?).getD 0).toNat p.toNat 0))

/-- 13 R231, R232, R249: the oldest waiting message takes a freed entry, with which its push completes, or is refused
when another launch has taken the core; a push that has waited past QLIMIT traps. That either event changes nothing
where it is not enabled is the model's choice (notes/assumptions/27.md). -/
def Obligations.QueueEventResults : Prop :=
  ∀ (s : State) (core q hart c : Nat) (m : Message) (rest : List Message) (at_ : Nat) (r : BitVec 4),
    let sender := getHart s m.hart
    let left := setSenders s core q rest
    (sendersAt s core q = [] → Runs (.queueMessageArrival core q) s s) ∧
    (sendersAt s core q = m :: rest →
      (coreLaunch s core = m.launch →
        ((queueAt s core q).length < 8 →
          let taken := setQueue left core q (queueAt s core q ++ [m])
          (m.keeper = true → Runs (.queueMessageArrival core q) s taken) ∧
          (m.keeper = false → Runs (.queueMessageArrival core q) s (setHart taken m.hart sender.retire))) ∧
        (8 ≤ (queueAt s core q).length → Runs (.queueMessageArrival core q) s s)) ∧
      (coreLaunch s core ≠ m.launch →
        (m.keeper = false → Runs (.queueMessageArrival core q) s
          (setHart left m.hart { sender with sendWait := none, stall := none })) ∧
        (m.keeper = true →
          -- MREF of the session its command ran in, in the hart or in a context of its launch that is saved
          let refused := fun (x : Lease) => if m.sess = some x.id then { x with mref := true } else x
          let mark := fun (h : Hart) => { h with lease := h.lease.map refused }
          let counted := countRefusal left core
          let done := setHart counted m.hart (mark (getHart counted m.hart))
          (m.launch.bind (getLaunch done) = none → Runs (.queueMessageArrival core q) s done) ∧
          ∀ l, m.launch.bind (getLaunch done) = some l → Runs (.queueMessageArrival core q) s
            (setLaunch done { l with contexts := l.contexts.map fun e => (e.1, mark e.2) })))) ∧
    ((getHart s hart).sendWait = some (at_, r) → (getHart s hart).waitSince = some c →
      let limit := (getCore s (hart / 4)).qlimit.toNat % 2 ^ 32
      (limit ≠ 0 ∧ c + limit < s.cycle →
        Runs (.qstall hart) s (asHart s hart fun u => raise u .qstall (r.setWidth 64))) ∧
      (limit = 0 ∨ s.cycle ≤ c + limit → Runs (.qstall hart) s s))

/-! ### The matrix array -/

/-- 13 R236, R237, R247, R248, R250: lease sessions. MLEASE opens one and takes a free array at once, or waits in
turn; MRELS closes it; MDRAIN waits for the hart's commands; MPROG and MSTAT report; MRESUME puts a suspended
command and what waits behind it back in front, once there is room. The model's choices here: a suspended command ends
MDRAIN's wait too (notes/assumptions/47.md); MRESUME with nothing suspended retires without a grant, and the commands it
puts back count among the 8 of the queue (96.md). -/
def Obligations.LeaseSessionResults : Prop :=
  ∀ (s : State) (l : BitVec 4) (d : Reg) (x : Lease) (c : ArrayCmd) (f : Trap) (o : Nat),
    let h := s.hart
    let k := groveOf s.cid
    let g := getGrove s k
    let mine := g.holder = some s.hgid
    let window := h.replayEnd = none ∧ l ≠ 0
    (h.lease.isSome = true → h.waitSince = none → Runs (.mlease l) s (issueL s l .none 0 false none)) ∧
    (h.lease = none → mine ∨ (g.holder = none ∧ g.waiters = []) →
      ∃ t, Runs (.mlease l) s (issueL t l .none 0 false none) ∧ (getGrove t k).holder = some s.hgid ∧
        t.hart.lease = some (Lease.open s.tick) ∧ t.mem = s.mem ∧ t.core = s.core) ∧
    (h.lease = none → g.holder = some o → o ≠ s.hgid →
      ∃ t, (window → Runs (.mlease l) s (issueL t l .lease 0 false none)) ∧
        (¬ window → Runs (.mlease l) s (stall t)) ∧ t.hart.lease = some (Lease.open s.tick) ∧
        (getGrove t k).holder = some o ∧ s.hgid ∈ (getGrove t k).waiters) ∧
    (h.lease = some x → ∃ t, Runs .mrels s t ∧ t.hart.lease = none ∧ t.mem = s.mem ∧
      t.hart.pc = h.retire.pc ∧ (mine → (getGrove t k).holder ≠ some s.hgid) ∧
      (x.susp = none → (getGrove t k).queue = g.queue)) ∧
    (let done := ((∀ e ∈ g.queue, e.hart ≠ s.hgid) ∧ h.parked = []) ∨ ∃ y, h.lease = some y ∧ y.susp.isSome = true
     (done → Runs (.mdrain l) s (issueL s l .none 0 false none)) ∧
     (¬ done → (window → Runs (.mdrain l) s (issueL s l .drain 0 false none)) ∧
       (¬ window → Runs (.mdrain l) s (stall s)))) ∧
    (h.lease.bind (·.susp) = none → WritesX (.mprog d) s d 0) ∧
    (h.lease = some x → x.susp = some (c, f) →
      (∀ z a b, c.op = .mma z a b → WritesX (.mprog d) s d (BitVec.ofNat 64
        (2 ^ 63 + z.toNat * 2 ^ 56 + c.row % 128 * 2 ^ 48 + f.cause.code * 2 ^ 40 + c.chunk % 2 ^ 32))) ∧
      (∀ a b ps q, c.op = .scale a b ps q → WritesX (.mprog d) s d (BitVec.ofNat 64
        (2 ^ 63 + 2 ^ 62 + f.cause.code * 2 ^ 40 + c.chunk % 2 ^ 32)))) ∧
    (h.lease = none → Traps .mresume s .lease 0) ∧
    (h.lease = some x → x.susp = none → Runs .mresume s { s with hart := h.retire }) ∧
    (h.lease = some x → x.susp = some (c, f) →
      (¬ mine → Runs .mresume s (stall s)) ∧
      (mine → 8 < g.queue.length + 1 + h.parked.length → Runs .mresume s (stall s)) ∧
      (mine → g.queue.length + 1 + h.parked.length ≤ 8 → Runs .mresume s (setGrove
        { s with hart := { h.retire with lease := some { x with susp := none }, parked := [] } } k
        { g with queue := requeueCommands s.hgid (c :: h.parked) g.queue }))) ∧
    (h.lease = none → WritesX (.mstat d) s d 0) ∧
    (h.lease = some x →
      let flag := fun (b : Bool) (n : Nat) => if b = true then 2 ^ n else 0
      WritesX (.mstat d) s d (BitVec.ofNat 64
        ((if mine then 2 ^ 63 + Min.min g.periodCmds 64 * 2 ^ 48 else 0) + 2 ^ 62 + flag x.susp.isSome 61 +
          x.satc * 2 ^ 32 + flag x.mref 6 + flag x.iov 5 + flag (x.flags.getLsbD 0) 4 +
          flag (x.flags.getLsbD 2) 2 + flag (x.flags.getLsbD 3) 1 + flag (x.flags.getLsbD 4) 0)))

/-- 13 R237, R238, R241, R244, R246, R249, R250: an array command needs a session, a grant and room, passes the
checks of its tile, descriptors and operands in order, and then joins the queue with its descriptors as they are
now; memory does not change at issue. The 64th MMA of a grant period ends it (R236). MZERO needs no grant. That a
suspended command and those saved behind it count among the 8 of the queue is the model's choice
(notes/assumptions/96.md), and so is STVAL of a peer's ILLEGAL (32.md). -/
def Obligations.ArrayCommandResults : Prop :=
  ∀ (s : State) (z : BitVec 3) (a b : Reg) (t : Tile) (f : Trap),
    let h := s.hart
    let k := groveOf s.cid
    let g := getGrove s k
    let word := h.iword.setWidth 64
    let mma := Instr.mma z a b
    -- the places taken: those of the queue, and those of the commands the hart is to put back
    let used := g.queue.length + ((h.lease.bind (·.susp)).toList.length + h.parked.length)
    let ready := h.lease.isSome = true ∧ g.holder = some s.hgid ∧ used < 8
    let block := fun e => BitVec.ofNat 256 (descAt s e 32)
    let format := fun (x : BitVec 256) => formatAt s s.cid (BitVec.ofNat 64 x.toNat)
    let accepted := fun (i : Instr) (op : ArrayOp) (tile : Dword) => ∃ u c, Runs i s u ∧ u.mem = s.mem ∧
      (getGrove u k).queue = g.queue ++ [c] ∧ c.op = op ∧ c.hart = s.hgid ∧ c.tile = tile ∧ c.chunk = 0 ∧
      c.row = 0 ∧ u.hart.pc = h.retire.pc ∧ u.hart.x = h.x ∧ u.hart.v = h.v
    (∀ i ∈ [mma, .mscale a], i = mma ∨ inTask h = false →
      (h.lease = none → Traps i s .lease 0) ∧
      (h.lease.isSome = true → g.holder ≠ some s.hgid → Runs i s (stall s)) ∧
      (h.lease.isSome = true → g.holder = some s.hgid → 8 ≤ used → Runs i s (stall s))) ∧
    (ready →
      (tileOf h z = none → Traps mma s .illegal word) ∧
      (tileOf h z = some t →
        let da := block (h.rx a)
        let db := block (h.rx b)
        let shape := some (tileRows t.word, tileCols t.word, tileInt t.word)
        (blockFault s [h.rx a, h.rx b] 32 = some f → Traps mma s f.cause f.val) ∧
        (blockFault s [h.rx a, h.rx b] 32 = none →
          (operandFault s da db (format da) (format db) shape = some f → Traps mma s f.cause f.val) ∧
          (operandFault s da db (format da) (format db) shape = none →
            accepted mma (.mma z da db) t.word ∧ ∃ u, Runs mma s u ∧
              (g.periodCmds < 63 → (getGrove u k).holder = g.holder ∧
                (getGrove u k).periodCmds = g.periodCmds + 1 ∧ (getGrove u k).periodStart = g.periodStart) ∧
              (63 ≤ g.periodCmds → PeriodEnds s u k s.hgid))))) ∧
    (tileOf h z = none → Traps (.mzero z) s .illegal word) ∧
    (tileOf h z = some t →
      (8 ≤ used → Runs (.mzero z) s (stall s)) ∧
      (used < 8 → accepted (.mzero z) (.zero z) t.word)) ∧
    (inTask h = true → Traps (.mscale a) s .taskctx 0) ∧
    (inTask h = false → ready →
      let blk := (block (h.rx a)).toNat
      let n := blk / 2 ^ 128 % 32
      let ea := BitVec.ofNat 64 blk
      let eb := BitVec.ofNat 64 (blk / 2 ^ 64)
      let el := BitVec.ofNat 64 (blk / 2 ^ 192)
      let zeros := blk / 2 ^ 133 % 8 = 0 ∧ blk / 2 ^ 140 % 2 ^ 52 = 0
      (blockFault s [h.rx a] 32 = some f → Traps (.mscale a) s f.cause f.val) ∧
      (blockFault s [h.rx a] 32 = none → (n = 0 ∨ 16 < n ∨ ¬ zeros) → Traps (.mscale a) s .illegal (h.rx a)) ∧
      (blockFault s [h.rx a] 32 = none → 1 ≤ n ∧ n ≤ 16 ∧ zeros →
        (blockFault s [ea, eb] 32 = some f → Traps (.mscale a) s f.cause f.val) ∧
        (blockFault s [ea, eb] 32 = none →
          let da := block ea
          let db := block eb
          let fault := operandFault s da db (format da) (format db) none
          (fault = some f → Traps (.mscale a) s f.cause f.val) ∧
          (fault = none → ownBlock s el (4 * n) = none → Traps (.mscale a) s .addr el) ∧
          ∀ off, fault = none → ownBlock s el (4 * n) = some off →
            (peerFault s (cgidList s off n) = some f → Traps (.mscale a) s f.cause f.val) ∧
            (peerFault s (cgidList s off n) = none → accepted (.mscale a)
              (.scale da db ((cgidList s off n).map (BitVec.setWidth 20)) (BitVec.ofNat 4 (blk / 2 ^ 136))) 0))))

/-- 13 R242, R243, R251: binding a tile register to storage that overlaps nothing, unbinding it, reading 16
elements of it and its label. STVAL of ZGET's ADDR, the value of x[rb], is the model's choice
(notes/assumptions/32.md). -/
def Obligations.TileRegisterResults : Prop :=
  ∀ (s : State) (z : BitVec 3) (a b d : Reg) (t : Tile),
    let h := s.hart
    let word := h.iword.setWidth 64
    let busy := tileBusy s z = true
    (tileOf h z = none ∨ ¬ busy →
      (bindable s z (h.rx a) = false → Traps (.zbind z a) s .illegal word) ∧
      (bindable s z (h.rx a) = true →
        let u := unionLabel s (handleAt s s.cid) h.launch 0 (runMask s (tileRun (h.rx a)))
        Runs (.zbind z a) s { u.1 with hart :=
          { u.1.hart with z := u.1.hart.z.setIfInBounds z.toNat (some ⟨h.rx a, u.2⟩) }.retire })) ∧
    (tileOf h z = some t → busy → Runs (.zbind z a) s (stall s)) ∧
    (busy → Runs (.zunbind z) s (stall s)) ∧
    (¬ busy → Runs (.zunbind z) s { s with hart := { h with z := h.z.setIfInBounds z.toNat none }.retire }) ∧
    (tileOf h z = none → Traps (.zget d z b) s .illegal word ∧ Traps (.zlbl d z) s .illegal word) ∧
    (tileOf h z = some t →
      let row := (h.rx b).toNat % 128
      let col := 16 * ((h.rx b).toNat / 128 % 8)
      let inside := row < tileRows t.word ∧ col < tileCols t.word
      let key := sliceKey s.cid (tileOff t.word + (row * tileCols t.word + col) * 4)
      WritesX (.zlbl d z) s d (BitVec.ofNat 64 t.lsid.toNat) ∧
      (¬ inside → Traps (.zget d z b) s .addr (h.rx b)) ∧
      (inside → busy → Runs (.zget d z b) s (stall s)) ∧
      (inside → ¬ busy →
        (isMarked s key = false ∧ isMarked s (key + 32) = false →
          Runs (.zget d z b) s (issueL (widenHla s (maskAt s s.cid t.lsid)) 0
            (.v d (BitVec.ofNat 512 (memRead s.mem key 64))) 0 false none)) ∧
        (isMarked s key = true ∨ isMarked s (key + 32) = true → ∃ e, Runs (.zget d z b) s
          (issueL s 0 (.v d 0) 0 false (some ⟨.ecc, e⟩)))))

/-- 13 R236, R244, R246, R248, R249: the array takes accepted commands in order, writes what they compute when they
complete, and suspends one whose read faults; a free array passes to the next waiter, a period of 65,536 cycles ends.
13 R236: the array passes to the waiter that comes first after its last holder in the round of the grove's 64 harts:
no other waiter lies between them, and the last holder itself comes after all others. The model's choices here: a
command that faults after its session closed is discarded with its queued successors (notes/assumptions/62.md), and an
MMA's chunks are applied together at its completion or suspension (88.md). -/
def Obligations.ArrayEventResults : Prop :=
  (∀ (s t : State) (k hart : Nat) (c c' : ArrayCmd) (f : Trap) (l : Lease),
     let g := getGrove s k
     -- commands saved with a context stand in the queue again first
     (let u := unparkAll s (groveHarts s k)
      let q := getGrove u k
      (g.running = false → nextCommand u q = some c → acqDone u c = true →
        Runs (.mmaStart k) s (setGrove u k { q with running := true, queue := c :: q.queue.erase c })) ∧
      (g.running = true → Runs (.mmaStart k) s s) ∧
      ((∀ h ∈ groveHarts s k, (getHart s h).parked = []) → u = s)) ∧
     (runningCommand g = some c → completeCommand s c = some t →
       Runs (.mmaCompletion k) s (setGrove t k
         { getGrove t k with running := false, queue := (getGrove t k).queue.tail })) ∧
     (∀ z, c.op = .zero z → ∃ u, completeCommand s c = some u ∧
       ∀ a, memGet u.mem a =
         if sliceKey (c.hart / 4) (tileOff c.tile) ≤ a ∧
           a < sliceKey (c.hart / 4) (tileOff c.tile) + tileRows c.tile * tileCols c.tile * 4
         then 0 else memGet s.mem a) ∧
     (runningCommand g = some c → suspendRun s c = some (t, c', f) →
       let h := getHart t c'.hart
       let open_ := h.lease.any fun x => some x.id == c'.sess
       let same := fun (d : ArrayCmd) => d.hart = c'.hart ∧ d.launch = c'.launch ∧ d.lidx = c'.lidx ∧ d.sess = c'.sess
       ∃ u, Runs (.mmaSuspend k) s u ∧ (getGrove u k).running = false ∧ u.mem = t.mem ∧
         (c'.current h = false ∨ open_ = true → (getGrove u k).queue = (getGrove t k).queue.tail) ∧
         (c'.current h = true → open_ = false →
           ∀ d, d ∈ (getGrove u k).queue ↔ d ∈ (getGrove t k).queue.tail ∧ ¬ same d) ∧
         (c'.current h = true → (getHart u c'.hart).commandFaults =
           h.commandFaults ++ [{ trap := ⟨.mfault, f.val⟩, resume := none }]) ∧
         (c'.current h = true → h.lease = some l → some l.id = c'.sess →
           (getHart u c'.hart).lease = some { l with susp := some (c', f) }) ∧
         (c'.current h = false → getHart u c'.hart = h)) ∧
     (∀ da db ps q e w m n, runningCommand g = some c → c.op = .scale da db ps q →
       (∀ p ∈ ps, keeperWaits c (getCore s (p.toNat % 4096)) q.toNat = false) →
       c.chunk < scaleCount s c da db → c.word = none → scaleWord s c da db = (t, .ok (w, m, n)) →
       ps[c.sent]? = some e →
       let u := sendWord (onSession t c fun l => { l with satc := Min.min 65535 (l.satc + n) }) c
         (e.toNat % 4096) q.toNat w m
       let next := if c.sent + 1 < ps.length then { c with sent := c.sent + 1, word := some (w, m) }
         else { c with sent := 0, chunk := c.chunk + 1, word := none }
       Runs (.mscaleWord k) s (setGrove u k
         { getGrove u k with queue := next :: (getGrove u k).queue.tail })) ∧
     (g.holder = none → nextWaiter g.lastHolder g.waiters = some hart →
       ∃ u, Runs (.leaseGrant k) s u ∧ (getGrove u k).holder = some hart ∧ (getGrove u k).periodStart = s.cycle ∧
         hart ∉ (getGrove u k).waiters ∧ u.mem = s.mem) ∧
     (g.holder = some hart → ∃ u, Runs (.grantPeriodExpiry k) s u ∧ g.periodStart + 65536 ≤ u.cycle ∧
       PeriodEnds s u k hart)) ∧
  (∀ (last : Nat) (ws : List Nat), ws ≠ [] → nextWaiter last (ws ++ [last]) = nextWaiter last ws) ∧
  (∀ (last w : Nat) (ws : List Nat), nextWaiter last ws = some w →
     w ∈ ws ∧ ∀ v ∈ ws, (arrayOrder w + 63 - arrayOrder last) % 64 ≤ (arrayOrder v + 63 - arrayOrder last) % 64)

/-- 05 R101, R104: an integer chunk adds the exact sum of its products to the accumulator modulo 2^32 and reports
a sum outside the signed range. -/
def Obligations.IntegerChunkIsExact : Prop :=
  ∀ (acc : Nat) (xs ys : List Int) (a b : RowData),
    let vals := List.map fun (n : Int) => FVal.fin (decide (n < 0)) n.natAbs 0
    a.vals = vals xs → b.vals = vals ys →
    let sum := sval 32 acc + (List.zipWith (fun x y => x * y) xs ys).sum
    chunkUpdate .int acc a b = ((sum % 2 ^ 32).toNat, 0, decide (sum < -2 ^ 31 ∨ 2 ^ 31 ≤ sum))

/-! ### Streamers -/

/-- 13 R252, R253, R257, R260, R264, R265: a copy instruction waits while its channel has 16 commands, checks its
descriptor in order, and sends a command under the channel's next identity, which it returns; memory does not
change at issue. A COPYM that disagrees with its unfinished group completes at once with a failure. -/
def Obligations.CopyIssueResults : Prop :=
  ∀ (s u : State) (d a : Reg) (ch : BitVec 3) (f : Trap) (rs : List (BitVec 20)),
    let h := s.hart
    let e := h.rx a
    let issue := fun (i : Instr) (kind : CopyKind) (allowed : Prop) =>
      let c := newCopy s kind ch.toNat (BitVec.ofNat 512 (descAt s e 64))
      let sent := { c with recvs := rs }
      allowed →
        (16 ≤ (h.chan ch.toNat).live.length → Runs i s (stall s)) ∧
        ((h.chan ch.toNat).live.length < 16 →
          (blockFault s [e] 64 = some f → Traps i s f.cause f.val) ∧
          (blockFault s [e] 64 = none →
            (copyIllegal s kind c e = .error f → Traps i s f.cause f.val) ∧
            (copyIllegal s kind c e = .ok rs →
              (copyFault s sent = some f → Traps i s f.cause f.val) ∧
              (copyFault s sent = none → kind = .multicast → joinGroup s sent = none → Runs i s { s with hart :=
                ((h.withChan ch.toNat fun k => ({ k with next := k.next + 1 }.fail .illegal k.next)).wx d
                  ((h.chan ch.toNat).next.setWidth 64)).retire }) ∧
              (copyFault s sent = none → kind ≠ .multicast ∨ joinGroup s sent = some u →
                ∃ t sent', Runs i s t ∧
                  t = { s with
                    hart := ((h.withChan ch.toNat fun k =>
                      { k with next := k.next + 1, live := k.live ++ [k.next] }).wx d
                        ((h.chan ch.toNat).next.setWidth 64)).retire
                    core := t.core
                    pk := { s.pk with copies := s.pk.copies ++ [sent'], nextCopy := s.pk.nextCopy + 1 } } ∧
                  sent'.desc = c.desc ∧ sent'.id = (h.chan ch.toNat).next ∧ sent'.recvs = rs ∧ sent'.pos = 0 ∧
                  sent'.units = [] ∧ (dbits c.desc 160 1 = 0 → sent'.rel = none)))))
    issue (.copy d a ch) .copy True ∧
    issue (.copym d a ch) .multicast (inTask h = false) ∧ issue (.copyrd d a ch) .reduce (inTask h = false) ∧
    (inTask h = true → Traps (.copym d a ch) s .taskctx 0 ∧ Traps (.copyrd d a ch) s .taskctx 0)

/-- 13 R257 to R260, R264, 11 R215: BFREE sends its message to the sender's core; CPWAIT waits until an identity is
covered and then reads anew what lies in its scope; CPMARK, CPUI and CPSTAT read and arm the channel.
13 R257: an identity is covered exactly when it was handed out before the oldest one outstanding, counting
modulo 2^32: with none outstanding all are; the oldest is not and the one before it is; completing any other than
the oldest leaves MARK where it is. That CPWAIT drops the view entries whose home lies in its scope and no others is the
model's choice (notes/assumptions/13.md). -/
def Obligations.ChannelResults : Prop :=
  (∀ (s : State) (d a : Reg) (c : BitVec 3) (sc : BitVec 4),
     let h := s.hart
     let v := (h.rx a).toNat
     let ch := h.chan c.toNat
     let id := BitVec.ofNat 32 v
     let oldest := ch.live.head?.getD ch.next
     let covered := (ch.next - oldest).toNat ≤ (id - oldest).toNat
     (inTask h = true → Traps (.bfree a) s .taskctx 0) ∧
     (inTask h = false → v % 2 ^ 20 / 4096 = s.pk.pkg →
       let core := getCore s (v % 4096)
       let t := setCore s (v % 4096) { core with frees := core.frees ++ [(v / 2 ^ 20 % 8,
         { hart := s.hgid, launch := h.launch, lidx := h.lidx, era := h.era })] }
       Runs (.bfree a) s { t with
         hart := t.hart.retire
         pk := { t.pk with nextCopy := t.pk.nextCopy + 1 } }) ∧
     (inTask h = false → v % 2 ^ 20 / 4096 ≠ s.pk.pkg →
       Runs (.bfree a) s { s with hart := (h.withChan 0 (Channel.fail · .illegal 0)).retire }) ∧
     (covered → ∃ view, Runs (.cpwait a c sc) s (issueL { s with core := { s.core with view := view } } 0 .none 0 false none) ∧
       ∀ x, x ∈ view ↔ x ∈ s.core.view ∧ homeInScope s.cid sc.toNat x.key = false) ∧
     (¬ covered → Runs (.cpwait a c sc) s (stall s)) ∧
     WritesX (.cpmark d c) s d (oldest.setWidth 64) ∧
     Runs (.cpui a c) s { s with hart := (h.withChan c.toNat fun k =>
       if covered then { k with armed := none, due := true } else { k with armed := some id, due := false }).retire } ∧
     Runs (.cpstat d c) s
       { s with hart := ((h.withChan c.toNat fun k => { k with stat := 0 }).wx d ch.stat).retire }) ∧
  (∀ (c : Channel) (id old : BitVec 32) (rest : List (BitVec 32)),
     (c.live = [] → c.mark = c.next ∧ c.covered id = true) ∧
     (c.live = old :: rest → c.mark = old ∧ (old ≠ c.next → c.covered old = false) ∧
       c.covered (old - 1) = true ∧
       (id ≠ old → { c with live := c.live.filter fun i => i != id }.mark = old)))

/-- 13 R254 to R261, R264, 19 R366, R381: a streamer's segment is charged once, held on a page fault, or sent as
units, one a destination sector and receiver: each sector's bytes are read in turn, at the state that the reads before
it left, and a read that fails gives a unit with its cause, an uncorrectable error being met by the streamer. Without
conversion they are the bytes that the engine reads at the source (of memory, also for a core of a partition), or, where
source and destination overlap, the bytes at issue. A unit is applied at its home, or dropped and recorded in its
channel; when all are applied the command is complete, its mailbox rises and MARK moves. A BFREE is counted for its
group, whose mailbox rises with the least of its receivers, or dropped and recorded in its issuer's channel 0.
The model's choices: a segment that no streamer picks, and an event with nothing to do, leave the state as it is
(notes/assumptions/27.md); which byte an overlap reads is free (19.md); a dropped BFREE is recorded under identity 0
(104.md). -/
def Obligations.CopyEventResults : Prop :=
  (∀ (s t v : State) (key : Nat) (c : CopyCmd) (u : CopyUnit) (rest : List CopyUnit) (q : Trap) (w : Cause)
      (fl : Flags), getCopy s key = some c →
    let own := c.hart / 4
    let n := Min.min (c.len - c.pos) (65536 - (c.src + dw c.pos).toNat % 65536)
    let charged := match tenantOf s own with
      | some x => if c.paid = true then some s else charge s x ((n + 4095) / 4096)
      | none => some s
    let lo := c.dstOf c.pos
    let hi := c.dstOf (c.pos + n)
    let pieces := if lo = hi then [] else parts (c.dst + dw lo) (hi - lo)
    let targets := if c.kind = .multicast then c.recvs.map (atReceiver c.dst) else [c.dst]
    -- the units of the destination pieces, `xs j` being the state at which the bytes of piece j are read and `ks j` how
    -- many of its conversions saturated
    let carries := fun (xs : Nat → State) (ks : Nat → Nat) (us : List CopyUnit) =>
      us.length = pieces.length * targets.length ∧
      ∀ (j : Nat) (e : Dword) (m : Nat), pieces[j]? = some (e, m) →
        let off := lo + (e - (c.dst + dw lo)).toNat
        let units := fun (holds : CopyUnit → Nat → Prop) => ∀ (i : Nat) (d : Dword), targets[i]? = some d →
          let at_ := d + dw off
          ∃ y, us[j * targets.length + i]? = some y ∧ y.recv = i ∧ y.addr = at_ &&& ~~~31 ∧
            (∀ k, k < 32 → (y.mask.getLsbD k = true ↔ at_.toNat % 32 ≤ k ∧ k < at_.toNat % 32 + m)) ∧
            holds y (at_.toNat % 32)
        match copyBytes (xs j) c off (off + m) with
        | (x, .error f) => xs (j + 1) = engineMet x c.agent (.streamer c.hart) f ∧ ks j = 0 ∧
          units fun y _ => y.fail = some f.cause
        | (x, .ok (bs, l, k)) => xs (j + 1) = x ∧ ks j = k ∧
          units fun y b => y.fail = none ∧ y.label = c.label ||| l ∧
            ∀ i, i < m → bs[i]? = some (sectorByte y.data (b + i))
    -- a byte of a slice that the command's core may read
    let readable := fun (x : BitVec 20) (o : Nat) =>
      let y := x.toNat % 4096
      isMarked s (sliceKey y o) = false ∧
        ((y = own ∧ 0x1000 ≤ o ∧ inLog (getCore s own) (o / 32 * 32) 32 = false) ∨
         (y ≠ own ∧ samePartition s own y = true ∧ (grantsAt (getCore s y) o).rd = true))
    let channel := fun (x : State) => (getHart x c.hart).chan c.ch
    let live := fun (x : State) => c.current (getHart x c.hart) = true ∧ c.ch < 8
    let count := fun (x : State) => (((getCore x (c.mcgid.toNat % 4096)).mailbox[c.midx]?).getD 0).toNat
    -- a unit dropped for a cause, which its channel records
    let dropped := fun (i : Instr) (x : State) (y : Cause) => ∃ r, Runs i s r ∧ r.mem = x.mem ∧
      getCopy r key = some { c with units := rest } ∧
      (live x → channel r = (channel x).fail y c.id)
    (copyPicked s c = false → Runs (.copySegment key) s s) ∧
    (copyPicked s c = true → segmentBytes c = n ∧
      (charged = none → Runs (.copySegment key) s (setCopy s { c with parked := some s.cycle })) ∧
      (charged = some t → segmentFault t c n = (v, some q) →
        Runs (.copySegment key) s (holdSegment v { c with paid := true } q)) ∧
      (charged = some t → segmentFault t c n = (v, none) →
        let early := c.len ≤ c.pos + n ∧ c.mbx = true ∧ c.relBit = false ∧ c.kind ≠ .multicast ∧ c.mboxDone = false
        ∃ r xs ks us k, Runs (.copySegment key) s r ∧ xs 0 = countOwner v c 1 n ∧ carries xs ks us ∧
          let z := xs pieces.length
          r.mem = z.mem ∧ getCopy r key = some { c with
            pos := c.pos + n, units := c.units ++ us, mboxDone := c.mboxDone || decide early, arrived := k,
            paid := false } ∧
          (live z → channel r = (channel z).note (((List.range pieces.length).map ks).sum) 0) ∧
          count r = if early then Min.min (2 ^ 32 - 1) (count z + 1) else count z) ∧
      -- from slices to slices
      (charged = some t → c.kind ≠ .multicast → c.conv = false → c.image = [] →
        (∀ e ∈ pagesOf (c.src + dw c.pos) n ++ pagesOf (c.dst + dw c.pos) n, ∃ x o, formOf s own e = .slice x o) →
        (∀ i, i < n → ∃ x o, formOf s own (c.src + dw (c.pos + i)) = .slice x o ∧ readable x o) →
        ∃ r us done k, Runs (.copySegment key) s r ∧ r.mem = s.mem ∧ us.length = pieces.length ∧
          getCopy r key =
            some { c with pos := c.pos + n, units := c.units ++ us, mboxDone := done, arrived := k, paid := false } ∧
          ∀ i x o, i < n → formOf s own (c.src + dw (c.pos + i)) = .slice x o →
            let at_ := c.dst + dw (c.pos + i)
            ∃ y ∈ us, y.fail = none ∧ y.addr = at_ &&& ~~~31 ∧ y.mask.getLsbD (at_.toNat % 32) = true ∧
              memGet s.mem (sliceKey (x.toNat % 4096) o) = sectorByte y.data (at_.toNat % 32))) ∧
    (c.kind ≠ .reduce → c.units = u :: rest →
      (∀ y, u.fail = some y → dropped (.copyUnitApply key) s y) ∧
      (u.fail = none → getCopy t key = some c →
        (applyAt s c.agent false u.addr u.mask u.data u.label = (t, none) →
          ∃ r, Runs (.copyUnitApply key) s r ∧ r.mem = t.mem ∧ getCopy r key = some { c with units := rest }) ∧
        (applyAt s c.agent false u.addr u.mask u.data u.label = (t, some w) → dropped (.copyUnitApply key) t w)) ∧
      (∀ x o, u.fail = none → u.label = 0 → formOf s own u.addr = .slice x o → x.toNat % 4096 = own →
        ∃ r, Runs (.copyUnitApply key) s r ∧ getCopy r key = some { c with units := rest } ∧
          r.mem = writeMasked s.mem (sliceKey own o) u.mask u.data)) ∧
    (c.kind = .reduce → c.units = u :: rest →
      (∀ y, u.fail = some y → dropped (.copyrdUnitApply key) s y) ∧
      (u.fail = none → getCopy t key = some c →
        (applyReduce s c u = (t, none, fl) → ∃ r, Runs (.copyrdUnitApply key) s r ∧ r.mem = t.mem ∧
          getCopy r key = some { c with units := rest } ∧ (live t → channel r = (channel t).note 0 fl)) ∧
        (applyReduce s c u = (t, some w, fl) → dropped (.copyrdUnitApply key) t w)) ∧
      (∀ x o, u.fail = none → u.label = 0 → formOf s own u.addr = .slice x o → x.toNat % 4096 = own →
        isMarked s (sectorKey (sliceKey own o)) = false →
        ∃ r, Runs (.copyrdUnitApply key) s r ∧ getCopy r key = some { c with units := rest } ∧
          r.mem = writeMasked s.mem (sliceKey own o) u.mask
            (addSector c.rty u.mask (memSector s.mem (sectorKey (sliceKey own o))) u.data).1)) ∧
    (c.len ≤ c.pos → c.units = [] → c.held = none → ∃ r, Runs (.copyCompletion key) s r ∧ r.mem = s.mem ∧
      getCopy r key = none ∧
      (c.mbx = true → c.mboxDone = false → c.kind ≠ .multicast → c.pos < 2 ^ 32 →
        count r = Min.min (2 ^ 32 - 1) (count s + 1)) ∧
      (live s → c.id ∉ (channel r).live)) ∧
    (c.pos < c.len ∨ c.units ≠ [] ∨ c.held.isSome = true → Runs (.copyCompletion key) s s)) ∧
  -- no such command, and nothing of it to apply
  (∀ (s : State) (key : Nat), getCopy s key = none →
    Runs (.copySegment key) s s ∧ Runs (.copyUnitApply key) s s ∧ Runs (.copyrdUnitApply key) s s ∧
    Runs (.copyCompletion key) s s) ∧
  (∀ (s : State) (key : Nat) (c : CopyCmd), getCopy s key = some c →
    (c.kind = .reduce ∨ c.units = [] → Runs (.copyUnitApply key) s s) ∧
    (c.kind ≠ .reduce ∨ c.units = [] → Runs (.copyrdUnitApply key) s s)) ∧
  -- the bytes of a piece without conversion
  (∀ (s y : State) (c : CopyCmd) (a b : Nat) (f : Trap) (bs : List Byte) (l : Mask), c.conv = false →
    let issued := fun (i : Nat) => (c.image[a + i]?).getD none
    (engineBytes s c.agent (c.src + dw a) (b - a) = (y, .error f) → copyBytes s c a b = (y, .error f)) ∧
    (engineBytes s c.agent (c.src + dw a) (b - a) = (y, .ok (bs, l)) →
      (c.image = [] → copyBytes s c a b = (y, .ok (bs, l, 0))) ∧
      (c.image ≠ [] → ∃ cs, copyBytes s c a b = ((draw y).2, .ok (cs, l, 0)) ∧ cs.length = bs.length ∧
        ∀ i, i < bs.length → cs[i]? = bs[i]? ∨ ((issued i).isSome = true ∧ cs[i]? = issued i)))) ∧
  -- the sector of a page that an engine reads
  (∀ (s y : State) (ag : Agent) (e : Dword) (va : Nat) (pl : Place) (w : Cause), formOf s ag.core e = .virt va →
    (translate s ag needRead va = (y, .error w) → engineSector s ag e = (y, .error ⟨w, e⟩)) ∧
    (translate s ag needRead va = (y, .ok pl) → isHostKey (sectorKey pl.key) = false →
      let x := reachPlace y pl
      (placeMarked x pl = true → engineSector s ag e = (x, .error ⟨.ecc, e⟩)) ∧
      (placeMarked x pl = false → engineSector s ag e = (x, .ok
        { key := sectorKey pl.key, data := memSector x.mem (sectorKey pl.key), mask := pl.mask x, bad := false })))) ∧
  (∀ (s : State) (core smbox : Nat) (f : Nat × ContextRef) (g : Group),
    let co := getCore s core
    ((∀ x ∈ co.frees, x.1 ≠ smbox) → Runs (.bfreeCombine core smbox) s s) ∧
    (co.frees.find? (fun x => x.1 == smbox) = some f →
      let who := (s.pk.pkg * 4096 + f.2.hart / 4) % 2 ^ 20
      let stray := groupOf co smbox = none ∨ (groupOf co smbox = some g ∧
        (who ∉ g.members ∨ countOf who g.members g.rounds ≤ countOf who g.members g.freed))
      (stray → ∃ r, Runs (.bfreeCombine core smbox) s r ∧ r.mem = s.mem ∧
        (getCore r core).frees = co.frees.erase f ∧ (getCore r core).mailbox = co.mailbox ∧
        (f.2.current (getHart s f.2.hart) = true →
          (getHart r f.2.hart).chan 0 = ((getHart s f.2.hart).chan 0).fail .illegal 0)) ∧
      (groupOf co smbox = some g → who ∈ g.members →
        countOf who g.members g.freed < countOf who g.members g.rounds →
        let freed := addCount who g.members g.freed
        let low := leastOf freed
        let count := fun (x : State) => (((getCore x core).mailbox[smbox]?).getD 0).toNat
        ∃ r, Runs (.bfreeCombine core smbox) s r ∧ r.mem = s.mem ∧ (getCore r core).frees = co.frees.erase f ∧
          groupOf (getCore r core) smbox = some { g with freed := freed, counted := low } ∧
          (g.counted < low → smbox < 8 → count r = Min.min (2 ^ 32 - 1) (count s + (low - g.counted))) ∧
          (low ≤ g.counted → count r = count s))))

/-! ### System instructions and registers -/

/-- 17 R315, R324, R329, R344, R346 to R348, 01 R28: the calls and traps save the next or their own address, RETU undoes a
user interrupt, returns and translation invalidations need their mode, IDLE and HALT stop the hart, XLINV publishes and
then waits until the removal is done. A halted hart that is not the last of its launch counts for it; the last one
ends the launch with status 0. The model's readings: a register field of 0 names every entry
(notes/assumptions/23.md), SCALL, MCALL and TRAPI retire before their trap (72), and XLINV's publication is not one of
the places of R210 (54). -/
def Obligations.SystemInstructionResults : Prop :=
  (∀ (s : State) (a : Reg) (c : BitVec 12),
     let h := s.hart
     let word := h.iword.setWidth 64
     let code := c.setWidth 64
     (h.mode = .machine → Traps (.scall c) s .illegal word) ∧
     (h.mode ≠ .machine → Runs (.scall c) s (raiseNext s .scall code)) ∧
     Runs (.mcall c) s (raiseNext s .mcall code) ∧ Traps (.brk c) s .brk code ∧
     (h.rx a = 0 → Runs (.trapi a c) s { s with hart := h.retire }) ∧
     (h.rx a ≠ 0 → Runs (.trapi a c) s (raiseNext s .trapi code)) ∧
     (h.mode = .user → Traps .rets s .priv word ∧ Traps (.xlinvS1 a) s .priv word) ∧
     (h.mode ≠ .machine → Traps .retm s .priv word ∧ Traps (.xlinvS2 a) s .priv word) ∧
     (h.uih = false → Traps .retu s .illegal word) ∧
     (h.uih = true → Runs .retu s { s with hart := { h.count with
       uih := false, uien := if h.uien.getLsbD 1 = true then 3 else 0, uicause := 0, pc := h.uiepc } }) ∧
     Runs .idle s { s with hart := { h.retire with run := .idle } } ∧
     (inTask h = true → Traps .halt s .taskctx 0) ∧
     (inTask h = false →
       Synchronises .halt s fun u => Publishes .halt s (closeLease u u.hgid) fun t _ => haltHart t) ∧
     (∀ i stage2, (i = .xlinvS1 a ∧ stage2 = false ∧ h.mode ≠ .user) ∨
         (i = .xlinvS2 a ∧ stage2 = true ∧ h.mode = .machine) →
       (h.inv = none → Publishes i s s fun t _ => stall { t with hart := { t.hart with
         inv := some (if a = 0 then none else some (t.hart.rx a), stage2, false) } }) ∧
       (∀ x y, h.inv = some (x, y, false) → Runs i s (stall s)) ∧
       (∀ x y, h.inv = some (x, y, true) → Runs i s { s with hart := h.retire }))) ∧
  (∀ (s : State) (k : Nat) (l : Launch), s.hart.initRun = false → s.hart.launch = some k →
     getLaunch s k = some l → l.isTask = false →
       let halted := s.hart.lidx :: l.halted.filter fun i => i != s.hart.lidx
       let t := setLaunch { s with hart := { s.hart.retire with run := .halted } } { l with halted := halted }
       (halted.length < l.count → haltHart s = t) ∧
       (l.count ≤ halted.length → haltHart s = finishLaunch t l.key 0 0))

/-- 03 R38 to R40, 17 R345: an access checks the address and the mode, then reads the old value, stores the written,
set or cleared value, and gives rd the old one; a refused value is ILLEGAL and changes nothing. The rows that the
table gives an access of their own do the same. An unassigned address is ILLEGAL in every mode, the supervisor and
machine pages are PRIV below their mode, and read-only registers refuse a write. The model's readings: an access to
FFLAGS closes the windows of the floating-point instructions still outstanding (notes/assumptions/10.md), SSET and
SCLR work on the value read, also of a register whose bits a 1 clears (90), and a hart that writes BLBL is busy until
its bank is zeroed (75). -/
def Obligations.SystemRegisterAccessResults : Prop :=
  (∀ (s t : State) (d r : Reg) (sr : BitVec 12) (op : SrOp) (size : Bool) (n : BitVec 2) (b : BitVec 4) (e : Dword),
     let h := s.hart
     let word := h.iword.setWidth 64
     let access := fun (i : Instr) (op : SrOp) (a : Nat) (r : Reg) =>
       (srCheck h.mode op a = some .priv → Traps i s .priv word) ∧
       (srCheck h.mode op a = some .illegal → Traps i s .illegal word) ∧
       (srCheck h.mode op a = none →
         let u := if a = 2 then completeAll s (h.pend.filter fun p => p.fp) else s
         let old := srRead u a
         let v := match op with
           | .read => 0
           | .write => u.hart.rx r
           | .set => old ||| u.hart.rx r
           | .clear => old &&& ~~~u.hart.rx r
         let done := fun (x : State) => Runs i s { x with hart := (x.hart.wx d old).retire }
         (a = 2 → (∃ p ∈ h.pend, p.fp = true ∧ p.fault.isSome = true) → Runs i s (raiseWindow s)) ∧
         (a = 2 → (∀ p ∈ h.pend, p.fp = true → p.fault = none) →
           (∃ p ∈ h.pend, p.fp = true ∧ pendReady s p = false) → Runs i s (pause s)) ∧
         (a ≠ 2 ∨ (∀ p ∈ h.pend, p.fp = true → p.fault = none ∧ pendReady s p = true) →
           (op = .read → done (if a = 0x10D then popNote u else u)) ∧
           (op ≠ .read →
             (srWrite u a v = .done t → done t) ∧ (srWrite u a v = .illegal → Runs i s (illegal u)) ∧
             (srWrite u a v = .addr e → Runs i s (raise u .addr e)) ∧ (srWrite u a v = .wait t → Runs i s t))))
     access (.srd d sr) .read sr.toNat 0 ∧ access (.swr d r sr) .write sr.toNat r ∧
     access (.sset d r sr) .set sr.toNat r ∧ access (.sclr d r sr) .clear sr.toNat r ∧
     access (.frmWrite op d r) op 0x001 r ∧ access (.fflagsAccess op d r) op 0x002 r ∧
     access (.logbaseWrite size op d r) op (if size then 0x041 else 0x040) r ∧
     access (.spillbaseWrite size op d r) op (if size then 0x049 else 0x048) r ∧
     access (.hlaWrite op d r) op 0x050 r ∧ access (.winWrite n op d r) op (0x110 + n.toNat) r ∧
     access (.blblWrite b op d r) op (0x130 + b.toNat) r ∧ access (.bfmtWrite b op d r) op (0x120 + b.toNat) r ∧
     access (.gfflagsClear op d r) op 0x107 r ∧ access (.hnoteRead d) .read 0x10D 0 ∧
     access (.serrcpWrite d r) .write 0x10F r ∧ access (.sipndSoftWrite op d r) op 0x10A r) ∧
  (∀ (mode : Mode) (op : SrOp) (a : Nat),
     (srAssigned a = false → srCheck mode op a = some .illegal) ∧
     (srAssigned a = true →
       (a / 0x100 = 1 → mode = .user → srCheck mode op a = some .priv) ∧
       (a / 0x100 = 3 → mode ≠ .machine → srCheck mode op a = some .priv) ∧
       (op ≠ .read → a / 0x100 = 8 → srCheck mode op a = some .illegal) ∧
       (op ≠ .read → mode ≠ .user → a ∈ [0x012, 0x020, 0x021, 0x030, 0x042, 0x10D] →
         srCheck mode op a = some .illegal) ∧
       (op ≠ .read → mode = .user → a ∈ [0x040, 0x041, 0x048, 0x049, 0x050] → srCheck mode op a = some .priv) ∧
       (op = .read → a / 0x100 = 0 ∨ a / 0x100 = 8 ∨ mode = .machine → srCheck mode op a = none)))

/-- 03 R41 to R45, R47 to R49, 17 R316 to R321, R329: a plain register takes the writable bits of a value and reads them
back, and no other register of the list, no general register and no byte of memory changes; FRM takes a rounding mode
and refuses the others, HLA an allocated LSID, the status registers their writable bits and a mode they may hold; SIPND
reads its pending bits. -/
def Obligations.SystemRegisterValues : Prop :=
  (let plain : List (Nat × Dword) :=
     [(0x002, 0x1F), (0x003, 0x1FF0F), (0x010, ~~~3), (0x011, 3), (0x013, ~~~3), (0x04A, 0xFFFFFFFFFFFFF8),
      (0x101, ~~~3), (0x102, ~~~3), (0x103, 0xC0000000000000FF), (0x104, ~~~0), (0x105, 0x7FFF000F)] ++
     [(0x106, 0xFFFFFFFF), (0x108, ~~~3), (0x109, 0xF), (0x10B, ~~~0), (0x10C, 0xFFFFFFFFFFE000), (0x301, ~~~3),
      (0x302, ~~~3), (0x303, 0xC0000000000000FF), (0x304, ~~~0), (0x305, 0x7FFF000F), (0x308, ~~~3)]
   ∀ (s : State) (a : Nat) (mask v : Dword), (a, mask) ∈ plain →
     ∃ t, srWrite s a v = .done t ∧ srRead t a = v &&& mask ∧
       (∀ b m, (b, m) ∈ plain → b ≠ a → srRead t b = srRead s b) ∧
       t.hart.x = s.hart.x ∧ t.hart.v = s.hart.v ∧ t.mem = s.mem ∧ t.hart.mode = s.hart.mode) ∧
  (∀ (s : State) (v : Dword),
     let h := s.hart
     let mode := v.toNat / 16 % 4
     let status := fun (old : Dword) (top : Nat) => BitVec.ofNat 64 (old.toNat / 2 ^ 10 % 4 * 2 ^ 10 + v.toNat / 64 % 4 * 64 +
       (if mode ≤ top then mode else old.toNat / 16 % 4) * 16 + v.toNat % 2)
     (v.toNat % 8 ≤ 4 → srWrite s 0x001 v = .done { s with hart := { h with frm := BitVec.ofNat 3 v.toNat } }) ∧
     (5 ≤ v.toNat % 8 → srWrite s 0x001 v = .illegal) ∧
     (∀ p m, partOf s s.cid = some p → maskOf p (BitVec.ofNat 10 v.toNat) = some m →
       srWrite s 0x050 v = .done { s with hart := { h with hla := BitVec.ofNat 10 v.toNat } }) ∧
     (∀ p, partOf s s.cid = some p → maskOf p (BitVec.ofNat 10 v.toNat) = none → srWrite s 0x050 v = .illegal) ∧
     srWrite s 0x100 v = .done { s with hart := { h with sup := { h.sup with status := status h.sup.status 1 } } } ∧
     srWrite s 0x300 v = .done { s with hart := { h with mach := { h.mach with status := status h.mach.status 2 } } } ∧
     srWrite s 0x10A v = .done { s with hart := { h with soft := v.getLsbD 0 } } ∧
     ((srRead s 0x10A).getLsbD 0 = h.soft) ∧
     ((srRead s 0x10A).getLsbD 1 = true ↔ h.stimecmp.toNat ≤ s.cycle % 2 ^ 64) ∧
     srRead s 0x020 = BitVec.ofNat 64 s.cycle ∧ srRead s 0x021 = h.rwc)

/-! ### Traps, interrupts and returns -/

/-- 17 R315, R317, R318, R322, R323: with no window open, a trap saves the address, cause, value, mode, EN, handler
state and frame in the registers of the target, clears EN, leaves handler and frame, and goes to the vector;
everything else keeps its value. At point N the instruction retires and the next address is saved (that it counts as
retired is the model's reading, notes/assumptions/72.md); a deferred trap also saves the address of the store. With
windows open a trap waits for those that must be granted; otherwise it completes them, oldest first, and when one has
faulted the trap is the fault of the oldest: its address, its cause and value, and in LACOUNT the instructions that
issued after it, with those that faulted too marked for redoing. -/
def Obligations.TrapEntry : Prop :=
  (∀ (s : State) (c : Cause) (v : Dword), s.hart.pend = [] → s.hart.sendWait = none →
     let t := raise s c v
     let h := s.hart
     let machine := h.mode = .machine ∨ c = .mcall ∨ c = .check
     let regs := fun (x : Hart) => if machine then x.mach else x.sup
     let r := regs t.hart
     SameOutsideHart s t ∧ t.hart.mode = (if machine then .machine else .supervisor) ∧
     t.hart.pc = (regs h).tvec ∧ t.hart.uih = false ∧ t.hart.frame = none ∧ t.hart.run = .running ∧
     r.epc = BitVec.ofNat 64 (h.pc.toNat / 4 * 4) ∧ r.cause = BitVec.ofNat 64 c.code ∧ r.tval = v ∧ r.lacount = 0 ∧
     r.slot = h.frame ∧ r.tvec = (regs h).tvec ∧
     r.status.getLsbD 0 = false ∧ r.status.getLsbD 6 = (regs h).status.getLsbD 0 ∧ r.status.getLsbD 7 = h.uih ∧
     r.status.getLsbD 10 = h.frame.isSome ∧ r.status.toNat / 16 % 4 = h.mode.code ∧
     (machine → t.hart.sup = h.sup) ∧ (¬ machine → t.hart.mach = h.mach) ∧
     t.hart = { h with
       sup := t.hart.sup, mach := t.hart.mach, mode := t.hart.mode, pc := t.hart.pc, uih := false, frame := none
       run := .running, replay := [], replayEnd := none, replayWord := none, near := false, fetch := none, stall := none
       waitSince := none, waitStamp := none, inv := none, waitRoute := none
       fromEvents := none :: h.fromEvents, pend := [] }) ∧
  (∀ (s : State) (c : Cause) (v pc : Dword), s.hart.pend = [] → s.hart.sendWait = none →
     raiseNext s c v = raise { s with hart := s.hart.retire } c v ∧
     (let t := raiseDeferred s ⟨c, v⟩ pc
      let u := raise s c v
      let x := BitVec.ofNat 64 (pc.toNat / 4 * 4)
      if s.hart.mode = .machine ∨ c = .mcall ∨ c = .check then
        t = { u with hart := { u.hart with mach := { u.hart.mach with xpc := x } } }
      else t = { u with hart := { u.hart with sup := { u.hart.sup with xpc := x } } })) ∧
  (∀ (s : State) (c : Cause) (v : Dword) (p : Pending) (f : Trap), s.hart.replayEnd = none → s.hart.sendWait = none →
     let h := s.hart
     let faulted := h.pend.filter fun q => q.fault.isSome
     let done := completeAll s (h.pend.filter fun q => q.fault.isNone)
     (windowsWait s = true → raise s c v = pause s) ∧
     (windowsWait s = false → faulted = [] →
       raise s c v = raise { done with hart := { done.hart with pend := [] } } c v) ∧
     (windowsWait s = false → faulted.head? = some p → p.fault = some f → h.taskFault f.cause = false →
       let t := raise s c v
       let regs := if h.mode = .machine ∨ f.cause = .mcall ∨ f.cause = .check then t.hart.mach else t.hart.sup
       let n := h.issued - (p.seq + 1)
       t.hart.pend = [] ∧ regs.epc = BitVec.ofNat 64 (p.site.pc.toNat / 4 * 4) ∧
       regs.cause = BitVec.ofNat 64 f.cause.code ∧ regs.tval = f.val ∧
       (n ≤ 15 → regs.lacount.toNat % 16 = n ∧ ∀ i, i < 15 →
         (regs.lacount.getLsbD (16 + i) = true ↔ i < n ∧ ∃ q ∈ faulted, q.seq = p.seq + 1 + i))))

/-- 17 R322, R324: a return gives back mode, EN, handler state, frame and address from its registers, and starts the
replay of a recorded window, or of a frame's word at the address returned to; memory and the general registers keep
their values. Here the trap was no event of a parked commit and cancelled no task, and the hart does not wait for a
task. Taking a trap to supervisor mode and returning from it at once brings back the mode, the address, the frame, the
handler state and the interrupt enable, and changes no general register. How the replay finds the instructions of a
window, and the word of a frame, is the model's reading (notes/assumptions/9.md). -/
def Obligations.TrapReturn : Prop :=
  (∀ (s : State) (i : Instr) (m : Bool), (i = .rets ∧ m = false ∧ s.hart.mode ≠ .user) ∨
       (i = .retm ∧ m = true ∧ s.hart.mode = .machine) →
     let h := s.hart
     let r := if m then h.mach else h.sup
     h.fromEvents.head?.bind id = none → r.status.getLsbD 11 = false → idleTaskHart { s with hart := h.leave r } = false →
     ∃ t, Runs i s t ∧ t.mem = s.mem ∧ t.hart.x = h.x ∧ t.hart.shadow = h.shadow ∧ t.hart.v = h.v ∧ t.hart.m = h.m ∧
       t.hart.b = h.b ∧ t.hart.fflags = h.fflags ∧ t.hart.pc = r.epc ∧ t.hart.mode = Mode.ofCode (r.status.toNat / 16 % 4) ∧
       t.hart.uih = r.status.getLsbD 7 ∧ t.hart.frame = (if r.status.getLsbD 10 = true then r.slot else none) ∧
       (let q := if m then t.hart.mach else t.hart.sup
        q.status.getLsbD 0 = r.status.getLsbD 6 ∧ q.epc = r.epc ∧ q.cause = r.cause ∧ q.tvec = r.tvec) ∧
       t.hart.replayWord = redoWord r ∧
       (r.lacount = 0 → redoWord r = none → t.hart.replayEnd = none ∧ t.hart.replay = []) ∧
       (r.lacount = 0 → redoWord r ≠ none → t.hart.replayEnd.isSome = true ∧ t.hart.replay = []) ∧
       (r.lacount ≠ 0 → t.hart.replay.length = r.lacount.toNat % 16 ∧ t.hart.replayEnd.isSome = true)) ∧
  (∀ (s : State) (c : Cause) (v : Dword), s.hart.pend = [] → s.hart.sendWait = none → s.hart.replayEnd = none →
     s.hart.mode ≠ .machine → c ≠ .mcall → c ≠ .check → s.hart.pc.toNat % 4 = 0 →
     idleTaskHart s = false →
     ∃ t, Runs .rets (raise s c v) t ∧ t.hart.mode = s.hart.mode ∧ t.hart.pc = s.hart.pc ∧
       t.hart.frame = s.hart.frame ∧ t.hart.uih = s.hart.uih ∧ t.hart.x = s.hart.x ∧ t.hart.v = s.hart.v ∧
       t.hart.m = s.hart.m ∧ t.hart.b = s.hart.b ∧
       t.hart.sup.status.getLsbD 0 = s.hart.sup.status.getLsbD 0 ∧ t.mem = s.mem)

/-! ### Tasks -/

/-- 15 R283, R285, R303, R309, R312: TSPAWN, DEPSET and DEPDEC join the task's deferred list of up to 64; COMMIT
sends its request once and waits; TABORT drops the copy and releases or ends its registration; DEPGET, TSELF, TWORK
and TPIN. Outside a task all but TSELF and TWORK are TASKCTX. The model's readings: TPIN with four pins is TASKCTX for a
read-only tile too (notes/assumptions/85.md), a report that comes while COMMIT waits withdraws its request (86), and
TABORT frees the hart for its next task and counts its copy as cancelled (18, 66). -/
def Obligations.TaskInstructionResults : Prop :=
  ∀ (s : State) (d a b : Reg) (l : BitVec 4) (j : BitVec 1) (t : TaskCopy) (la : Launch) (r : TaskReg) (key : Nat)
      (x : TileState) (p : Partition),
    let h := s.hart
    let defers := fun (i : Instr) (act : Deferred) =>
      (h.task = none → Traps i s .taskctx 0) ∧
      (h.task = some t →
        (64 ≤ t.deferred.length → Traps i s .taskctx 0) ∧
        (t.deferred.length < 64 → Runs i s { s with
          hart := { h with task := some { t with deferred := t.deferred ++ [act] } }.retire }))
    defers (.tspawn a) (.spawn (h.rx a)) ∧
    defers (.depset d a b) (.depset ((h.rx a).setWidth 32) ((h.rx d).setWidth 16) (h.rx b)) ∧
    defers (.depdec a) (.depdec ((h.rx a).setWidth 32)) ∧
    (h.task = none → Traps .commit s .taskctx 0) ∧
    (h.task = some t → t.waiting = true →
      (t.reply ≠ none ∨ report s = none → Runs .commit s (stall s)) ∧
      (t.reply = none → report s ≠ none → ∀ v, report (withdrawCommit s t) = some v → Runs .commit s v)) ∧
    (h.task = some t → t.waiting = false → h.launch = some key → Synchronises .commit s fun u =>
      ∃ v, Runs .commit s v ∧ v.hart = { u.hart with
          task := some { t with waiting := true }, stall := v.hart.stall, waitSince := v.hart.waitSince } ∧
        v.mem = u.mem ∧ v.core = u.core ∧
        ∀ k, getLaunch u key = some k → getLaunch v key = some { k with regs := k.regs.map fun y =>
          if y.id = t.reg then { y with copies := y.copies.map fun c =>
            if c.hart = s.hgid ∧ c.tag = t.tag then { c with
              state := if c.state = .running then .committing else c.state, deferred := t.deferred
              work := (u.hart.rwc + 1 - t.startRwc).toNat } else c } else y }) ∧
    (taskOf s = none → Traps (.tabort j) s .taskctx 0 ∧ Traps (.depget d a l) s .taskctx 0 ∧
      Traps (.tpin d a l) s .taskctx 0 ∧ WritesX (.tself d) s d 0) ∧
    (taskOf s = some (t, la, r) → h.launch = some key →
      let id := s.hgid
      let n := (h.rx a).toNat % 2 ^ 32
      let u := freeActing (dropCopy (onHart s Hart.count) id)
      WritesX (.tself d) s d (BitVec.ofNat 64 (t.tag.toNat * 2 ^ 48 + r.ident)) ∧
      (h.fromEvents = [] → u.hart.task = none ∧ u.hart.run = .unloaded ∧
        (∀ a, (∀ c ∈ tileCommands s id, a < sliceKey s.cid (tileOff c.tile) ∨
            sliceKey s.cid (tileOff c.tile) + tileRows c.tile * tileCols c.tile * 4 ≤ a) →
          memGet u.mem a = memGet s.mem a) ∧
        ∀ e ∈ u.core.log, e.task = true → e.tag ≠ t.tag) ∧
      (r.gone = true ∨ t.run ≠ r.run → Runs (.tabort j) s (settleLaunch (copyEnded
        (countCancelled u la r (h.rwc + 1 - t.startRwc).toNat) key r.id id t.tag false) key)) ∧
      (r.gone = false → t.run = r.run →
        (getPart s la.part = some p → Runs (.tabort 0) s
          (redecideLaunch (reRelease (removeCopy (countTenant u p.tenant 10 1) key r.id id t.tag fun r => r) key r.id)
            key)) ∧
        Runs (.tabort 1) s (redecideLaunch (retireReg (removeCopy u key r.id id t.tag TaskReg.finish) key r.id) key)) ∧
      (let k := (h.rx a).setWidth 32
       let c := counterOf la k
       Runs (.depget d a l) s (issueL s l (.x d (if counterOk s la k = true
         then BitVec.ofNat 64 (c.count + if c.armed = true then 2 ^ 16 else 0) else BitVec.allOnes 64)) 0 false none)) ∧
      (la.tiles[n]? = none → Traps (.tpin d a l) s .taskctx 0) ∧
      (la.tiles[n]? = some x →
        (4 ≤ r.tpins.length → Traps (.tpin d a l) s .taskctx 0) ∧
        (r.tpins.length < 4 → ∃ u,
          Runs (.tpin d a l) s (issueL u l (.x d (if x.ro = true then x.slot 0 else x.slot x.version)) 0 false none) ∧
          u.hart = h ∧ u.mem = s.mem ∧ u.core = { s.core with view := [] } ∧
          getLaunch u key = some { la with regs := la.regs.map fun y => if y.id = r.id
            then { y with tpins := y.tpins ++ if x.ro = true then [] else [(n, x.version % x.slots)] } else y }))) ∧
    (let n := (h.rx a).toNat % 2 ^ 32
     Runs (.twork a) s { s with hart :=
       { h with rwc := h.rwc + BitVec.ofNat 64 n, perf := bump h.perf 3 n }.retire })

/-- 15 R286, R288, R289, R290: what the home answers a commit request: CANCEL for a registration that is over, an
earlier run, or an identity already accepted; ABORT when the tile's version has moved on; PARKED while the next slot
is pinned or an earlier task of the tile stands; otherwise it tries the task's records at the next slot. Where one
fails it answers FAULT and every byte, log and launch is as it was. Where none does it answers ACCEPT: memory holds what
the records write, the later over the earlier, they leave the log, the registration has won, and the tile moves to its
next version (unless a record's label found no free LSID and ended the launch). The home then decides the parked
commits again. Records that write the core's own slice are always accepted; one that another core of the partition
grants no commit home is refused with WIN. -/
def Obligations.CommitDecisions : Prop :=
  ∀ (s : State) (hart key : Nat) (l : Launch) (g : TaskReg) (c : RunCopy) (n : Nat) (x : TileState),
    requestOf s hart = some (key, g, c) → getLaunch s key = some l →
    let i := Instr.commitRequest hart
    let late := g.state = .won ∨ g.state = .ended ∨ c.run ≠ g.run
    let u := reachHome s (g.out.bind fun t => (l.tiles[t]?).map (·.home))
    let answers := fun (t : State) (a : Reply) => Runs i s (redecideLaunch (reply t hart a) key)
    let core := c.hart / 4
    let done := acceptCommit u key g c
    let rs := (getCore u core).log.filter fun r => r.task && r.tag == c.tag && !r.stk
    -- where a record of the task lands, `shift` bytes on from where the task stored it
    let accepts := fun (shift : Dword) (after : Launch → Prop) =>
      let tried := (applyRecords core (some key) shift rs u).2
      let won := ∃ l', getLaunch done.1 key = some l' ∧ after l' ∧ ∀ r ∈ l'.regs, r.id = g.id → r.state = .won
      let left := ∀ r ∈ (getCore done.1 core).log, r.task = true → r.tag ≠ c.tag
      let at_ := fun (r : Record) => sliceKey core ((r.addr + shift).toNat % 2 ^ 19)
      answers done.1 done.2 ∧
      (∀ f, tried = some f → done.2 = .fault f ∧ done.1.mem = u.mem ∧ done.1.pk.launches = u.pk.launches ∧
        ∀ k, (getCore done.1 k).log = (getCore u k).log) ∧
      (tried = none → done.2 = .accept ∧ left ∧
        let z := applyMerged core (some key) shift (rs.foldl (fun ms r => mergeRecord u core r ms) []) u
        done.1.mem = z.mem ∧ ((getLaunch z key).isSome = true → won)) ∧
      -- records in the own slice, of no label
      (core < 4096 → (∀ r ∈ rs, ∃ o, r.addr + shift = sAddress (cgidOf u core) o ∧ o < 2 ^ 19 ∧ o % 32 = 0 ∧
          maskAt u core r.lsid = 0) →
        done.2 = .accept ∧ left ∧ won ∧ ∀ a, memGet done.1.mem a =
          match rs.reverse.find? fun r => decide (at_ r ≤ a) && decide (a < at_ r + 32) && r.mask.getLsbD (a - at_ r) with
          | some r => sectorByte r.data (a - at_ r)
          | none => memGet u.mem a) ∧
      -- a first record without the grant of a commit home
      (∀ r more y o, rs = r :: more → formOf u core (r.addr + shift) = .slice y o → y.toNat % 4096 ≠ core →
        samePartition u core (y.toNat % 4096) = true → (grantsAt (getCore u (y.toNat % 4096)) o).ch = false →
        tried = some ⟨.win, firstByte (r.addr + shift) r.mask⟩)
    (g.out = none →
      (late ∨ l.noneAccepted.contains (g.die, g.ident) = true → answers u .cancel) ∧
      (¬ late → l.noneAccepted.contains (g.die, g.ident) = false →
        accepts 0 fun l' => l'.tiles = l.tiles ∧ (g.die, g.ident) ∈ l'.noneAccepted)) ∧
    (g.out = some n → l.tiles[n]? = some x →
      let used := late ∨ g.ident ∈ x.accepted
      let moved := g.nobase = false ∧ g.base ≠ x.version
      let blocked := livePin l g n ((x.version + 1) % x.slots) = true ∨
        ∃ h ∈ l.regs, h.id ≠ g.id ∧ h.gone = false ∧ h.out = some n ∧
          (h.ts < g.ts ∨ (h.ts = g.ts ∧ h.ident < g.ident)) ∧ (g.nobase = true ∨ h.base = g.base)
      let next := fun (l' : Launch) =>
        l'.tiles[n]? = some { x with
          version := x.version + 1, ts := g.ts, accepted := (g.ident :: x.accepted).take 64 } ∧
        ∀ m, m ≠ n → l'.tiles[m]? = l.tiles[m]?
      (used → answers u .cancel) ∧
      (¬ used → moved → answers (reRelease (countAbort u key) key g.id) .abort) ∧
      (¬ used → ¬ moved → blocked →
        answers (onReg u key g.id fun r => r.onCopy hart c.tag fun c => { c with state := .parked }) .parked) ∧
      (¬ used → ¬ moved → ¬ blocked → accepts (x.slot (x.version + 1) - x.slot (g.base + 1)) next ∧
        ∃ l', getLaunch (finishAccept u key g c) key = some l' ∧ next l'))

/-- 15 R279: what a task copy finds when it starts: its descriptor, argument, base version, output slot and inputs in
x registers, the others, vectors, masks and branch registers 0, bindings gone, user mode at its entry; FFLAGS, RWC,
channels and the supervisor's registers keep their values. A task without an output tile finds 0 in place of the slot. -/
def Obligations.TaskStartState : Prop :=
  ∀ (h : Hart) (l : Launch) (r : TaskReg) (t : TaskCopy),
    let g := h.startTask l r t
    g.pc = r.entry ∧ g.mode = .user ∧ g.run = .running ∧ g.rx 3 = r.descAddr ∧ g.rx 4 = r.arg ∧
    g.rx 5 = BitVec.ofNat 64 r.base ∧
    (∀ n x, r.out = some n → l.tiles[n]? = some x → g.rx 6 = x.slot (r.base + 1)) ∧ (r.out = none → g.rx 6 = 0) ∧
    (∀ i, i < 4 → g.rx (BitVec.ofNat 5 (7 + i)) = (r.inAddr[i]?).getD 0) ∧
    g.rx 2 = BitVec.ofNat 64 (2 ^ 62 + h.spillbase.toNat % 2 ^ 19 + h.spillsize.toNat % 2 ^ 17) ∧
    (∀ i : Reg, i = 0 ∨ i = 1 ∨ 11 ≤ i.toNat → g.rx i = 0) ∧ (∀ i, g.rv i = 0) ∧ (∀ i, g.rm i = 0) ∧
    (∀ i, g.rb i = 0) ∧ (∀ i, g.binding i = .none) ∧ (∀ z, tileOf g z = none) ∧ g.frm = 0 ∧ g.vt = 0 ∧
    g.hla = l.lbase ∧ g.frame = none ∧ g.lease = none ∧ g.task = some t ∧
    g.fflags = h.fflags ∧ g.rwc = h.rwc ∧ g.chans = h.chans ∧ g.ovfptr = h.ovfptr ∧ g.sup = h.sup ∧
    g.mach = h.mach ∧ g.sien = h.sien ∧ g.stimecmp = h.stimecmp ∧ g.s1base = h.s1base

/-- 15 R277, R278, R287, R288, R296 to R302, R305 to R308, R310: the steps of a task launch that no instruction makes.
A release, dispatch, reply, cancel or counter unit that is due is served, the oldest first. A decrement counts an armed
counter down, disarms it and releases its descriptor at zero, and reports an unarmed or invalid one; arming an armed
counter is reported too. A backup takes EXPWORK of its class from its tenant's budget when it starts, on its reserved
hart once no handler runs there. The model's choices: an event that is not due changes nothing
(notes/assumptions/27.md), a launch whose counters do not fit stays queued (63.md), and what an undelivered event would
have released again comes before the other releases (66.md). -/
def Obligations.TaskEventResults : Prop :=
  ∀ (s v w : State) (k hart die : Nat) (at_ : Placement) (tile : Option Nat) (l : Launch) (r : TaskReg) (p : Partition)
      (t : TaskCopy) (u : TaskUnit) (us : List TaskUnit) (e : Dword) (id : Nat) (rest : List (Dword × Nat × Option Nat))
      (key : BitVec 32) (n : BitVec 16) (orphan : Nat × Nat) (orphans : List (Nat × Nat)),
    let h := getHart s hart
    -- release
    (getLaunch s k = none → Runs (.taskRelease k) s s ∧ Runs (.commitRedecision k tile) s s ∧
      Runs (.depsetApply k) s s ∧ Runs (.counterDecrement k) s s) ∧
    (getLaunch s k = some l → l.isTask = true → l.state = .running ∨ l.state = .stopping →
      let rel := { l with releases := rest }
      (l.orphans = orphan :: orphans → Runs (.taskRelease k) s (redecideLaunch
        (releaseServed (setLaunch s { l with orphans := orphans }) (some (k, orphan.1, orphan.2))) k)) ∧
      (l.orphans = [] → l.units = u :: us → u.act = .spawn e →
        Runs (.taskRelease k) s (settleLaunch (releaseNew (setLaunch s { l with units := us }) k e u.die) k)) ∧
      (l.orphans = [] → (∀ x d, l.units.head? = some x → x.act ≠ .spawn d) →
        (l.releases = (e, die, none) :: rest →
          Runs (.taskRelease k) s (settleLaunch (releaseNew (setLaunch s rel) k e die) k)) ∧
        (l.releases = (e, die, some id) :: rest →
          Runs (.taskRelease k) s (redecideLaunch (reRelease (setLaunch s rel) k id) k)) ∧
        (l.releases = [] → Runs (.taskRelease k) s s))) ∧
    (getLaunch s k = some l → l.isTask = true → l.state = .queued →
      (partOpen s l.part = false ∨ countersFit s l = false → Runs (.taskRelease k) s s) ∧
      (partOpen s l.part = true → countersFit s l = true →
        (l.stopCmd.isSome = true →
          Runs (.taskRelease k) s (if tilesFit s l = true then resumeTasks s k else s)) ∧
        (l.stopCmd = none → getPart s l.part = some p →
          (homedTiles p l.tiles s = (v, none) → v.away = none → Runs (.taskRelease k) s (finishLaunch v k 1 0)) ∧
          (∀ tiles, homedTiles p l.tiles s = (v, some tiles) →
            (homesFull (tileHomes tiles) = true → Runs (.taskRelease k) s (finishLaunch v k 1 0)) ∧
            (homesFull (tileHomes tiles) = false → Runs (.taskRelease k) s
              (if tilesFit s { l with tiles := tiles } = true then startTaskLaunch v k tiles else s)))))) ∧
    -- dispatch
    (freeHart s hart = false → Runs (.taskDispatch hart at_) s s) ∧
    (freeHart s hart = true → bestTask (candidates s hart at_) = some (l, r) →
      taskFits s hart at_ l r = some v → getPart s l.part = some p →
      (charge v p.tenant 1 = none → Runs (.taskDispatch hart at_) s
        (onReg s l.key r.id fun y => { y with tokenWait := y.tokenWait.or (some s.cycle) })) ∧
      (charge v p.tenant 1 = some w → Runs (.taskDispatch hart at_) s
        (beginCopy (unqueue (countTokenWait w p.tenant r) (dieOf (hart / 4)) l.key r.id) hart l.key r.id false))) ∧
    -- parked commits
    (getLaunch s k = some l →
      Runs (.commitRedecision k tile) s (settleLaunch (redecideAll s k (parkedAt l tile)) k)) ∧
    -- replies
    (h.task = none → Runs (.commitReply hart) s s ∧ Runs (.taskCancel hart) s s) ∧
    (h.task = some t → h.launch = some k →
      (t.reply = none → Runs (.commitReply hart) s s) ∧
      (t.reply = some .accept → Runs (.commitReply hart) s (settleLaunch (retireReg
        (leaveTask (closeLease (asHart s hart fun s => onHart s Hart.count) hart) hart) k t.reg) k)) ∧
      (t.reply = some .parked → Runs (.commitReply hart) s
        (leaveTask (closeLease (onReg (asHart s hart fun s => onHart s Hart.count) k t.reg fun r =>
          r.onCopy hart t.tag fun c => { c with work := (h.rwc + 1 - t.startRwc).toNat }) hart) hart)) ∧
      (∀ l r, getLaunch s k = some l → l.regs.find? (fun y => y.id == t.reg) = some r →
        let gone := leaveTask (dropCopy (asHart s hart fun s => onHart s Hart.count) hart) hart
        (t.reply = some .abort →
          Runs (.commitReply hart) s (redecideLaunch (copyEnded gone k r.id hart t.tag false) k)) ∧
        (t.reply = some .cancel → Runs (.commitReply hart) s (redecideLaunch
          (copyEnded (countCancelled gone l r (h.rwc + 1 - t.startRwc).toNat) k r.id hart t.tag (t.run == r.run)) k)) ∧
        -- cancels
        (let due := ∃ c ∈ r.copies, c.hart = hart ∧ c.tag = t.tag ∧ c.state = .cancelled
         (due → t.waiting = false → Runs (.taskCancel hart) s (redecideLaunch (copyEnded
           (countCancelled (leaveTask (dropCopy s hart) hart) l r (h.rwc - t.startRwc).toNat) k r.id hart t.tag false) k)) ∧
         (¬ due ∨ t.waiting = true → Runs (.taskCancel hart) s s)))) ∧
    -- counters
    (getLaunch s k = some l → l.works = true → l.units = u :: us →
      let l' := { l with units := us }
      let ends := fun (i : Instr) (t : State) => Runs i s (settleLaunch t k)
      let c := counterOf l key
      let armed := { c with count := n.toNat, armed := true, desc := e }
      (u.act = .depset key n e → Runs (.counterDecrement k) s s ∧
        (counterOk s l key = false → ends (.depsetApply k) (depUnder (setLaunch s l') l' u key 2)) ∧
        (counterOk s l key = true → c.armed = true →
          ends (.depsetApply k) (depUnder (setLaunch s l') l' u key 1)) ∧
        (counterOk s l key = true → c.armed = false →
          (n = 0 → ends (.depsetApply k)
            (setLaunch s { l' with releases := l.releases ++ [(e, key.toNat / 2 ^ 16 % 8, none)] })) ∧
          (n ≠ 0 → ends (.depsetApply k)
            (setLaunch s { l' with counters := { armed with key := key.toNat } ::
              (l.counters.filter fun o => o.key != key.toNat) })))) ∧
      (u.act = .depdec key → Runs (.depsetApply k) s s ∧
        (counterOk s l key = false → ends (.counterDecrement k) (depUnder (setLaunch s l') l' u key 2)) ∧
        (counterOk s l key = true → c.armed = false →
          ends (.counterDecrement k) (depUnder (setLaunch s l') l' u key 0)) ∧
        (counterOk s l key = true → c.armed = true →
          let others := l.counters.filter fun o => o.key != c.key
          (c.count = 1 → ends (.counterDecrement k) (setLaunch s { l' with
            counters := { c with count := 0, armed := false } :: others
            releases := l.releases ++ [(c.desc, key.toNat / 2 ^ 16 % 8, none)] })) ∧
          (c.count ≠ 1 → ends (.counterDecrement k) (setLaunch s { l' with
            counters := { c with count := c.count - 1 } :: others }))))) ∧
    -- Canopy and backups
    (let now := nextCheck s die
     let d := getDie s die
     now % 4096 = 0 ∧ d.checked < now ∧
     (s.cycle < now → Runs (.canopyCheck die) s s) ∧
     (now ≤ s.cycle → Runs (.canopyCheck die) s (hedgeAll (setDie s die { d with checked := now })
       (((copiesOn s die).filter fun x => straggler s now x.1 x.2.1 x.2.2).map fun x => (x.1.key, x.2.1, x.2.2))))) ∧
    (((knownHarts s).find? fun o => (getHart s o).reserved.any fun b => b.1 == k && b.2.1 == id) = some hart →
      let free := setHart s hart { h with reserved := none }
      (getLaunch s k = none → Runs (.backupStart k id at_) s free) ∧
      (getLaunch s k = some l → l.regs.find? (fun y => y.id == id) = some r →
        let stands := l.state = .running ∧ (r.state = .running ∨ r.state = .faulted) ∧ r.current.length ≤ 1 ∧
          h.reserved = some (k, id, r.run)
        (¬ stands → Runs (.backupStart k id at_) s free) ∧
        (stands → h.run ≠ .unloaded → Runs (.backupStart k id at_) s s) ∧
        (stands → h.run = .unloaded → readyCore free l (hart / 4) at_ = some v →
          let begun := beginCopy v hart k id true
          getPart begun l.part = some p →
          let x := getTenant begun p.tenant
          let cost := ((l.classes[r.cls]?).map (·.expwork)).getD 0
          Runs (.backupStart k id at_) s
            (countTenant (setTenant begun { x with hedgeLeft := x.hedgeLeft - cost }) p.tenant 5 1)) ∧
        (stands → h.run = .unloaded → readyCore free l (hart / 4) at_ = none → Runs (.backupStart k id at_) s s)))

/-! ### Launches -/

/-- 01 R26 to R30, 15 R275, R311, 17 R332 to R334, 19 R356, R357: LAUNCH accepts a block or completes at once with the
reason it cannot; a queued hart launch starts when its cores are free and no launch goes before it, or ends with NORES
when they no longer suffice; PREEMPT, RESUME and END act on a launch of the right state and otherwise answer BUSY;
contexts rotate at the end of their slice, each round with the SLICE it began with (19 R365), once the copies of the one
that leaves have completed. That a waiting RESUME whose cores no longer suffice ends with NORES, and END on it ends its
launch (notes/assumptions/65.md), and what a task launch waits for (63), are the model's choices. -/
def Obligations.LaunchResults : Prop :=
  ∀ (s u v : State) (c : Cmd) (p : Partition) (l : Launch) (k x hart : Nat) (at_ : Placement) (cs : List Nat)
      (ctx : Nat × Hart),
    let lid := cmdAt c 24 8
    let handle := cmdAt c 8 8
    let ends := fun (i : Instr) (t : State) (status : Nat) => Runs i s (complete t c status 0)
    let mine := s.pk.launches.find? fun o => o.part == p.handle && o.lid == lid
    -- the commands
    (s.pk.boot = .up → fnExists s c.fn = true →
      (c.fn = 0 → ends (.launch c) s 3) ∧
      (getPart s handle = some p →
        let own := c.fn = p.tenant + 1
        let busy := (getFn s (p.tenant + 1)).resetting = true
        (c.fn ≠ 0 → ¬ own → ∀ i ∈ [Instr.launch c, .preempt c, .resume c, .endLaunch c], ends i s 1) ∧
        (c.fn = 0 → busy → ∀ i ∈ [Instr.preempt c, .resume c, .endLaunch c], ends i s 4) ∧
        (own →
          let used := ∃ o ∈ s.pk.launches, o.lid = lid ∧ ∃ q, getPart s o.part = some q ∧ q.tenant = p.tenant
          let block := blockLaunch s p (Launch.blank s.pk.nextLaunch lid p c) (BitVec.ofNat 64 (cmdAt c 16 8))
          (used → ends (.launch c) s 13) ∧
          (¬ used → p.stvec = none → ends (.launch c) s 4) ∧
          (¬ used → p.stvec ≠ none →
            (block = (u, none) → ends (.launch c) u 1) ∧
            (block = (u, some (l, x)) →
              let few := l.isTask = false ∧ (if l.cores = true then 4 * (liveCores u p.handle).length < l.count
                else liveCores u p.handle = [])
              let new := { l with block := bytesOf 128 x }
              let added := { u with pk := { u.pk with
                launches := u.pk.launches ++ [new], nextLaunch := u.pk.nextLaunch + 1 } }
              (l.saved = [] → few → ends (.launch c) u 2) ∧
              (l.saved = [] → ¬ few → Runs (.launch c) s (tryTaskLaunch added new.key)) ∧
              (l.isTask = false → (∀ o ∈ u.pk.launches, o.key ≠ l.key) → tryTaskLaunch added new.key = added)))) ∧
        (own ∨ (c.fn = 0 ∧ ¬ busy) →
          (mine = none → ∀ i ∈ [Instr.preempt c, .resume c, .endLaunch c], ends i s 1) ∧
          (mine = some l →
            (l.state ≠ .running → ends (.preempt c) s 4) ∧
            (l.state = .running → l.isTask = true → Runs (.preempt c) s
              (setLaunch s { l with state := .stopping, stopCmd := some c, stopAt := s.cycle + 26000 })) ∧
            (l.state = .running → l.isTask = false → ends (.preempt c) (preemptHarts s l.key) 0) ∧
            (l.state ≠ .preempted → ends (.resume c) s 4) ∧
            (l.state = .preempted → l.isTask = true → Runs (.resume c) s
              (tryTaskLaunch (setLaunch s { l with state := .queued, stopCmd := some c }) l.key)) ∧
            (l.state = .preempted → l.isTask = false →
              let waits := { l with state := .queued, stopCmd := some c }
              let t := setLaunch s waits
              (canStart t waits = false → Runs (.resume c) s t) ∧
              (canStart t waits = true → Runs (.resume c) s (resumeHarts t l.key))) ∧
            (l.state = .queued → l.stopCmd = none → ends (.endLaunch c) s 4) ∧
            (l.state ≠ .queued ∨ l.stopCmd ≠ none → ends (.endLaunch c) (finishLaunch s l.key 12 0) 0))))) ∧
    -- starts
    (getLaunch s k = none → Runs (.hartLaunchDispatch k at_) s s ∧ Runs (.preemptDeadline k) s s) ∧
    (getLaunch s k = some l →
      let gone := l.state = .queued ∧ l.isTask = false ∧ fitsCores s l = false
      let first := canStart s l = true ∧
        ∀ o ∈ s.pk.launches, launchBefore o l = true → canStart s o = true → o.part ≠ l.part
      (gone → Runs (.hartLaunchDispatch k at_) s (finishLaunch s k 2 0)) ∧
      (¬ gone → ¬ first → Runs (.hartLaunchDispatch k at_) s s) ∧
      (¬ gone → first → l.saved ≠ [] → Runs (.hartLaunchDispatch k at_) s (resumeHarts s k)) ∧
      (¬ gone → first → l.saved = [] → launchCores s l = some cs → startHartLaunch s k cs at_ = some v →
        Runs (.hartLaunchDispatch k at_) s v) ∧
      (l.isTask = true → l.state = .stopping → Runs (.preemptDeadline k) s
        (finishStop { s with cycle := if copiesLeft l = true then Max.max s.cycle l.stopAt else s.cycle } k)) ∧
      (l.isTask = false ∨ l.state ≠ .stopping → Runs (.preemptDeadline k) s s)) ∧
    -- rotation
    (rotating s hart = none → Runs (.contextRotation hart) s s) ∧
    (rotating s hart = some (l, ctx) →
      let t := { s with cycle := Max.max s.cycle (sliceEnd s hart) }
      let stopped := stopContext t hart
      let saved := takeContext stopped hart
      (∀ a, engineAway stopped hart = some a → Runs (.contextRotation hart) s { t with away := some a }) ∧
      (engineAway stopped hart = none → ∀ la, getLaunch saved l.key = some la → Runs (.contextRotation hart) s
        (let u := setLaunch saved { la with contexts := la.contexts.erase ctx }
         putContext u hart { ctx.2 with slice := nextSlice u hart (getHart t hart) ctx.2 })))

/-! ### Events at harts -/

/-- 17 R316, R322, R323, R327, R329, 03 R55, R58, R59, 05 R90, 01 R21, R23, R24, 07 R142, 17 R342, 11 R220: what happens
at a hart besides its instructions, and how class L instructions issue and complete: with no window a result that is
there is written at once, and otherwise a window opens that holds the result until it closes; a later instruction's
result to the same register remains; a fault with no window traps, and inside the window of one that has faulted counts
as issued. With no window open, an interrupt of the lowest pending enabled code, an event, and a
user-level completion each save the next address and go to their vector; the other events do what their deadline
or cause asks. That they change nothing when they are not due is the model's choice (notes/assumptions/27.md). -/
def Obligations.HartEventResults : Prop :=
  ∀ (s : State) (i k hart core grove : Nat) (e : Event) (es : List Event) (p : Pending) (w : IWord) (a : Dword)
      (x : Option Dword) (stage2 : Bool) (f : BitVec 13 × Nat) (fs : List (BitVec 13 × Nat)),
    let h := s.hart
    let o := getHart s hart
    let same := h.pc.toNat / 4 * 4
    -- entry to supervisor mode at the boundary
    let enters := fun (ev : Instr) (cause tval : Dword) =>
      ∃ t, Runs ev s t ∧ t.hart.mode = .supervisor ∧ t.hart.pc = h.sup.tvec ∧ t.hart.sup.epc = BitVec.ofNat 64 same ∧
        t.hart.sup.cause = cause ∧ t.hart.sup.tval = tval ∧ t.hart.sup.lacount = 0 ∧ t.hart.uih = false ∧
        t.hart.frame = none ∧ t.hart.sup.slot = h.frame ∧ t.hart.sup.status.getLsbD 0 = false ∧
        t.hart.sup.status.toNat / 16 % 4 = h.mode.code ∧ t.hart.mach = h.mach ∧ t.hart.x = h.x ∧ t.hart.v = h.v ∧
        t.mem = s.mem ∧ t.core = s.core
    (h.pend = [] → h.sendWait = none → h.run = .running →
      (takesInterrupts h = true → i < 4 → (sipnd s).getLsbD i = true → h.sien.getLsbD i = true →
        (∀ j, j < i → ((sipnd s).getLsbD j && h.sien.getLsbD j) = false) →
        enters .supervisorInterrupt (BitVec.ofNat 64 (2 ^ 63 + i)) 0) ∧
      (h.commandFaults = [] → h.events = e :: es → takesInterrupts h = true → e.trap.cause ≠ .mcall →
        e.trap.cause ≠ .check →
        enters .eventEntry (BitVec.ofNat 64 (2 ^ 62 + e.trap.cause.code)) e.trap.val ∧
        ∀ t, Runs .eventEntry s t → t.hart.events = es ∧ t.hart.fromEvents = e.resume :: h.fromEvents) ∧
      (h.commandFaults = e :: es → h.mode ≠ .machine → h.replayEnd = none → e.trap.cause ≠ .mcall →
        e.trap.cause ≠ .check →
        (h.task = none → enters .eventEntry (BitVec.ofNat 64 (2 ^ 62 + e.trap.cause.code)) e.trap.val ∧
          ∀ t, Runs .eventEntry s t → t.hart.commandFaults = es) ∧
        (∀ tk l, h.task = some tk → h.launch = some l → ∃ t, Runs .eventEntry s t ∧ t.hart.mode = .supervisor ∧
          t.hart.pc = h.sup.tvec ∧ t.hart.task = none ∧ t.hart.cancelled = some (l, tk.reg, tk.run) ∧
          t.hart.sup.status.getLsbD 11 = true))) ∧
    (h.commandFaults = [] → h.events = [] → Runs .eventEntry s s) ∧
    (takesInterrupts h = false → Runs .supervisorInterrupt s s) ∧
    -- user-level completions
    (takesUser h = false ∨ dueChannel h = none → Runs .userInterrupt s s) ∧
    (takesUser h = true → dueChannel h = some k → h.pend = [] → h.sendWait = none → ∃ t, Runs .userInterrupt s t ∧
      SameOutsideHart s t ∧ t.hart.pc = BitVec.ofNat 64 (h.uivec.toNat / 4 * 4) ∧ t.hart.uiepc = BitVec.ofNat 64 same ∧
      t.hart.uicause = BitVec.ofNat 64 (k * 256 + 1) ∧ t.hart.uien.getLsbD 0 = false ∧ t.hart.uien.getLsbD 1 = true ∧
      t.hart.uih = true ∧ t.hart.mode = .user ∧ t.hart.x = h.x ∧ t.hart.sup = h.sup ∧
      (∀ c, h.chans[k]? = some c → t.hart.chans[k]? = some { c with due := false })) ∧
    -- the issue of a class L instruction
    (∀ (la : BitVec 4) (d : Dest) (fl : Flags) (fp : Bool) (y : Trap),
      let n := if h.replayEnd.isSome = true then 0 else la.toNat
      let out := match d with
        | .x .. => !h.near
        | .v .. => !h.near
        | _ => false
      let window := fun (f : Option Trap) =>
        ({ seq := h.issued, la := n, site := h.site, out := out, dest := d, flags := fl, fp := fp, fault := f } : Pending)
      let opens := fun (q : Pending) => { h with pend := h.pend ++ [q] }
      -- a result that is there is written at once
      (n = 0 → out = false → issueL s la d fl fp none =
        (let u := completeOne s (window none)
         { u with hart := u.hart.retire })) ∧
      (n ≠ 0 ∨ out = true → issueL s la d fl fp none = { s with hart := (opens (window none)).retire }) ∧
      -- a fault opens a window too, and with no lookahead is a trap of this instruction, or of an older one's fault
      (n ≠ 0 → issueL s la d fl fp (some y) = { s with hart := (opens (window (some y))).issue.advance }) ∧
      (n = 0 → windowsFault s = true → windowsWait s = false →
        let mine := { window (some y) with out := false, dest := .none, flags := 0, fp := false }
        issueL s la d fl fp (some y) = raise { s with hart := (opens mine).issue.advance } y.cause y.val) ∧
      (n = 0 → windowsFault s = false ∨ windowsWait s = true → h.replayEnd = none →
        (h.taskFault y.cause = false → issueL s la d fl fp (some y) = raise s y.cause y.val) ∧
        (∀ tk l, h.taskFault y.cause = true → h.task = some tk → h.launch = some l → h.pend = [] → h.sendWait = none →
          y.cause ≠ .mcall → y.cause ≠ .check →
          let t := issueL s la d fl fp (some y)
          t.hart.mode = .supervisor ∧ t.hart.pc = h.sup.tvec ∧ t.hart.task = none ∧
            t.hart.cancelled = some (l, tk.reg, tk.run) ∧ t.hart.sup.status.getLsbD 11 = true ∧
            t.hart.sup.epc = BitVec.ofNat 64 same ∧ t.hart.sup.tval = y.val))) ∧
    -- the completion of one: its result, flags, and older windows that name the same register
    (let u := completeOne s p
     let older := fun (q : Pending) => q.seq < p.seq ∧ q.dest.register.isSome = true ∧ q.dest.register = p.dest.register
     (∀ r v, p.dest = .x r v → u.hart.v = h.v ∧ ∀ j, u.hart.rx j = if j = 0 then 0 else if j = r then v else h.rx j) ∧
     (∀ r v, p.dest = .v r v → u.hart.x = h.x ∧ u.hart.shadow = h.shadow ∧
       ∀ j, u.hart.rv j = if j = r then v else h.rv j) ∧
     (p.dest.register = none → u.hart.x = h.x ∧ u.hart.shadow = h.shadow ∧ u.hart.v = h.v) ∧
     u.hart.fflags = h.fflags ||| p.flags ∧ u.mem = s.mem ∧ u.core = s.core ∧ u.harts = s.harts ∧
     u.hart = { h with
       x := u.hart.x, shadow := u.hart.shadow, v := u.hart.v, fflags := u.hart.fflags, pend := u.hart.pend } ∧
     ∀ y, y ∈ u.hart.pend ↔ ∃ q ∈ h.pend, q.seq ≠ p.seq ∧ (older q → y = { q with dest := q.dest.voided }) ∧
       (¬ older q → y = q)) ∧
    -- results and words
    ((∀ q ∈ h.pend, q.isPop = false) →
      let u := match h.pend.find? (·.out) with
        | some q => { s with hart := { h with pend := h.pend.map fun y => if y.seq = q.seq then { y with out := false } else y } }
        | none => s
      ((u.hart.pend.find? fun q => decide (q.seq + 1 + q.la ≤ h.issued)) = some p →
        (p.fault = none → pendReady u p = true → Runs (.classLWriteback s.hgid) s (completeOne u p)) ∧
        (p.fault ≠ none ∨ pendReady u p = false → Runs (.classLWriteback s.hgid) s u)) ∧
      ((∀ q ∈ h.pend, h.issued < q.seq + 1 + q.la) → Runs (.classLWriteback s.hgid) s u)) ∧
    Runs (.reservedEncoding w) s (raise { s with hart := { h with iword := w } } .illegal (w.setWidth 64)) ∧
    (let g := getGrove s grove
     (g.flight = f :: fs → Runs (.groveFlagArrival grove) s
       (setGrove s grove { g with gfflags := g.gfflags ||| f.1, flight := fs })) ∧
     (g.flight = [] → Runs (.groveFlagArrival grove) s s)) ∧
    -- issue and fetch
    (let c := getCore s core
     (c.issueRun < 4096 → Runs (.issueQuantum core) s s) ∧
     (4096 ≤ c.issueRun → Runs (.issueQuantum core) s (setCore s core { c with pass := .stopped })) ∧
     (c.zeroing = none → Runs (.bankZeroCompletion core) s s) ∧
     (c.zeroing.isSome = true → ∃ t, Runs (.bankZeroCompletion core) s t ∧ (getCore t core).zeroing = none ∧
       t.mem = s.mem ∧ t.hart = h)) ∧
    (let g := groveOf (hart / 4)
     let next := portNext s g = some hart ∧ ∃ r, o.fetch = some r ∧ r.hold = none ∧ r.addr = a
     let t := asHart (setGrove s g { getGrove s g with port := posInGrove (hart / 4) }) hart fun u => deliverBlock u a
     (¬ next → Runs (.groveFetch hart a) s s) ∧
     (next → (∀ q, t.away ≠ some (.route q)) → Runs (.groveFetch hart a) s t) ∧
     (next → ∀ q, t.away = some (.route q) → Runs (.groveFetch hart a) s (setHart s hart { o with waitRoute := some q })) ∧
     (next → hart = s.hgid → s.away = none → (∃ y j z l, formOf s s.cid a = .slice y j ∧ formOf s s.cid (a + 32) = .slice z l) →
       ∃ u b rest, Runs (.groveFetch hart a) s u ∧ u.hart.fetch = none ∧ u.hart.stall = none ∧
         u.hart.ibuf = b :: rest ∧ b.addr = a ∧ rest.length ≤ 1 ∧ u.mem = s.mem)) ∧
    (∀ r, o.fetch = some r →
      let made := { r with hold := none }
      (r.hold = some i → Runs (.alignTimeout hart) s
        (let u := setHart s hart { o with fetch := some made, stall := none }
         releaseHeld { u with cycle := Max.max u.cycle i } hart made)) ∧
      (r.hold = none → Runs (.alignTimeout hart) s s)) ∧
    (o.fetch = none → Runs (.alignTimeout hart) s s) ∧
    (o.run = .idle → Runs (.idleWake hart) s (setHart s hart { o with run := .running })) ∧
    (o.run ≠ .idle → Runs (.idleWake hart) s s) ∧
    (o.inv = some (x, stage2, false) → Runs (.xlinvCompletion hart) s
      (setHart (dropHeld s (handleAt s (hart / 4)) stage2 x) hart { o with inv := some (x, stage2, true) })) ∧
    (o.inv = none → Runs (.xlinvCompletion hart) s s)

/-! ### Events at logs, homes and tables -/

/-- 11 R188, R191, R194, R195, R197, R198, R202, R204, R205, R208, R213, R222, 17 R339, R343, 19 R383: records
leave, are applied in the order of their home, held or reclaimed; releases complete; reads, acquires and atomics
arrive; what has lived 4,096 cycles expires; Understory serves pages; a lost record is an error its hart has met. The
model's choices: an event that is not enabled changes nothing (notes/assumptions/27.md), what READ_REQUEST does (41), the
LOGERR of a running task (42), how Understory serves a page (59), and which writes the host may reject (82). -/
def Obligations.LogEventResults : Prop :=
  ∀ (s u : State) (core idx n part page : Nat) (addr ia st e : Dword) (r : Record) (t : Nat) (req : AtomicReq)
      (loc : Location) (o : Nat) (fl : Flags) (cs : Cause) (ag : Agent) (pl : Place) (pa sh : Nat) (p : Partition),
    let c := getCore s core
    -- reads
    (let ps := parts addr (Min.min n 64)
     let fault := addrFault s { core := core, mode := .user, root := 0, launch := none } false true ps
     (fault.isSome = true → Runs (.readRequest core addr n) s s) ∧
     (fault = none → Runs (.readRequest core addr n) s (arriveReads s core ps)) ∧
     -- one sector of another core's slice
     (∀ x off, fault = none → ps = [(addr, n)] → formOf s core addr = .slice x off → x.toNat % 4096 ≠ core →
       samePartition s core (x.toNat % 4096) = true →
       ((grantsAt (getCore s (x.toNat % 4096)) off).rd = true → ∃ v, Runs (.readRequest core addr n) s v ∧ v.mem = s.mem ∧
         ∃ y ∈ (getCore v core).view, y.key = sectorKey (sliceKey (x.toNat % 4096) off)) ∧
       ((grantsAt (getCore s (x.toNat % 4096)) off).rd = false →
         Runs (.readRequest core addr n) s (countRefusal s (x.toNat % 4096))))) ∧
    -- records
    (c.held.isSome = true → Runs (.autoPublication core n) s s) ∧
    (c.held = none → ∃ v, Runs (.autoPublication core n) s v ∧ v = setCore s core { c with log := (getCore v core).log } ∧
      (getCore v core).log.length = c.log.length ∧
      ∀ j x, c.log[j]? = some x →
        let before := (c.log.take j).countP fun y => !y.task && !y.pubd
        (getCore v core).log[j]? = some (if x.task = false ∧ before < n then { x with pubd := true } else x)) ∧
    (let ready := c.log[idx]? = some r ∧ r.pubd = true ∧ r.applied = false ∧ r.task = false ∧
       (r.bad = true → r.resub = false) ∧ (∀ h, c.held = some h → r.rid < h.1) ∧
       ∀ x ∈ c.log.take idx, x.task = false → x.applied = false → sameHome s core x r = false
     (ready → Runs (.recordApply core idx) s (applyRecord s core r)) ∧
     (∀ x off, ready → formOf s core r.addr = .slice x off → x.toNat % 4096 = core → maskAt s core r.lsid = 0 →
       ∃ v, Runs (.recordApply core idx) s v ∧ v.mem = writeMasked s.mem (sliceKey core off) r.mask r.data ∧
         ∀ y ∈ (getCore v core).log, y.rid = r.rid → y.applied = true) ∧
     (ready → (placeOfRecord s core r).any (fun pl => entU pl.leaf || leafBeyond s pl.leaf) = true →
       Runs (.egressCheck core idx) s (applyRecord s core r)) ∧
     (c.log[idx]? = some r → ¬ ready → Runs (.recordApply core idx) s s ∧ Runs (.egressCheck core idx) s s)) ∧
    (c.log[idx]? = some r →
      (r.applied = true → Runs (.recordAck core idx) s
        (setCore s core { c with log := c.log.filter fun x => x.rid != r.rid })) ∧
      (r.applied = false → Runs (.recordAck core idx) s (setCore s core c)) ∧
      (r.pubd = false ∨ r.applied = true ∨ r.bad = false → Runs (.recordResend core idx) s s) ∧
      (r.pubd = true → r.applied = false → r.bad = true →
        Runs (.recordResend core idx) s (unpinned (lostRecord s core r) (launchOfRecord s core r) 4 .logerr)) ∧
      (let without := c.log.filter fun x => x.rid != r.rid
       let owner := core * 4 + r.hart.toNat
       let h := getHart s owner
       let lost := lostRecord (setCore s core { c with log := without }) core r
       (r.task = true →
         (runsTag h r.tag = true → Runs (.logErrorDetected core idx) s (setHart lost owner
           { h with pendingTrap := h.pendingTrap.or (some (⟨.logerr, r.addr⟩, 0, [])) })) ∧
         (runsTag h r.tag = false → Runs (.logErrorDetected core idx) s (cancelTagged lost core r.tag r.addr))) ∧
       (r.task = false → r.pubd = false →
         Runs (.logErrorDetected core idx) s (settle (lostRecord (setCore s core { c with
           log := without
           logerr := c.logerr ++ [{ hart := r.hart, lidx := r.lidx, addr := r.addr, pc := r.pc }] }) core r) core)) ∧
       (r.task = false → r.pubd = true → r.applied = true → Runs (.logErrorDetected core idx) s s) ∧
       (r.task = false → r.pubd = true → r.applied = false → Runs (.logErrorDetected core idx) s
         (setCore s core { c with log := c.log.map fun x => if x.rid = r.rid then { x with bad := true } else x })))) ∧
    -- releases, acquires, atomics
    Runs (.releaseCompletion core) s (settle s core) ∧
    (∀ q, c.forming = [q] →
      let d := getCore (settle s core) core
      let tail := ∀ x ∈ c.log, x.task = false → x.rid < q.bound → x.applied = true
      (tail → d = { c with forming := [], done := c.done ++ [{ q with sectors := c.written }] }) ∧ (¬ tail → d = c)) ∧
    (localCore s (BitVec.ofNat 20 st.toNat) = some t →
      (mustWait s core t st = true → Runs (.acquireRequest core st) s s) ∧
      (mustWait s core t st = false → Runs (.acquireRequest core st) s (acquireLog s core t st)) ∧
      (tenantOf s core ≠ tenantOf s t ∨ (getCore s t).forming = [] →
        Runs (.acquireRequest core st) s (acquireLog s core t st))) ∧
    (localCore s (BitVec.ofNat 20 st.toNat) = none → Runs (.acquireRequest core st) s s) ∧
    (let w := if req.w32 = true then 32 else 64
     let by_ : Agent := { core := req.core, mode := .supervisor, root := 0, launch := (getCore s req.core).owner }
     let x := reach s req.key
     let at_ := atomicLocation x req.core req.key w
     let done := fun loc => amoApply x by_ loc req.op.toNat w (req.operand.toNat % 2 ^ w) (req.compare.toNat % 2 ^ w)
       (req.label ||| loc.mask)
     (at_ = none → Runs (.atomicApply req) s x) ∧
     (at_ = some loc →
       (done loc = .error cs → Runs (.atomicApply req) s x) ∧
       (done loc = .ok (u, o, fl) → req.stamp = none → req.acquire = false →
         Runs (.atomicApply req) s (acquireEntries (dropView u req.core [sectorKey loc.key]) req.core []))) ∧
     -- a location of the core's own slice
     (req.key % (w / 8) = 0 → isMarked s req.key = false → isSliceKey req.key = true → sliceCore req.key = req.core →
       req.label = 0 → req.stamp = none → req.acquire = false → req.op.toNat ≠ 11 →
       ∃ v, Runs (.atomicApply req) s v ∧ v.mem = memWrite s.mem req.key (w / 8) (amoValue req.op.toNat w
         (amoOld x by_ req.key (w / 8))
         (req.operand.toNat % 2 ^ w) (req.compare.toNat % 2 ^ w)).1)) ∧
    -- expiries
    (∃ v, Runs (.viewBufferExpiry core) s v ∧ v = setCore s core { c with view := (getCore v core).view } ∧
      ∀ x, x ∈ (getCore v core).view ↔ x ∈ c.view ∧ s.cycle < x.filled + 4096) ∧
    (∃ v, Runs (.acquiredEntryExpiry core) s v ∧ v = setCore s core { c with acquired := (getCore v core).acquired } ∧
      ∀ x, x ∈ (getCore v core).acquired ↔ x ∈ c.acquired ∧ s.cycle < x.2 + 4096) ∧
    (∃ v, Runs .releaseTagExpiry s v ∧ v = { s with pk := { s.pk with tags := v.pk.tags, evicted := v.pk.evicted } } ∧
      ∀ x, x ∈ v.pk.tags ↔ x ∈ s.pk.tags ∧ x.live s.cycle = true) ∧
    -- pages
    (postedTo s part addr = none →
      (unitTo s part addr = none → Runs (.hostWriteReject part addr) s s) ∧
      ∀ y z, unitTo s part addr = some (y, z) → Runs (.hostWriteReject part addr) s
        (postError (unitDone s y.key z.recv) part 10 0 (firstByte z.addr z.mask) 0)) ∧
    (postedTo s part addr = some (t, r) → Runs (.hostWriteReject part addr) s
      (postError (takeRecord s t r) part 10 0 (firstByte r.addr r.mask) 0)) ∧
    (let hit := (arrivedPlaces s).find? fun x =>
       x.2.handle == part && entRepl x.2.leaf && ia.toNat / 2 ^ x.2.bits == x.2.ia / 2 ^ x.2.bits
     (hit = none → Runs (.replicaCollapse part ia) s s) ∧
     (hit = some (ag, pl) → Runs (.replicaCollapse part ia) s (collapse s pl))) ∧
    (let hit := (arrivedPlaces s).find? fun x => x.1.launch == some part && entShad x.2.leaf && !entU x.2.leaf &&
       x.2.key - x.2.ia % 2 ^ x.2.bits == page
     (hit = none → Runs (.shadowCopy part page) s s) ∧
     (hit = some (ag, pl) → Runs (.shadowCopy part page) s (shadowPage s part pl))) ∧
    (let asks := unasked s part (ia.toNat / 65536)
     let found := fun (p : Partition) => p.s2root.bind fun r => missing2 s ia.toNat levelShifts r
     (s.pk.asks.contains (part, ia.toNat / 65536, false) = true → Runs (.stage2Service part ia none) s
       { s with pk := { s.pk with asks := asks ++ [(part, ia.toNat / 65536, true)] } }) ∧
     (s.pk.asks.contains (part, ia.toNat / 65536, false) = false → Runs (.stage2Service part ia none) s s) ∧
     (getPart s part = some p → found p = some (pa, sh) →
       let fits := valid2 sh e = true ∧ (entLeaf e = true → leafPresent s e = true) ∧
         (entLeaf e = false → sh ≠ 16 ∧ hbmPresent s (entAddr2 e) = true)
       (fits → ∃ v, Runs (.stage2Service part ia (some e)) s v ∧ v.mem = (writeEntry s pa e).mem ∧ v.pk.asks = asks ∧
         if entLeaf e = true ∧ entRepl e = true then
           ∃ marks, v.pk.replicas = (part, ia.toNat / 2 ^ sh, marks) :: s.pk.replicas ∧
             ∀ k, k ∈ marks ↔ k ∈ s.pk.marked ∧ hbmKey s (entAddr2 e) ≤ k ∧ k < hbmKey s (entAddr2 e) + 2 ^ sh
         else v.pk.replicas = s.pk.replicas) ∧
       (¬ fits → Runs (.stage2Service part ia (some e)) s s)) ∧
     (getPart s part = none ∨ (∀ p, getPart s part = some p → found p = none) →
       Runs (.stage2Service part ia (some e)) s s))

/-! ### Where the steps of launches, tasks, arrays and pages complete -/

/-- 01 R26 to R30, 15 R311, 17 R332 to R334, 19 R357: where the steps of a launch have their own effect. A well-formed
hart-launch block of the tenant's partition, whose runtime is loaded, is queued; a queued launch whose cores are free
starts its harts at its entry; a launch with no engine work is pre-empted at once and its harts hold it no more, a task
launch with no copy left is pre-empted; a pre-empted one whose cores are free runs again, and END removes one; a context
takes the place of the one whose slice is over. -/
def Obligations.LaunchStepsComplete : Prop :=
  (∀ (s u : State) (c : Cmd) (p : Partition) (v : Nat),
     let f := field v
     let e := cmdAt c 16 8
     let log := if f 336 16 = 0 then 48 else f 336 16
     s.pk.boot = .up → fnExists s c.fn = true → getPart s (cmdAt c 8 8) = some p → c.fn = p.tenant + 1 →
     p.stvec ≠ none →
     (∀ o ∈ s.pk.launches, o.lid = cmdAt c 24 8 → ∀ q, getPart s o.part = some q → q.tenant ≠ p.tenant) →
     e % 64 = 0 → partRead s p (BitVec.ofNat 64 e) 64 = (u, some v) →
     (∀ o ∈ u.pk.launches, o.key ≠ s.pk.nextLaunch) →
     -- a hart launch, its reserved fields zero and the others in range
     f 0 8 = 2 → f 10 6 = 0 → f 19 13 = 0 → f 160 32 = 0 → f 224 32 = 0 → f 352 32 = 0 → f 394 54 = 0 →
     1 ≤ f 32 32 → f 32 32 ≤ 65536 → f 64 64 % 65536 = 0 → 0 < f 128 32 → f 128 32 % 64 = 0 →
     f 64 64 + f 128 32 ≤ 2 ^ 56 → f 192 32 % 4 = 0 → f 192 32 < f 128 32 → f 256 64 % 64 = 0 →
     f 256 64 + 64 ≤ 2 ^ 56 → f 320 16 % 4 = 0 → f 320 16 ≤ 64 → log % 4 = 0 → 16 ≤ log → log ≤ 192 →
     (4 * f 320 16 + log + 4) * 1024 ≤ smallestSlice u p.handle → labelHeld p (f 384 10) = true →
     (if f 8 1 = 1 then f 32 32 ≤ 4 * (liveCores u p.handle).length else liveCores u p.handle ≠ []) →
     ∃ t l, Runs (.launch c) s t ∧ l ∈ t.pk.launches ∧ l.lid = cmdAt c 24 8 ∧ l.part = p.handle ∧ l.state = .queued ∧
       l.isTask = false ∧ l.count = f 32 32 ∧ l.codeBase.toNat = f 64 64 ∧ l.codeSize = f 128 32 ∧
       l.entry = f 192 32 ∧ l.param.toNat = f 256 64 ∧ l.prio = f 16 3 ∧ l.energy = f 448 64) ∧
  (∀ (s : State) (k : Nat) (l : Launch) (cs : List Nat) (at_ : Placement), getLaunch s k = some l →
     l.isTask = false → l.saved = [] → l.place = [] → fitsCores s l = true → canStart s l = true →
     launchCores s l = some cs → (∀ c ∈ cs, placementOk (capacity s c) l.logPages l.spill at_ = true) →
     (∀ o ∈ s.pk.launches, o.part = l.part → launchBefore o l = false) →
     ∃ t m, Runs (.hartLaunchDispatch k at_) s t ∧ getLaunch t k = some m ∧ m.state = .running ∧ m.started = s.cycle ∧
       ∀ i, i < l.count → i < 4 * cs.length →
         let h := getHart t (hartOfIndex cs i)
         h.run = .running ∧ h.mode = .user ∧ h.launch = some k ∧ h.pc = l.codeBase + BitVec.ofNat 64 l.entry ∧
         h.rx 4 = l.param ∧ h.rx 5 = BitVec.ofNat 64 i ∧ h.rx 6 = BitVec.ofNat 64 l.count ∧ h.hla = l.lbase) ∧
  (∀ (s : State) (c : Cmd) (p : Partition) (l : Launch), s.pk.boot = .up → fnExists s c.fn = true →
     getPart s (cmdAt c 8 8) = some p → c.fn = p.tenant + 1 →
     s.pk.launches.find? (fun o => o.part == p.handle && o.lid == cmdAt c 24 8) = some l →
     (l.state = .running → l.isTask = false → getLaunch s l.key = some l →
       (∀ x ∈ occupied s l.key, (getCore s x).log = []) → (∀ x ∈ s.pk.copies, x.launch ≠ some l.key) →
       (∀ h ∈ launchHarts s l.key, (getHart s h).parked = [] ∧
         ∀ x ∈ (getGrove s (groveOf (h / 4))).queue, x.hart ≠ h) →
       ∃ t m, Runs (.preempt c) s t ∧ getLaunch t l.key = some m ∧ m.state = .preempted ∧
         ∀ h ∈ launchHarts s l.key, (getHart t h).launch = none) ∧
     (l.state = .preempted → l.isTask = false → getLaunch s l.key = some l →
       canStart (setLaunch s { l with state := .queued, stopCmd := some c })
         { l with state := .queued, stopCmd := some c } = true →
       ∃ t m, Runs (.resume c) s t ∧ getLaunch t l.key = some m ∧ m.state = .running ∧ m.saved = [] ∧
         m.stopCmd = none) ∧
     (l.state ≠ .queued → ∃ t, Runs (.endLaunch c) s t ∧ getLaunch t l.key = none)) ∧
  (∀ (s : State) (k : Nat) (l : Launch), getLaunch s k = some l → l.isTask = true → l.state = .stopping →
     (∀ r ∈ l.regs, r.copies = []) →
     ∃ t m, Runs (.preemptDeadline k) s t ∧ getLaunch t k = some m ∧ m.state = .preempted ∧ m.stopCmd = none ∧
       m.regs = l.regs.filter fun r => !r.gone) ∧
  (∀ (s : State) (hart : Nat) (l : Launch) (ctx : Nat × Hart), rotating s hart = some (l, ctx) →
     (getHart s hart).pend = [] → (getHart s hart).parked = [] →
     (∀ x ∈ (getGrove s (groveOf (hart / 4))).queue, x.hart ≠ hart) →
     (∀ x ∈ s.pk.copies, x.hart ≠ hart) →
     ∃ t m h, Runs (.contextRotation hart) s t ∧ (getHart t hart).pc = ctx.2.pc ∧ (getHart t hart).x = ctx.2.x ∧
       (getHart t hart).v = ctx.2.v ∧ (getHart t hart).lidx = ctx.2.lidx ∧
       (getHart t hart).since = Max.max s.cycle (sliceEnd s hart) ∧ getLaunch t l.key = some m ∧
       (hart, h) ∈ m.contexts ∧ h.x = (getHart s hart).x ∧ h.v = (getHart s hart).v ∧ h.lidx = (getHart s hart).lidx)

/-- 15 R277 to R279, R286 to R289, R291, R301, R302, R307, R308: where the steps of a task launch have their own effect.
A well-formed descriptor is registered and queued; a free hart starts the best task it may take; a commit that nothing
speaks against is accepted, now or once parked; the reply frees the hart, as a cancel does; a backup that still stands
starts on its reserved hart. -/
def Obligations.TaskStepsComplete : Prop :=
  (∀ (s u : State) (k die v : Nat) (l m : Launch) (e : Dword) (rest : List (Dword × Nat × Option Nat)),
     let l' := { l with releases := rest }
     let d := BitVec.ofNat 512 v
     getLaunch s k = some l → l.isTask = true → l.state = .running → l.orphans = [] → l.units = [] →
     l.releases = (e, die, none) :: rest → e.toNat % 64 = 0 → schedRead (setLaunch s l') l' die e 64 = (u, some v) →
     descOk l' d = true → dbits d 292 4 = 0 → getLaunch u k = some m → m.regs.length < m.maxout →
     ∃ t n r, Runs (.taskRelease k) s t ∧ getLaunch t k = some n ∧ n.regs = m.regs ++ [r] ∧ n.releases = m.releases ∧
       r.descAddr = e ∧ r.desc = d ∧ r.state = .queued ∧ r.run = 1 ∧ r.copies = [] ∧ r.succ = []) ∧
  (∀ (s v w : State) (hart : Nat) (at_ : Placement) (l : Launch) (r : TaskReg) (p : Partition), freeHart s hart = true →
     bestTask (candidates s hart at_) = some (l, r) → taskFits s hart at_ l r = some v → getPart s l.part = some p →
     charge v p.tenant 1 = some w →
     ∃ t x, Runs (.taskDispatch hart at_) s t ∧ (getHart t hart).task = some x ∧ x.reg = r.id ∧ x.waiting = false ∧
       (getHart t hart).run = .running ∧ (getHart t hart).mode = .user ∧ (getHart t hart).pc = r.entry) ∧
  (∀ (s : State) (hart key : Nat) (l : Launch) (g : TaskReg) (c : RunCopy), getLaunch s key = some l → g.out = none →
     g.gone = false → c.run = g.run → l.noneAccepted.contains (g.die, g.ident) = false → commitRecords s c = [] →
     (requestOf s hart = some (key, g, c) → (∀ r ∈ l.regs, ∀ y ∈ r.copies, y.state ≠ .parked) →
       ∃ t x n r, Runs (.commitRequest hart) s t ∧ t.mem = s.mem ∧ (getHart t hart).task = some x ∧
         x.reply = some .accept ∧ getLaunch t key = some n ∧ r ∈ n.regs ∧ r.id = g.id ∧ r.state = .won ∧
         (g.die, g.ident) ∈ n.noneAccepted) ∧
     (regOf l g.id = some g → g.copies = [c] → c.hart = hart → c.state = .parked →
       parkedAt l none = [(g.id, hart, c.tag)] →
       ∃ t, Runs (.commitRedecision key none) s t ∧
         ∀ n, getLaunch t key = some n → (g.die, g.ident) ∈ n.noneAccepted ∧ ∀ r ∈ n.regs, r.id ≠ g.id)) ∧
  (∀ (s : State) (hart k : Nat) (l : Launch) (r : TaskReg) (x : TaskCopy),
     let h := getHart s hart
     h.task = some x → h.launch = some k → getLaunch s k = some l → regOf l x.reg = some r → h.fromEvents = [] →
     let leaves := fun (i : Instr) => ∃ t, Runs i s t ∧ (getHart t hart).task = none ∧ (getHart t hart).run = .unloaded
     (x.reply = some .accept ∨ x.reply = some .parked → leaves (.commitReply hart)) ∧
     (x.waiting = false → (∃ c ∈ r.copies, c.hart = hart ∧ c.tag = x.tag ∧ c.state = .cancelled) →
       (∀ y ∈ l.regs, ∀ c ∈ y.copies, c.state ≠ .parked) → leaves (.taskCancel hart))) ∧
  (∀ (s : State) (hart k id : Nat) (at_ : Placement) (l : Launch) (r : TaskReg),
     let h := getHart s hart
     (knownHarts s).find? (fun o => (getHart s o).reserved.any fun b => b.1 == k && b.2.1 == id) = some hart →
     h.reserved = some (k, id, r.run) → h.run = .unloaded → getLaunch s k = some l → regOf l id = some r → l.state = .running →
     r.state = .running → r.current.length ≤ 1 → (getCore s (hart / 4)).owner = some k →
     ∃ t x, Runs (.backupStart k id at_) s t ∧ (getHart t hart).task = some x ∧ x.reg = id ∧ x.run = r.run ∧
       (getHart t hart).run = .running ∧ (getHart t hart).pc = r.entry ∧ (getHart t hart).reserved = none)

/-- 11 R208, R222, 13 R244, R246, R248, R249, 17 R339, R343, 19 R383: where the steps of an array and of pages have
their own effect. The array starts the next command, completes an MZERO, suspends an MMA whose read faults, and sends
a word of a keeper; Firebreak passes a record on; a write that the host rejects, of a record or of a copy unit, is
taken and lost; a written page loses its copies, and a shadowed one is kept as it was. A command whose session is
closed raises MFAULT too by the model's choice (notes/assumptions/62.md). -/
def Obligations.ArrayAndPageStepsComplete : Prop :=
  (∀ (s : State) (k : Nat) (c : ArrayCmd) (rest : List ArrayCmd),
     let g := getGrove s k
     g.queue = c :: rest →
     (g.running = false → (∀ h ∈ groveHarts s k, (getHart s h).parked = []) → heldBehind s c = false → c.rel = none →
       Runs (.mmaStart k) s (setGrove s k { g with running := true })) ∧
     (∀ z, g.running = true → c.op = .zero z →
       let a := sliceKey (c.hart / 4) (tileOff c.tile)
       ∃ t, Runs (.mmaCompletion k) s t ∧ t.mem = memZero s.mem a (a + tileRows c.tile * tileCols c.tile * 4) ∧
         (getGrove t k).running = false ∧ (getGrove t k).queue = rest) ∧
     (∀ z da db p u f, g.running = true → c.op = .mma z da db →
       let (a, b) := c.operands s da db
       pairing a b = .ok p → c.chunk < a.k / p.chunk →
       readRow s c.agent b 0 (c.chunk * p.chunk) p.chunk = (u, .error f) → c.current (getHart u c.hart) = true →
       ∃ t, Runs (.mmaSuspend k) s t ∧ (getGrove t k).running = false ∧
         (getHart t c.hart).commandFaults =
           (getHart u c.hart).commandFaults ++ [{ trap := ⟨.mfault, f.val⟩, resume := none }]) ∧
     (∀ da db ps q w m e, g.running = true → c.op = .scale da db ps q → c.word = some (w, m) →
       c.chunk < scaleCount s c da db → (∀ x ∈ ps, keeperWaits c (getCore s (x.toNat % 4096)) q.toNat = false) →
       ps[c.sent]? = some e → coreLaunch s (e.toNat % 4096) = some c.launch → hasRoom s (e.toNat % 4096) q.toNat = true →
       ∃ t msg, Runs (.mscaleWord k) s t ∧
         queueAt t (e.toNat % 4096) q.toNat = queueAt s (e.toNat % 4096) q.toNat ++ [msg] ∧
         msg.data = w.setWidth 512 ∧ msg.label = m ∧ t.mem = s.mem)) ∧
  (∀ (s u : State) (core idx part k : Nat) (addr ia : Dword) (r : Record) (t : Nat) (ag : Agent) (pl : Place)
      (l : Launch),
     (recordTo s core idx (fun e => entU e || leafBeyond s e) = some r →
       applyAt s (r.agent core (recordLaunch s core r)) false r.addr r.mask r.data (maskAt s core r.lsid) = (u, none) →
       ∃ v, Runs (.egressCheck core idx) s v ∧ v.mem = u.mem ∧
         ∀ x ∈ (getCore v core).log, x.rid = r.rid → x.applied = true) ∧
     (postedTo s part addr = some (t, r) → ∃ v, Runs (.hostWriteReject part addr) s v ∧
       ∀ x ∈ (getCore v t).log, x.rid = r.rid → x.applied = true) ∧
     (∀ y z, postedTo s part addr = none → unitTo s part addr = some (y, z) → getCopy s y.key = some y →
       ∃ v, Runs (.hostWriteReject part addr) s v ∧
         getCopy v y.key = some { y with units := y.units.tail }) ∧
     ((arrivedPlaces s).find? (fun x =>
         x.2.handle == part && entRepl x.2.leaf && ia.toNat / 2 ^ x.2.bits == x.2.ia / 2 ^ x.2.bits) = some (ag, pl) →
       ∃ v, Runs (.replicaCollapse part ia) s v ∧
         ∀ x ∈ v.pk.replicas, ¬ (x.1 = part ∧ x.2.1 = pl.ia / 2 ^ pl.bits)) ∧
     (let base := pl.key - pl.ia % 2 ^ pl.bits
      (arrivedPlaces s).find? (fun x => x.1.launch == some k && entShad x.2.leaf && !entU x.2.leaf &&
         x.2.key - x.2.ia % 2 ^ x.2.bits == base) = some (ag, pl) →
       getLaunch s k = some l → l.shadowing = true → (∀ x ∈ l.shadowed, x.1 ≠ base) →
       (l.shadowed.map fun x => x.2.1).sum + 2 ^ pl.bits ≤ Config.shadowPool →
       Runs (.shadowCopy k base) s (setLaunch s { l with
         shadowed := l.shadowed ++ [(base, 2 ^ pl.bits, memRange s.mem base (base + 2 ^ pl.bits))] })))

/-! ### The host interface -/

/-- 19 R349, R352 to R354, R356, R361, R362, R371, 21 R387, R398: what the host's writes to a function's registers do:
EN makes well-formed queues live and malformed ones fatal; NOTIFY fetches the entries up to its tail, or is a BADNOTE;
one that comes before the queues are live is kept, and once they are it leaves its tail, for which nothing is fetched;
QCBADDR and the MSI-X table are taken unless the interface is locked; recovery has registers of its own; SPDM requests
are answered in SPDM's order. A function that the host does not reach has no registers. A certificate chain ends in
the identity's keys, and a measurement answer holds the blocks and both signatures (21 R395). The model's choices: the
places of the MSI-X table and PBA (notes/assumptions/64.md), that a NOTIFY from before the queues were live fetches
nothing (77), where queue state begins anew (110) and what a locked function without a shadow reads (112), the order
and form of SPDM messages and the error 0x7F (21), how recovery reports a flash it may not write (79), what a
function-level reset keeps (76), what is malformed in a QCB (80), and the TDISP transitions (39). -/
def Obligations.HostInterfaceResults : Prop :=
  ∀ (s : State) (fn off q : Nat) (v : Dword) (k : Queue) (new : Tdisp) (msg : List Byte) (good : Bool),
    let f := getFn s fn
    let up := s.pk.boot = .up ∧ s.pk.modules ≠ 0 ∧ fnExists s fn = true
    let en := v.getLsbD 0
    -- FSTAT
    (¬ up ∨ en = f.en → Runs (.fstatWrite fn v) s s) ∧
    (up → en = false → f.en = true →
      Runs (.fstatWrite fn v) s (setFn s { f with en := false, rdy := false })) ∧
    (up → en = true → f.en = false →
      (f.locked = true → f.queues ≠ [] → Runs (.fstatWrite fn v) s (goLive s fn)) ∧
      (f.locked = false ∨ f.queues = [] →
        (qcbOk s f = false →
          Runs (.fstatWrite fn v) s (setFn s { f with en := true, rdy := false, fatal := true })) ∧
        (qcbOk s f = true →
          let sh := f.shadow s
          Runs (.fstatWrite fn v) s (putPriv (goLive (setFn s sh) fn) sh (privEntries f (qcbWord s f 96)))))) ∧
    -- the queues go live: of the notifies that came before, the last of each queue leaves its tail, and none fetches
    (up →
      let g := getFn (goLive s fn) fn
      (goLive s fn).pk.cmds = s.pk.cmds ∧ g.en = true ∧ g.rdy = true ∧ g.fatal = false ∧ g.waiting = [] ∧ g.notes = [] ∧
      ∀ (j : Nat) (x : Queue), f.queues[j]? = some x →
        let last := f.notes.reverse.find? fun m => m.1 == j
        let tail := match last with
          | some m => if x.entries ≤ m.2.toNat % 2 ^ 16 then x.tail else m.2.toNat % 2 ^ 16
          | none => x.tail
        g.queues[j]? = some { x with tail := tail }) ∧
    -- NOTIFY
    (¬ up → Runs (.notify fn q v) s s) ∧
    (up → f.rdy = false → Runs (.notify fn q v) s (setFn s { f with notes := f.notes ++ [(q, v)] })) ∧
    (up → f.rdy = true → f.queues[q]? = none → Runs (.notify fn q v) s s) ∧
    (up → f.rdy = true → f.queues[q]? = some k →
      let tail := v.toNat % 2 ^ 16
      (k.entries ≤ tail → Runs (.notify fn q v) s (fnError s fn 6 0 (BitVec.ofNat 64 (0x1000 + 8 * q)))) ∧
      (tail < k.entries → ∃ t, Runs (.notify fn q v) s t ∧ t.mem = s.mem ∧ t.harts = s.harts ∧ t.hart = s.hart ∧
        ∃ cs, t.pk.cmds = s.pk.cmds ++ cs ∧ cs.length = (tail + k.entries - k.head) % k.entries ∧
          (∀ c ∈ cs, c.fn = fn ∧ c.sq = q) ∧
          (k.head < k.entries → ∀ i, i < cs.length → (cs[i]?).map (·.entry) = some (BitVec.ofNat 512
            (memRead s.mem (hostKey fn (k.base.toNat + 64 * ((k.head + i) % k.entries))) 64))))) ∧
    -- other registers
    (s.pk.boot = .up → ¬ up → Runs (.hostRegisterWrite fn off v) s s ∧ hostRegister s fn off = none) ∧
    (up →
      let table := 0x8000 ≤ off ∧ off < 0x10000
      let pba := 0x10000 ≤ off ∧ off < 0x10100
      hostRegister s fn 0 = some (fstat f) ∧ hostRegister s fn 8 = some f.qcbaddr ∧
      (f.locked = true → off = 8 ∨ table ∨ pba →
        Runs (.hostRegisterWrite fn off v) s (fnError s fn 5 0 (BitVec.ofNat 64 off))) ∧
      (f.locked = false → Runs (.hostRegisterWrite fn 8 v) s
        (setFn s { f with qcbaddr := BitVec.ofNat 64 (v.toNat / 128 * 128) })) ∧
      (f.locked = false → table → Runs (.hostRegisterWrite fn off v) s
        (setFn s { f with vectors := assocSet f.vectors ((off - 0x8000) / 8) v })) ∧
      (off ≠ 8 → ¬ table → f.locked = false ∨ ¬ pba → Runs (.hostRegisterWrite fn off v) s s)) ∧
    (s.pk.boot = .recovery → s.pk.modules ≠ 0 →
      Runs (.hostRegisterWrite 0 0x100 v) s { s with pk := { s.pk with recaddr := v } } ∧
      Runs (.hostRegisterWrite 0 0x108 v) s
        { s with pk := { s.pk with reclen := BitVec.ofNat 64 (v.toNat % 2 ^ 26) } } ∧
      hostRegister s 0 0x100 = some s.pk.recaddr ∧
      (fn ≠ 0 → Runs (.hostRegisterWrite fn off v) s s ∧ hostRegister s fn off = none)) ∧
    -- TDISP
    (let may := fn ≠ 0 ∧ up ∧ tdispMay f.tdisp new = true
     (may → Runs (.tdispTransition fn new) s (setFn s { f with tdisp := new })) ∧
     (¬ may → Runs (.tdispTransition fn new) s s)) ∧
    -- recovery
    (s.pk.boot ≠ .recovery ∨ s.pk.modules = 0 → Runs (.recctlGo v) s s) ∧
    (s.pk.boot = .recovery → s.pk.modules ≠ 0 → Runs (.recctlGo v) s { s with pk := { s.pk with
      recErr := s.pk.recErr && !v.getLsbD 2, recBusy := s.pk.recBusy || v.getLsbD 0 } }) ∧
    (let fetching := s.pk.boot = .recovery ∧ s.pk.recBusy = true ∧ s.pk.recImage = none
     let n := s.pk.reclen.toNat
     let img := memBytes s.mem (hostKey 0 s.pk.recaddr.toNat) n
     let fine := good = true ∧ s.pk.modules ≠ 0 ∧ s.pk.recaddr.toNat % 4096 = 0 ∧ 1 ≤ n ∧ n ≤ 33554432 ∧
       imageOk s img = true ∧ s.pk.flashWp = false
     (¬ fetching → Runs (.recoveryImageFetched good) s s) ∧
     (fetching → fine → Runs (.recoveryImageFetched good) s
       { s with pk := { s.pk with recImage := some img, journalOpen := true } }) ∧
     (fetching → ¬ fine → Runs (.recoveryImageFetched good) s
       { s with pk := { s.pk with recErr := true, recBusy := false } })) ∧
    -- attestation
    (let serves := s.pk.boot = .up ∧ s.pk.modules ≠ 0 ∧ fnExists s 0 = true
     let answers := fun (i : Instr) (code need next : Nat) =>
       (¬ serves → Runs i s s) ∧
       (serves →
         let a := if need ≤ s.pk.spdm then code else 0x7F
         let heard := (if code = 0x84 then [] else s.pk.spdmTranscript) ++ msg
         let head := Config.spdmResponse a msg heard
         ∃ t, Runs i s t ∧
         t = { s with pk := { s.pk with
           spdm := t.pk.spdm, spdmTranscript := t.pk.spdmTranscript, doe := t.pk.doe } } ∧
         t.pk.spdm = (if need ≤ s.pk.spdm then next else s.pk.spdm) ∧
         t.pk.doe = head ++ spdmPayload s a (heard ++ head) ∧
         t.pk.spdmTranscript = heard ++ t.pk.doe)
     let keep := Max.max 3 s.pk.spdm
     answers (.getVersion msg) 0x84 0 1 ∧ answers (.getCapabilities msg) 0xE1 1 2 ∧
     answers (.negotiateAlgorithms msg) 0xE3 2 3 ∧ answers (.getDigests msg) 0x81 3 keep ∧
     answers (.getCertificate msg) 0x82 3 keep ∧ answers (.challenge msg) 0x83 3 keep ∧
     answers (.getMeasurements msg) 0xE0 3 keep ∧ answers (.keyExchange msg) 0xE4 3 4 ∧
     answers (.finish msg) 0xE5 4 5 ∧ answers (.endSession msg) 0xEC 5 3 ∧
     (measurements s).map Prod.fst = [1, 2, 3, 4] ∧
     ∀ heard,
       let covered := heard ++ (measurements s).flatMap blockBytes
       spdmPayload s 0xE0 heard = (measurements s).flatMap blockBytes ++
         blockBytes (0xF0, Config.mldsaSign (mlKeys s).priv covered) ++ Config.ed25519Sign (edKeys s).priv covered ∧
       ∃ first, spdmPayload s 0x82 heard = first ++ (edKeys s).pub ++ (mlKeys s).pub) ∧
    -- reset of a function
    (fn = 0 ∨ ¬ up → Runs (.functionLevelReset fn) s s) ∧
    (fn ≠ 0 → up →
      let parts := (s.pk.parts.filter fun p => p.tenant + 1 == fn).map (·.handle)
      let t := removeAll s ((s.pk.launches.filter fun l => parts.contains l.part).map (·.key))
      let d := discardCopies t fun c => parts.contains c.part
      let u := clearPartitions { d with pk := { d.pk with cmds := d.pk.cmds.filter fun c => c.fn != fn } } parts
      let g := { (getFn u fn).restart with resetting := true }
      g.en = false ∧ g.rdy = false ∧ g.queues = [] ∧ g.ed25519 = (getFn u fn).ed25519 ∧
        Runs (.functionLevelReset fn) s (setFn u g)) ∧
    (fnExists s fn = true → Runs (.flrCompletion fn) s (setFn s { f with resetting := false })) ∧
    (fnExists s fn = false → Runs (.flrCompletion fn) s s)

/-- 19 R357, R359, R360, R363 to R365, R368, R372, R379, R380, 21 R394, R396, R397: what host commands other than
those of launches do and the status each completes with. A command of a function that is not served changes nothing;
one of an issuer that may not give it completes with PRIV. The model's choices: VEC and WEIGHT of VF_CREATE are kept
modulo 2,048 and 16 (notes/assumptions/70.md), an RT_LOAD that is cut off completes with BUSY (65), the layouts that
the spec leaves open (37), whether the host lets a policy be read (60), and where a staged object begins anew (97). -/
def Obligations.HostCommandResults : Prop :=
  ∀ (s u : State) (c d : Cmd) (p : Partition) (pol : Policy) (l : BitVec 10) (img : List Byte),
    let op := cmdAt c
    let ends := fun (i : Instr) (t : State) (status value : Nat) =>
      Runs i s (complete t c status (BitVec.ofNat 64 value))
    let served := s.pk.boot = .up ∧ fnExists s c.fn = true
    let pf := [Instr.partGrant c, .partReturn c, .s2Root c, .budgetSet c, .scrubSet c, .vfCreate c, .vfDestroy c,
      .vfConfig c, .fwStage c, .fwCommit c, .errlogRead c]
    let vf := [Instr.signal c, .note c, .partConfig c, .labelIntern c, .rtLoad c, .policyAdd c, .policyDel c]
    (¬ served → ∀ i ∈ pf ++ vf ++ [Instr.identify c, .resync c, .counters c, .unknownCommand c], Runs i s s) ∧
    (served →
      ends (.unknownCommand c) s 1 0 ∧
      (c.fn ≠ 0 → ∀ i ∈ pf, ends i s 3 0) ∧ (c.fn = 0 → ∀ i ∈ vf, ends i s 3 0) ∧
      -- summaries
      (let t := (draw s).2
       ends (.identify c) (writeHost t c.fn (op 16 8) (identifyBytes t c.fn (draw s).1)) 0 0) ∧
      (let t := (draw s).2
       let bs := resyncBytes t c.fn (op 24 8) (draw s).1
       ∃ w, ends (.resync c) w 0 bs.length ∧ w.mem = (writeHost t c.fn (op 16 8) bs).mem ∧ w.pk.resynced = true ∧
         s.pk.fusedSvn ≤ w.pk.fusedSvn ∧ w.harts = s.harts ∧ w.pk.parts = s.pk.parts) ∧
      (let tenant := if c.fn = 0 then op 24 8 else c.fn - 1
       (192 ≤ tenant → ends (.counters c) s 1 0) ∧
       (tenant < 192 →
         let t := (draw s).2
         ends (.counters c) (writeHost t c.fn (op 16 8) (dwordBytes (shownCounts (draw s).1 (tenantCounters t tenant))))
           0 0)) ∧
      -- commands of a tenant
      (c.fn ≠ 0 → (∀ x, getPart s (op 8 8) = some x → c.fn ≠ x.tenant + 1) →
        ends (.signal c) s 1 0 ∧ ends (.note c) s 1 0 ∧ ends (.partConfig c) s 1 0 ∧ ends (.labelIntern c) s 1 0 ∧
        ends (.rtLoad c) s 1 0) ∧
      (getPart s (op 8 8) = some p → c.fn = p.tenant + 1 →
        ends (.signal c) (signalHarts s ((knownHarts s).filter fun h => covers p.handle (h / 4))) 0 0 ∧
        (16 ≤ p.notes.length → ends (.note c) s 4 0) ∧
        (p.notes.length < 16 →
          ends (.note c) (setPart s { p with notes := p.notes ++ [BitVec.ofNat 64 (op 16 8)] }) 0 0) ∧
        (let slice := op 16 8
         (slice < 100 ∨ 100000 < slice → ends (.partConfig c) s 1 0) ∧
         (100 ≤ slice → slice ≤ 100000 → ends (.partConfig c) (setPart s { p with
           slice := slice, s1base := BitVec.ofNat 64 (op 24 8 / 2 ^ 13 % 2 ^ 43 * 2 ^ 13) }) 0 0)) ∧
        (intern s p.handle (BitVec.ofNat 192 (op 16 24)) = (u, some l) → ends (.labelIntern c) u 0 l.toNat) ∧
        (intern s p.handle (BitVec.ofNat 192 (op 16 24)) = (u, none) → ends (.labelIntern c) u 8 0) ∧
        (let base := op 16 8
         let size := op 24 8
         let trap := op 32 8
         let init := op 40 8
         let fits := base % 65536 = 0 ∧ size % 64 = 0 ∧ 0 < size ∧ base + size ≤ 2 ^ 56 ∧ trap % 4 = 0 ∧
           trap < size ∧ init % 4 = 0 ∧ init < size
         (¬ fits → ends (.rtLoad c) s 1 0) ∧
         (fits → regionRuns (partAgent s p) (pagesOf (BitVec.ofNat 64 base) size) s = (u, false) →
           ends (.rtLoad c) u 1 0) ∧
         (fits → regionRuns (partAgent s p) (pagesOf (BitVec.ofNat 64 base) size) s = (u, true) →
           (partBusy u p = true → ends (.rtLoad c) u 4 0) ∧
           (partBusy u p = false →
             let cut := cutRtLoad u p
             let gone := ((knownHarts cut).filter fun h => covers p.handle (h / 4)).foldl unloadHart cut
             let cs := liveCores s p.handle
             let q := { p with stvec := some (BitVec.ofNat 64 (base + trap)), rtload := none }
             (cs = [] → ends (.rtLoad c) (setPart gone q) 0 0) ∧
             (cs ≠ [] → Runs (.rtLoad c) s (startInit (BitVec.ofNat 64 (base + init)) (BitVec.ofNat 64 (op 48 8)) cs.length
               cs 0 (setPart gone { q with rtload := some (c, cs.length) }))))))) ∧
      -- policies
      (c.fn ≠ 0 → s.pk.policies.find? (fun x => x.index == op 16 8) = none → ends (.policyDel c) s 1 0) ∧
      (c.fn ≠ 0 → s.pk.policies.find? (fun x => x.index == op 16 8) = some pol →
        (pol.set.getLsbD (c.fn - 1) = false → ends (.policyDel c) s 3 0) ∧
        (pol.set.getLsbD (c.fn - 1) = true → ends (.policyDel c) { s with pk := { s.pk with
          policies := s.pk.policies.filter fun x => x.index != pol.index } } 0 0)) ∧
      (c.fn ≠ 0 →
        let unread := (hostRejects s (hostKey c.fn (op 16 8))).2 = true
        let t := (hostRejects s (hostKey c.fn (op 16 8))).1
        let v := memRead s.mem (hostKey c.fn (op 16 8)) 64
        let set : Mask := BitVec.ofNat 192 (v / 2 ^ 64 % 2 ^ 192)
        let tenants := (List.range 192).filter fun t => set.getLsbD t
        let dest := v / 2 ^ 256 % 2 ^ 32
        let serial := v / 2 ^ 320 % 2 ^ 64
        let signed := policySigned s (bytesOf 64 v) tenants
          (memBytes s.mem (hostKey c.fn (op 16 8 + 64)) (op 24 8 - 64)) = true
        let twin := ∃ x ∈ s.pk.policies, x.set = set ∧ x.dest.toNat = dest ∧ x.serial.toNat = serial
        let whole := ¬ unread ∧ policyOk v (op 24 8) = true
        let mine := whole ∧ c.fn - 1 ∈ tenants
        t.mem = s.mem ∧ t.hart = s.hart ∧ t.pk = s.pk ∧
        (¬ whole → ends (.policyAdd c) t 1 0) ∧
        (whole → c.fn - 1 ∉ tenants → ends (.policyAdd c) t 3 0) ∧
        (mine → ¬ signed → ends (.policyAdd c) t 6 0) ∧
        (mine → signed → 256 ≤ s.pk.policies.length → ends (.policyAdd c) t 7 0) ∧
        (mine → signed → s.pk.policies.length < 256 → twin → ends (.policyAdd c) t 13 0) ∧
        (mine → signed → s.pk.policies.length < 256 → ¬ twin → ∃ x : Policy, x.set = set ∧ x.dest.toNat = dest ∧
          x.serial.toNat = serial ∧ (∀ y ∈ s.pk.policies, y.index ≠ x.index) ∧ ends (.policyAdd c)
            { t with pk := { t.pk with policies := t.pk.policies ++ [x] } } 0 x.index)) ∧
      -- commands of the PF
      (c.fn = 0 →
        (let level := op 20 4
         let tenant := op 16 4
         let idx := op 24 8
         let bad := fnExists s (tenant + 1) = false ∨ 192 ≤ tenant ∨ 6 < level ∨ (idx ≠ 0xFFF ∧ 64 / 2 ^ level ≤ idx)
         (bad → ends (.partGrant c) s 1 0) ∧
         (¬ bad → chooseNode s level idx = none → ends (.partGrant c) s 2 0) ∧
         ∀ i, ¬ bad → chooseNode s level idx = some i →
           let h := s.pk.pkg * 2 ^ 24 + level * 4096 + i
           ∃ w, ends (.partGrant c) w 0 h ∧ ∃ x, w.pk.parts = s.pk.parts ++ [x] ∧ x.handle = h ∧ x.tenant = tenant ∧
             x.labels = [(0, 0)] ∧ x.s2root = none ∧ x.stvec = none ∧ x.notes = [] ∧ x.errors = []) ∧
        (getPart s (op 8 8) = none → ends (.partReturn c) s 1 0 ∧ ends (.s2Root c) s 1 0) ∧
        (getPart s (op 8 8) = some p → (getFn s (p.tenant + 1)).resetting = true →
          ends (.partReturn c) s 4 0 ∧ ends (.s2Root c) s 4 0) ∧
        (getPart s (op 8 8) = some p → (getFn s (p.tenant + 1)).resetting = false →
          (partBusy s p = true → ends (.partReturn c) s 4 0) ∧
          (partBusy s p = false →
            let cut := cutRtLoad s p
            let gone := ((knownHarts cut).filter fun h => covers p.handle (h / 4)).foldl unloadHart cut
            ends (.partReturn c)
              { gone with pk := { gone.pk with parts := gone.pk.parts.filter fun q => q.handle != p.handle } } 0 0) ∧
          (let a := op 16 8
           let fine := a % 8192 = 0 ∧ a < 2 ^ 48 ∧ hbmPresent s a = true
           (¬ fine → ends (.s2Root c) s 1 0) ∧
           (fine → ends (.s2Root c) (setPart (dropAllHeld s p.handle) { p with s2root := some a }) 0 0))) ∧
        (let tenant := op 16 8
         let w := op 40 8
         (192 ≤ tenant ∨ w = 0 ∨ 15 < w → ends (.budgetSet c) s 1 0) ∧
         (tenant < 192 → 1 ≤ w → w ≤ 15 →
           let t := { s with pk := { s.pk with period := Max.max s.pk.period (s.cycle / 130000) } }
           ends (.budgetSet c) (setTenant t { getTenant s tenant with
           nextRefill := op 24 8, nextHedge := op 32 8, nextWeight := w }) 0 0)) ∧
        (let level := op 16 8
         let ms := op 24 8
         let fine := level < 5 ∧ (scrubRange level).1 ≤ ms ∧ ms ≤ (scrubRange level).2
         (¬ fine → ends (.scrubSet c) s 1 0) ∧
         (fine → ends (.scrubSet c) { s with pk := { s.pk with scrub := s.pk.scrub.set level ms } } 0 0)) ∧
        (let v := op 16 8
         let vec := op 32 8
         let weight := op 40 8
         let fine := vec < 2048 ∧ 1 ≤ weight ∧ weight ≤ 15
         let range := 1 ≤ v ∧ v ≤ 192
         let there := fnExists s v = true
         let f := getFn s v
         (¬ range → ends (.vfCreate c) s 1 0) ∧ (range → there → ends (.vfCreate c) s 4 0) ∧
         (range → ¬ there → ends (.vfCreate c) { s with pk := { s.pk with functions := s.pk.functions ++
           [{ Function.fresh v with
               ed25519 := memBytes s.mem (hostKey 0 (op 24 8)) 32
               mldsa := memBytes s.mem (hostKey 0 (op 24 8 + 32)) 1952, vec := vec % 2048
               weight := weight % 16 }] } } 0 0) ∧
         (v = 0 ∨ ¬ there → ends (.vfDestroy c) s 1 0 ∧ ends (.vfConfig c) s 1 0) ∧
         (v ≠ 0 → there →
           (f.locked = true → ends (.vfConfig c) s 5 0) ∧ (f.locked = false → ¬ fine → ends (.vfConfig c) s 1 0) ∧
           (f.locked = false → fine → ends (.vfConfig c) (setFn s { f with vec := vec, weight := weight }) 0 0) ∧
           ((∃ q ∈ s.pk.parts, q.tenant + 1 = v) → ends (.vfDestroy c) s 4 0) ∧
           ((∀ q ∈ s.pk.parts, q.tenant + 1 ≠ v) → f.locked = true → ends (.vfDestroy c) s 5 0) ∧
           ((∀ q ∈ s.pk.parts, q.tenant + 1 ≠ v) → f.locked = false → ends (.vfDestroy c) { s with pk := { s.pk with
             functions := s.pk.functions.filter fun g => g.num != v
             policies := s.pk.policies.filter fun x => !x.set.getLsbD (v - 1)
             cmds := s.pk.cmds.filter fun x => x.fn != v } } 0 0))) ∧
        (let n := op 24 8
         let kind := op 40 8
         let bs := memBytes s.mem (hostKey 0 (op 16 8)) n
         let fine := n ≠ 0 ∧ n ≤ 4194304 ∧ op 32 8 + n ≤ 33554432 ∧ kind ≤ 1
         let staged := memBytes s.pk.staging 0 s.pk.staged
         let object := if kind ≠ s.pk.stagedKind then []
           else if kind = 0 then staged.take (imageCovered staged + 64 + 3309) else staged
         let anew := kind ≠ s.pk.stagedKind ∨ (kind = 1 ∧ op 32 8 = 0)
         object = stagedObject s kind ∧
         (s.pk.commit = some d → ends (.fwStage c) s 4 0 ∧ ends (.fwCommit c) s 4 0) ∧
         (s.pk.commit = none →
           (¬ fine → ends (.fwStage c) s 1 0) ∧
           (fine → ends (.fwStage c) { s with pk := { s.pk with
             staging := memWriteBytes (if anew then [] else s.pk.staging) (op 32 8) bs
             staged := if anew then op 32 8 + n else Max.max s.pk.staged (op 32 8 + n), stagedKind := kind } } 0 n) ∧
           (s.pk.flashWp = true → ends (.fwCommit c) s 4 0) ∧
           (s.pk.flashWp = false →
             (1 < kind → ends (.fwCommit c) s 1 0) ∧
             (kind = 0 → imageOk s object = false → ends (.fwCommit c) s 6 0) ∧
             (kind = 1 → s.pk.stagedKind ≠ 1 ∨ Config.parseDomain object = none → ends (.fwCommit c) s 1 0) ∧
             ((kind = 0 ∧ imageOk s object = true) ∨
                 (kind = 1 ∧ s.pk.stagedKind = 1 ∧ Config.parseDomain object ≠ none) →
               Runs (.fwCommit c) s { s with pk := { s.pk with commit := some c, journalOpen := true } })))) ∧
        (s.pk.errlog[op 16 8]? = none → ends (.errlogRead c) s 1 0) ∧
        ∀ es, s.pk.errlog[op 16 8]? = some es → ends (.errlogRead c)
          (writeHost s 0 (op 24 8) ((es.take (op 32 8)).flatMap LogEntry.bytes)) 0 (es.take (op 32 8)).length)) ∧
    -- the end of a flash write: of recovery, or of a firmware commit
    (s.pk.recImage = some img →
      (s.pk.flashWp = false → Runs .fwCommitCompletion s
        (resetPackage { s with pk := { s.pk with flashImage := img, journalOpen := false } })) ∧
      (s.pk.flashWp = true → Runs .fwCommitCompletion s
        { s with pk := { s.pk with recImage := none, recErr := true, recBusy := false } })) ∧
    (s.pk.recImage = none → s.pk.commit = none → Runs .fwCommitCompletion s s) ∧
    (s.pk.recImage = none → s.pk.commit = some d → s.pk.flashWp = true →
      Runs .fwCommitCompletion s (complete { s with pk := { s.pk with commit := none } } d 4 0)) ∧
    (s.pk.recImage = none → s.pk.commit = some d → s.pk.flashWp = false →
      let kind := cmdAt d 40 8
      let object := stagedObject s kind
      Runs .fwCommitCompletion s (complete { s with pk := { s.pk with
        commit := none, journalOpen := false
        flashImage := if kind = 0 then object else s.pk.flashImage
        flashConfig := if kind = 1 then object else s.pk.flashConfig } } d 0 0))

/-! ### The package, its power and its errors -/

/-- 01 R13, 21 R386 to R398, 03 R45: reset, boot and recovery, admission, the host port, links, routes, heat. A reset
clears every unit, keeps HBM and host memory, flash, fuses and what is worn, and sets CYCLE to 0; a verified image
boots and any other enters recovery, by the straps as sampled after the last low PERST# or PWRGD. Admission is decided
once after each reset; a package that is not admitted is package 0 of no domain, with its internal ports off. The
model's choices: what a thermal recovery keeps and when the launches that survived start again
(notes/assumptions/36.md), and when the sideband inputs change (97). -/
def Obligations.PackageEventResults : Prop :=
  ∀ (s : State) (src : BitVec 2) (peers : List Peer) (d : Config.Domain) (n pkg port die : Nat) (on : Bool) (p : Port)
      (pin : PinChange),
    -- the package as one that is not admitted: package 0 of a domain of its own
    let alone := fun (d : Config.Domain) => { s with pk := { s.pk with
      pkg := 0, domsz := 0, domain := 0, routes := [], unreachable := [], lostAt := [], judged := true
      ports := if d.ports.length = 18 then d.ports.map Port.alone else s.pk.ports } }
    -- reset
    (∃ t, Runs .packageReset s t ∧ t.cycle = 0 ∧ t.pk.boot = .inReset ∧ t.pk.parts = [] ∧ t.pk.launches = [] ∧
      t.pk.cmds = [] ∧ t.pk.tripped = false ∧ t.harts = [] ∧ t.hart = Hart.fresh 0 ∧
      (∀ x, x = t.core ∨ (∃ k, (k, x) ∈ t.cores) →
        x = { Core.fresh with lasting := x.lasting, laneLasting := x.laneLasting }) ∧
      t.pk.flashImage = s.pk.flashImage ∧ t.pk.flashConfig = s.pk.flashConfig ∧ t.pk.fusedSvn = s.pk.fusedSvn ∧
      t.pk.journalOpen = s.pk.journalOpen ∧ t.pk.flashWp = s.pk.flashWp ∧ t.pk.pwrgd = s.pk.pwrgd ∧ t.pk.straps = none ∧
      (Inv s → ∀ a, memGet t.mem a = if isSliceKey a = true then memGet [] a else memGet s.mem a) ∧
      ∀ k x, assocGet s.dies k = some x → ∃ y, assocGet t.dies k = some y ∧ y.groves = x.groves ∧ y.hbm = x.hbm ∧
        y.lasting = x.lasting ∧ y.spares = x.spares ∧ y.gated = false) ∧
    -- sideband inputs
    (pin.pin = .flashWp → setPin s pin = { s with pk := { s.pk with flashWp := !pin.high } }) ∧
    (pin.pin = .pwrgd → pin.high = true → setPin s pin = { s with pk := { s.pk with pwrgd := true } }) ∧
    (pin.pin = .pwrgd → pin.high = false →
      let t := setPin s pin
      t.pk.pwrgd = false ∧ t.pk.boot = .inReset ∧ t.pk.straps = none ∧ t.cycle = 0 ∧ t.harts = []) ∧
    -- boot
    (s.pk.boot ≠ .inReset ∨ s.pk.pwrgd = false → Runs (.boot src) s s) ∧
    (s.pk.boot = .inReset → s.pk.pwrgd = true →
      let img := s.pk.flashImage
      let strap := s.pk.straps.getD src
      let good := s.pk.journalOpen = false ∧ strap ≠ 1 ∧ imageOk s img = true
      (¬ good → Runs (.boot src) s { s with pk := { s.pk with boot := .recovery, straps := some strap } }) ∧
      (good → s.pk.launches = [] → Runs (.boot src) s { s with pk := { s.pk with
        boot := .up, straps := some strap, image := img, version := BitVec.ofNat 64 (ofBytes ((img.drop 8).take 8))
        config := s.pk.flashConfig, resynced := false } })) ∧
    -- admission and the host port
    (s.pk.boot ≠ .up ∨ s.pk.judged = true ∨ (∃ l ∈ s.pk.launches, l.state ≠ .surviving) ∨
        (∃ q ∈ s.pk.parts, ∀ l ∈ s.pk.launches, l.part ≠ q.handle) ∨ Config.parseDomain s.pk.config = none →
      Runs (.domainAdmission peers) s s) ∧
    (s.pk.boot = .up → s.pk.judged = false → unsettled s.pk = true → Config.parseDomain s.pk.config = some d →
      peersReached d peers = false → Runs (.domainAdmission peers) s (replaySurvivors (alone d))) ∧
    (∀ role at_, let x := Port.alone (role, pkg, at_)
      x.role = role ∧ x.peerPkg = pkg ∧ x.peerPort = at_ ∧ (x.up = true ↔ role ≠ 0 ∧ role ≠ internalRole)) ∧
    (s.pk.boot = .up → s.pk.judged = false → s.pk.parts = [] → s.pk.launches = [] →
      Config.parseDomain s.pk.config = some d →
      let fine := peersReached d peers = true ∧ d.ports.length = 18 ∧ d.pkg ≤ d.domsz ∧ d.domsz < 256
      (¬ fine → Runs (.domainAdmission peers) s (alone d)) ∧
      (fine → Runs (.domainAdmission peers) s { s with pk := { s.pk with
        pkg := d.pkg, domsz := d.domsz, domain := d.ident, ports := d.ports.map Port.admitted, routes := d.routes
        unreachable := [], lostAt := [], judged := true } })) ∧
    Runs (.hostModuleTraining n) s { s with pk := { s.pk with modules := Min.min n 4 } } ∧
    -- links and routes
    (portUp s.pk.ports port = false → Runs (.linkFailure port) s s) ∧
    (portUp s.pk.ports port = true → Runs (.linkFailure port) s (setPort s port false)) ∧
    (∀ x, x ∈ (setPort s port on).pk.unreachable ↔ x ≤ s.pk.domsz ∧ x ≠ s.pk.pkg ∧
      ∀ i ∈ (assocGet s.pk.routes x).getD [], portUp (setPort s port on).pk.ports i = false) ∧
    (s.pk.ports[port]? = some p → ∃ t, Runs (.flitResend port) s t ∧ t = { s with pk := { s.pk with ports := t.pk.ports } } ∧
      t.pk.ports[port]? = some { p with resent := p.resent + 1 } ∧ ∀ i, i ≠ port → t.pk.ports[i]? = s.pk.ports[i]?) ∧
    (let lost := pkg ∈ s.pk.unreachable
     let returns := lost ∧ port ∈ (assocGet s.pk.routes pkg).getD [] ∧ ∃ x, s.pk.ports[port]? = some x ∧ x.role = internalRole
     (returns → Runs (.routeReturn pkg port) s (setPort s port true)) ∧
     (¬ returns → Runs (.routeReturn pkg port) s s) ∧
     (¬ lost → Runs (.routeTimeout pkg) s s) ∧
     (lost → let u := (draw { s with cycle := Max.max s.cycle (routeDeadline s pkg) }).2
       (waitingLaunches u pkg = [] → s.pk.copies = [] → Runs (.routeTimeout pkg) s u) ∧
       ∃ t, Runs (.routeTimeout pkg) s t ∧ routeDeadline s pkg ≤ t.cycle ∧ s.cycle ≤ t.cycle ∧
         ∀ k ∈ waitingLaunches u pkg, getLaunch t k = none)) ∧
    -- power and heat
    Runs (.issueGating die on) s (setDie s die { getDie s die with gated := on }) ∧
    (s.pk.tripped = true → Runs .thermalTrip s s) ∧
    (s.pk.tripped = false → ∃ t, Runs .thermalTrip s t ∧ t.pk.tripped = true) ∧
    (s.pk.tripped = false → s.pk.launches = [] →
      Runs .thermalTrip s { s with pk := { s.pk with tripped := true } }) ∧
    (s.pk.tripped = false → Runs .thermalRecovery s s) ∧
    (s.pk.tripped = true → ∃ t, Runs .thermalRecovery s t ∧ t.pk.tripped = false ∧ t.pk.boot = .inReset ∧ t.cycle = 0 ∧
      t.pk.straps = s.pk.straps ∧ t.harts = [] ∧ t.pk.pkg = 0 ∧ t.pk.launches = s.pk.launches.map (fun l => { l with state := .surviving }) ∧
      ∀ q, q ∈ t.pk.parts ↔ q ∈ s.pk.parts ∧ ∃ l ∈ s.pk.launches, l.part = q.handle)

/-- 19 R365 to R369, R373 to R381: token periods, energy, scrubbing, checker mismatches, errors that end a launch, and
spares. A corrected error is counted, logged and reported and changes no data, and the third of a row within a scrub
interval makes the row lasting; one that cannot be corrected marks its sector; a spare core or grove takes a worn
one's place while its partition is quiet, and with none left the grove leaves service. The model's choices: how a
grove's energy is shared (notes/assumptions/78.md), a row of one sector and which channels and rows wear (69), what a
slice holds after a substitution (81), the entry fields that the spec leaves open (34), and which unit failed in an
error that cannot be pinned (98). -/
def Obligations.ReliabilityEventResults : Prop :=
  ∀ (s : State) (grove uj level sector hart core k : Nat) (l : Launch) (x : LogEntry) (found : Found) (what : Mismatch),
    -- budgets and energy
    Runs .budgetPeriod s
      (newPeriod { s with cycle := Max.max s.cycle ((s.pk.period + 1) * 130000) }) ∧
    (∀ y, let z := Tenant.period y
      z.refill = y.nextRefill ∧ z.hedge = y.nextHedge ∧ z.weight = y.nextWeight ∧ z.hedgeLeft = y.nextHedge ∧
      (y.nextRefill ≠ 0 → z.debt = y.debt - Min.min y.debt (y.nextRefill / 2) ∧
        z.balance = y.nextRefill - Min.min y.debt (y.nextRefill / 2)) ∧
      (y.nextRefill = 0 → z.debt = y.debt ∧ z.balance = 0) ∧ z.counters = y.counters) ∧
    (let use := groveUse s grove
     let total := (use.map Prod.snd).sum
     let t := setGrove s grove { getGrove s grove with energy := (getGrove s grove).energy + uj, lent := [] }
     let harts := fun (t : State) => (knownHarts t).filter fun h => groveOf (h / 4) == grove
     (total = 0 → Runs (.energyTick grove uj) s (markIssues t (harts t))) ∧
     (total ≠ 0 → let v := countAll (chargeAll t uj total (launchUse use)) uj total use
       Runs (.energyTick grove uj) s (markIssues v (harts v)))) ∧
    -- what is charged to a launch, and counted for a context that is resident
    (∀ o, let h := getHart s o.hart
      let t := countEnergy s o uj
      (o.current h = false → t = s) ∧
      (o.current h = true → getHart t o.hart = { h with
        microjoule := (h.microjoule + uj) % 1000, perf := bump h.perf 13 ((h.microjoule + uj) / 1000) })) ∧
    (getLaunch s k = some l → ∃ y, getLaunch (chargeLaunch s k uj) k = some y ∧ y.charged = l.charged + uj ∧
      (y.spent = true ↔ l.spent = true ∨ (l.energy ≠ 0 ∧ l.energy * 1000 ≤ l.charged + uj))) ∧
    -- scrubbing
    (let key := sectorKey sector
     (5 ≤ level ∨ isHostKey sector = true ∨ found = .clean → Runs (.scrubSector level sector found) s s) ∧
     (level < 5 → isHostKey sector = false →
       (found = .corrected →
         let d := getDie s (rowDie key)
         let recent := d.rowErrs.filter fun e => decide (s.cycle < e.2 + scrubCycles s level)
         let before := recent.filter fun e => e.1 == key
         let row := isSliceKey key = true ∨ level = 2
         let t := setDie s (rowDie key) { d with rowErrs := (key, s.cycle) :: recent }
         (¬ row → Runs (.scrubSector level sector found) s (recordError s level 0 key)) ∧
         (row → before.length < 2 → Runs (.scrubSector level sector found) s (recordError t level 0 key)) ∧
         (row → 2 ≤ before.length →
           Runs (.scrubSector level sector found) s (wearRow (recordError t level 1 key) level key))) ∧
       (found = .lasting →
         Runs (.scrubSector level sector found) s (wearRow (recordError s level 1 key) level key)) ∧
       (found = .uncorrectable → ∃ t, Runs (.scrubSector level sector found) s t ∧ key ∈ t.pk.marked))) ∧
    (∀ es, s.pk.errlog[level]? = some es → ∃ t, t = logEntry s level x ∧ t.mem = s.mem ∧
      (es.length < 4096 → t.pk.errlog[level]? = some (es ++ [x])) ∧
      (4096 ≤ es.length → t.pk.errlog[level]? = some (es.drop 1 ++ [x])) ∧
      ∀ j, j ≠ level → t.pk.errlog[j]? = s.pk.errlog[j]?) ∧
    -- mismatches and errors that end a launch
    ((getHart s hart).run ≠ .running → Runs (.checkerMismatch hart what) s s) ∧
    ((getHart s hart).run = .running →
      Runs (.checkerMismatch hart .recurs) s (asHart s hart recurring) ∧
      Runs (.checkerMismatch hart .lost) s (asHart s hart lostState) ∧
      ∃ t, Runs (.checkerMismatch hart .cleared) s t ∧ t.core = s.core ∧ t.cores = s.cores ∧
        (∀ p, partOf s (hart / 4) = some p →
          getHart t hart = { getHart s hart with perf := bump (getHart s hart).perf 14 1 }) ∧
        ∀ o, o ≠ hart → getHart t o = getHart s o) ∧
    (getLaunch s k = none ∨ 5 ≤ level → Runs (.unpinnableError k level) s s) ∧
    (getLaunch s k = some l → level < 5 →
      let u := (draw s).2
      let f := Config.failedUnit (draw s).1
      let entry : LogEntry := { level := level, kind := 2, unit := f.1, place := f.2.1, addr := f.2.2
                                tenant := ((getPart s l.part).map (·.tenant)).getD 255, cycle := s.cycle }
      let tenant := (getPart s l.part).map (·.tenant)
      let v := postError (countError (logEntry u level entry) level false tenant) l.part 2 level 0 (BitVec.ofNat 64 l.lid)
      Runs (.unpinnableError k level) s
        (replayLaunch v k (tornValue v level (Config.freeByte (draw s).1 0).toNat))) ∧
    -- spares
    (let k := dieOf core
     let u := setDie s k { getDie s k with channels := [], lasting := (getDie s k).lasting.filter isSliceKey }
     let c := getDie u k
     let due := quiet s core = true ∧ inService s core = true ∧ core ∉ s.pk.substituting
     let works := (getGrove s (groveOf core)).lasting = false
     let begins := fun (x : Die) (cs : List Nat) => Runs (.spareSubstitution core) s { setDie u k x with
       pk := { s.pk with substituting := s.pk.substituting ++ cs } }
     (¬ due → Runs (.spareSubstitution core) s s) ∧
     (due → worn u core = false → Runs (.spareSubstitution core) s u) ∧
     (due → worn u core = true → 0 < c.spares → works → begins { c with spares := c.spares - 1 } [core]) ∧
     (due → worn u core = true → c.spares = 0 ∨ ¬ works → 0 < c.spareGroves →
       begins { c with spareGroves := c.spareGroves - 1 } (groveCores (groveOf core))) ∧
     (due → worn u core = true → c.spares = 0 ∨ ¬ works → c.spareGroves = 0 →
       ∃ t, Runs (.spareSubstitution core) s t ∧ t.pk = s.pk ∧ t.hart = s.hart ∧
         (getDie t k).groves = c.groves &&& ~~~(BitVec.ofNat 32 (2 ^ groveInDie core))) ∧
     (core ∉ s.pk.substituting → Runs (.substitutionCompletion core) s s) ∧
     (core ∈ s.pk.substituting → ∃ t, Runs (.substitutionCompletion core) s t ∧ core ∉ t.pk.substituting ∧
       (getCore t core).lasting = false ∧ (getCore t core).laneLasting = false ∧ t.mem = s.mem))

/-! ### The machine as a whole -/

/-- 03 R45, 01 R13, R22, 05 R88, 17 R313, R316, 19 R349, R352, R379, 21 R393, and the model's values of
notes/assumptions/1.md and 2.md: the state after reset. No hart is loaded, the package is held in reset as package 0
with the PF as its only function, CYCLE is 0, nothing is listed in memory, which is in canonical form. -/
def Obligations.ResetState : Prop :=
  let s := State.reset
  Inv s ∧ s.mem = [] ∧ s.cycle = 0 ∧ s.pk.boot = .inReset ∧ s.pk.pkg = 0 ∧ s.pk.parts = [] ∧ s.pk.launches = [] ∧
  s.pk.copies = [] ∧ s.pk.functions.map (·.num) = [0] ∧ s.pk.scrub = [100, 100, 200, 60000, 10] ∧
  s.pk.functions.map (fun f => (f.en, f.rdy, f.fatal)) = [(false, false, false)] ∧
  ∀ h : Nat, let x := getHart s h
    x.run = .unloaded ∧ x.pend = [] ∧ x.frame = none ∧ x.task = none ∧ x.launch = none ∧ x.frm = 0 ∧ x.fflags = 0 ∧
    x.vt = 0 ∧ x.sien = 0 ∧ x.uih = false ∧ (∀ r, x.rx r = 0) ∧ (∀ r, x.rv r = 0) ∧ (∀ r, x.rm r = 0) ∧
    (∀ r, x.rb r = 0) ∧ (∀ q, x.binding q = .none) ∧ (getCore s (h / 4)).log = [] ∧ (getCore s (h / 4)).held = none

/-- 00 R2, 11 R186: what is written to n bytes is read back, byte j of it from the j-th address; every other byte
keeps its value, and memory keeps its canonical form, in which equal bytes are equal data. -/
def Obligations.MemoryReadAfterWrite : Prop :=
  ∀ (m o : List Host.Cell) (k n v : Nat), Memory.wf m = true →
    memRead (memWrite m k n v) k n = v % 256 ^ n ∧
    (∀ j, j < n → memGet (memWrite m k n v) (k + j) = BitVec.ofNat 8 (v / 256 ^ j)) ∧
    (∀ a, a < k ∨ k + n ≤ a → memGet (memWrite m k n v) a = memGet m a) ∧
    Memory.wf (memWrite m k n v) = true ∧
    (Memory.wf o = true → (∀ a, memGet o a = memGet m a) → o = m)

/-- 01 R21, R24, R401, 03 R55, R61, 17 R330, R331: when nothing else is due, a step is the issuing hart's turn: its
word, from its frame or fetched at PC, decodes to an instruction, and the step is that instruction's effect with the
marks of the issue order; a word that names none raises ILLEGAL. A word in a held block is the block's four bytes at
its place; a block that is not held is requested, and one that is delivered holds the 64 bytes that the port read.
User mode fetches within its code bound alone. A turn that issued, or began to wait in an instruction that has issued,
makes its hart the issuing one; a turn that only waited leaves that as it was, and issue passes from it only where it
is not ready (R22). The run of R23 counts the issuing hart's issues while it stays ready. Which waits count as issued
is the model's choice (notes/assumptions/101.md). -/
def Obligations.StepRunsTheDecodedInstruction : Prop :=
  (∀ (s t u : State) (hart : Nat) (w : IWord), s.agenda = [] → s.pk.cmds = [] → s.hostWrites = [] → s.pk.pins = [] →
    let a := { s with away := none }
    let f₀ := focus { a with turns := a.turns.drop 1 } hart
    let f := { f₀ with core := { f₀.core with pass := .keep } }
    let g := arrivePops f
    (s.pk.tripped = true ∨ firstEvent a (dueSteps a) = none) → issuingHart a = some hart →
    ownFirst (getCore a (hart / 4)) = false → boundary g = none →
    nextWord (completeAll g (g.hart.pend.filter (windowOver g.hart))) = (t, .word w) →
    let goes := fun (i : Instr) =>
      exec i { t with hart := { t.hart with iword := w } } = .next u → u.away = none →
        step s = .next (tickOver (endTurn f₀.core f u))
    (∀ i, decode w = .ok i → goes i) ∧ (∀ e, decode w = .error e → goes (.reservedEncoding w))) ∧
  (∀ (c : Core) (f u : State), u.away = none →
    -- no copy was cancelled, and no trap taken
    u.hart.task.isSome = f.hart.task.isSome → u.hart.fromEvents.length = f.hart.fromEvents.length →
    let t := endTurn c f u
    let me := BitVec.ofNat 2 u.hgid
    -- the wait is in an instruction that has issued
    let began := u.hart.stall ≠ none ∧ ((f.hart.waitStamp = none ∧ u.hart.waitStamp ≠ none) ∨
      (f.hart.inv = none ∧ u.hart.inv ≠ none) ∨ (f.hart.lease = none ∧ u.hart.lease ≠ none) ∨
      (f.hart.task.any (·.waiting) = false ∧ u.hart.task.any (·.waiting) = true))
    let acts := u.hart.stall = none ∨ began
    let stays := u.hart.stall = none ∧ u.hart.run = .running ∧ busyHart u u.hgid u.hart = false ∧
      windowBlocks u = false
    t = { u with
      work := t.work
      core := { u.core with
        issuer := if acts then me else c.issuer, issueRun := t.core.issueRun, pass := t.core.pass } } ∧
    (acts →
      let goes := f.hart.issued < u.hart.issued ∧ stays
      t.core.issueRun = (if goes then if c.issuer = me then c.issueRun + 1 else 1 else 0) ∧
      t.core.pass = if stays then u.core.pass else .stopped) ∧
    (¬ acts →
      let kept := c.issuer ≠ me ∧ hartReady f (u.cid * 4 + c.issuer.toNat) = true
      (kept → t.core.issueRun = c.issueRun ∧ t.core.pass = c.pass) ∧
      (¬ kept → t.core.issueRun = 0 ∧ t.core.pass = .stopped)) ∧
    (u.hart.stall = none → t.work = u.work + 1)) ∧
  (∀ (s : State) (a : Dword),
    let within := s.hart.codeBase.toNat ≤ a.toNat ∧ a.toNat < s.hart.codeBase.toNat + s.hart.codeSize
    (s.hart.mode = .user → ¬ within → fetchAt s a = (s, .fault .codebound)) ∧
    (s.hart.mode ≠ .user ∨ within →
      (∀ b, heldBlock s.hart a = some b → (if a.toNat % 64 < 32 then b.faultLo else b.faultHi) = none →
        fetchAt s a = (s, .word (BitVec.ofNat 32 (b.bytes.toNat / 256 ^ (a.toNat % 64))))) ∧
      (heldBlock s.hart a = none → ∃ t r, fetchAt s a = (t, .wait) ∧ t.hart.fetch = some r ∧
        r.addr = BitVec.ofNat 64 (a.toNat / 64 * 64) ∧ t.mem = s.mem ∧ t.core = s.core ∧
        t.hart = { s.hart with fetch := some r, alignHold := t.hart.alignHold }))) ∧
  (∀ (s u v : State) (a : Dword) (lo hi : List Byte),
    fetchSector s a = (u, .ok lo) → fetchSector u (a + 32) = (v, .ok hi) → lo.length = 32 → hi.length = 32 →
    ∃ b k, (deliverBlock s a).hart.ibuf = b :: k ∧ k.length ≤ 1 ∧ b.addr = a ∧ b.faultLo = none ∧ b.faultHi = none ∧
      ∀ j, j < 64 → (lo ++ hi)[j]? = some (BitVec.ofNat 8 (b.bytes.toNat / 256 ^ j)))

/-- 03 R52 to R64 with 07, 09, 11, 13, 15 and 17: words written out field by field decode to the instructions they stand
for, and words outside the opcode map or with a field that must be zero name none. -/
def Obligations.DecodedWords : Prop :=
  decode 0b00000100011001000010100000000000 = .ok (.add 3 4 5) ∧
  decode 0b00001000001000000111111111111111 = .ok (.addi 1 0 32767) ∧
  decode 0b00100000001000010001001000110100 = .ok (.seth 1 1 0x1234) ∧
  decode 0b00110000110001111111111101010000 = .ok (.lds 6 7 (-3) 1 0) ∧
  decode 0x48A63870 = .ok (.amoAdd 5 6 7 0 3 0) ∧
  decode 0x49095650 = .ok (.amoCas 8 9 10 1 1 0) ∧
  decode 0x48A602D0 = .ok (.amoLd 5 6 0 1 0) ∧
  decode 0b01011111111111111111111111111111 = .ok (.j (-1)) ∧
  decode 0b01100100011001000010100100000000 = .ok (.vadd 3 4 5 1 0 0) ∧
  decode 0b10011100011001010000010011010001 = .ok (.swr 3 5 0x04D) ∧
  decode 0b10100000000000000000000000000000 = .ok .nop ∧
  (∀ w : IWord, w.toNat / 2 ^ 26 = 0 ∨ 41 ≤ w.toNat / 2 ^ 26 → decode w = .error .major) ∧
  decode 0b00000100011001000010100000001001 = .error .field

/-- 03 R51 to R64 and the encodings of every chapter: a word decodes to an instruction exactly when the instruction's
fields meet their requirements and the word is its encoding. So every operand survives at every value that the encoding
admits, no two instructions share a word, and a word with a non-zero zero field names none. -/
def Obligations.DecodeAndEncodeAgree : Prop :=
  ∀ (w : IWord) (i : Instr), decode w = .ok i ↔ WellFormed i ∧ encode i = some w

/-- Memory stays in canonical form (notes/assumptions/2.md): every step that goes on keeps it, so that memories with
equal bytes are equal data in every state that the machine reaches from one in that form. -/
def Obligations.StepKeepsMemoryCanonical : Prop :=
  ∀ s t : State, Inv s → step s = .next t → Inv t
end

