-- ==== Sys2Proof/Laws/Memory.lean ====
section
/-!
SUPPORT. Laws of memory: what a byte reads after each operation, and that every operation keeps the canonical
form (notes/assumptions/2.md).
-/

namespace Sys2Proof.Machine

/-- Every listed address is at least k, where the addresses above a listed one start. -/
def Memory.above (k : Nat) (m : List Host.Cell) : Prop := ∀ c ∈ m, k ≤ c.1

theorem Memory.wf_cons {k : Nat} {b : Byte} {m : List Host.Cell} :
    Memory.wf ((k, b) :: m) = true ↔ b ≠ memDefault ∧ Memory.above (k + 1) m ∧ Memory.wf m = true := by
  induction m generalizing k b with
  | nil => simp [Memory.wf, Memory.above]
  | cons c m ih =>
    obtain ⟨k', b'⟩ := c
    have h := @ih k' b'
    simp only [Memory.wf, Bool.and_eq_true, bne_iff_ne, ne_eq, decide_eq_true_eq]
    constructor
    · rintro ⟨⟨h1, h2⟩, h3⟩
      refine ⟨h1, ?_, h3⟩
      intro c hc
      rcases List.mem_cons.mp hc with rfl | hc
      · exact h2
      · have := (h.mp h3).2.1 c hc
        omega
    · rintro ⟨h1, h2, h3⟩
      exact ⟨⟨h1, h2 (k', b') (by simp)⟩, h3⟩

theorem memGet_above {m : List Host.Cell} {k a : Nat} (h : Memory.above k m) (ha : a < k) :
    memGet m a = memDefault := by
  induction m with
  | nil => rfl
  | cons c m ih =>
    have hc : k ≤ c.1 := h c (by simp)
    rw [memGet, if_neg (by omega), ih fun x hx => h x (List.mem_cons_of_mem _ hx)]

theorem memSet_above {m : List Host.Cell} {k j : Nat} {b : Byte} (h : Memory.above j m) (hk : j ≤ k) :
    Memory.above j (memSet m k b) := by
  induction m with
  | nil =>
    simp only [memSet]
    split
    · simp [Memory.above]
    · simpa [Memory.above] using hk
  | cons c m ih =>
    have hc := h c (by simp)
    have ht : Memory.above j m := fun x hx => h x (List.mem_cons_of_mem _ hx)
    have all : ∀ l, Memory.above j l → ∀ d : Host.Cell, j ≤ d.1 → Memory.above j (d :: l) := by
      intro l hl d hd x hx
      rcases List.mem_cons.mp hx with rfl | hx
      · exact hd
      · exact hl x hx
    simp only [memSet]
    split
    · exact all _ (ih ht) _ hc
    · split
      · split
        · exact ht
        · exact all _ ht _ hk
      · split
        · exact h
        · exact all _ h _ hk

/-- Writing a byte keeps the canonical form. -/
theorem memSet_wf {m : List Host.Cell} (k : Nat) (b : Byte) (h : Memory.wf m = true) :
    Memory.wf (memSet m k b) = true := by
  induction m with
  | nil =>
    simp only [memSet]
    split
    · rfl
    · rename_i hb; simpa [Memory.wf] using hb
  | cons c m ih =>
    obtain ⟨k', b'⟩ := c
    obtain ⟨h1, h2, h3⟩ := Memory.wf_cons.mp h
    simp only [memSet]
    split
    · rename_i hk
      exact Memory.wf_cons.mpr ⟨h1, memSet_above h2 hk, ih h3⟩
    · split
      · rename_i hk
        split
        · exact h3
        · rename_i hb
          exact Memory.wf_cons.mpr ⟨hb, hk ▸ h2, h3⟩
      · split
        · exact h
        · rename_i hk hk' hb
          refine Memory.wf_cons.mpr ⟨hb, ?_, h⟩
          intro x hx
          rcases List.mem_cons.mp hx with rfl | hx
          · show k + 1 ≤ k'; omega
          · have := h2 x hx; omega

/-- A byte reads as the last write of it, and every other byte as before. -/
theorem memGet_memSet {m : List Host.Cell} (k a : Nat) (b : Byte) (h : Memory.wf m = true) :
    memGet (memSet m k b) a = if a = k then b else memGet m a := by
  induction m with
  | nil =>
    simp only [memSet]
    split
    · rename_i hb; subst hb; split <;> rfl
    · simp only [memGet]
      by_cases ha : a = k
      · subst ha; simp
      · rw [if_neg (Ne.symm ha), if_neg ha]
  | cons c m ih =>
    obtain ⟨k', b'⟩ := c
    obtain ⟨h1, h2, h3⟩ := Memory.wf_cons.mp h
    simp only [memSet]
    split
    · rename_i hk
      simp only [memGet]
      rw [ih h3]
      split
      · rw [if_neg (by omega)]
      · rfl
    · split
      · rename_i hk
        subst hk
        split
        · rename_i hb
          by_cases ha : a = k'
          · subst ha; rw [if_pos rfl, hb]; exact memGet_above h2 (by omega)
          · simp [memGet, ha, eq_comm]
        · simp only [memGet]
          by_cases ha : a = k'
          · subst ha; simp
          · rw [if_neg (Ne.symm ha), if_neg ha, if_neg (Ne.symm ha)]
      · rename_i hk hk'
        have low : memGet ((k', b') :: m) k = memDefault := by
          refine memGet_above (k := k + 1) ?_ (by omega)
          intro x hx
          rcases List.mem_cons.mp hx with rfl | hx
          · show k + 1 ≤ k'; omega
          · have := h2 x hx; omega
        split
        · rename_i hb
          by_cases ha : a = k
          · subst ha; rw [if_pos rfl, low, hb]
          · rw [if_neg ha]
        · by_cases ha : a = k
          · subst ha; simp [memGet]
          · rw [if_neg ha, memGet, if_neg (Ne.symm ha)]

/-- A write changes no other byte. -/
theorem memGet_memSet_ne {m : List Host.Cell} (k a : Nat) (b : Byte) (h : a ≠ k) :
    memGet (memSet m k b) a = memGet m a := by
  induction m with
  | nil => unfold memSet; split_ifs <;> simp [memGet, h.symm]
  | cons c m ih =>
    obtain ⟨k', b'⟩ := c
    unfold memSet
    split_ifs <;> simp only [memGet, ih] <;> split_ifs <;> first | rfl | omega

/-- A write of bytes changes no byte outside them. -/
theorem memWriteBytes_other (m : List Host.Cell) (k : Nat) (bs : List Byte) (a : Nat)
    (h : a < k ∨ k + bs.length ≤ a) : memGet (memWriteBytes m k bs) a = memGet m a := by
  induction bs generalizing m k with
  | nil => rfl
  | cons b bs ih =>
    rw [List.length_cons] at h
    rw [memWriteBytes, ih _ _ (by omega), memGet_memSet_ne _ _ _ (by omega)]

theorem memWrite_wf {m : List Host.Cell} (k n v : Nat) (h : Memory.wf m = true) :
    Memory.wf (memWrite m k n v) = true := by
  induction n generalizing m k v with
  | zero => exact h
  | succ n ih => exact ih _ _ (memSet_wf _ _ h)

theorem memWriteBytes_wf {m : List Host.Cell} (k : Nat) (bs : List Byte) (h : Memory.wf m = true) :
    Memory.wf (memWriteBytes m k bs) = true := by
  induction bs generalizing m k with
  | nil => exact h
  | cons b bs ih => exact ih _ (memSet_wf _ _ h)

theorem memRestore_wf {m : List Host.Cell} (l : List Host.Cell) (h : Memory.wf m = true) :
    Memory.wf (memRestore m l) = true := by
  induction l generalizing m with
  | nil => exact h
  | cons c l ih => exact ih (memSet_wf _ _ h)

theorem writeMaskedFrom_wf {m : List Host.Cell} (key : Nat) (mask : BitVec 32) (d : Sector) (n : Nat)
    (h : Memory.wf m = true) : Memory.wf (writeMaskedFrom m key mask d n) = true := by
  induction n generalizing m with
  | zero => exact h
  | succ n ih =>
    rw [writeMaskedFrom]
    apply ih
    split
    · exact memSet_wf _ _ h
    · exact h

theorem writeMasked_wf {m : List Host.Cell} (key : Nat) (mask : BitVec 32) (d : Sector)
    (h : Memory.wf m = true) : Memory.wf (writeMasked m key mask d) = true :=
  writeMaskedFrom_wf key mask d 32 h

/-- Removing cells keeps the canonical form. -/
theorem filter_wf {m : List Host.Cell} (p : Host.Cell → Bool) (h : Memory.wf m = true) :
    Memory.wf (m.filter p) = true := by
  induction m with
  | nil => rfl
  | cons c m ih =>
    obtain ⟨k, b⟩ := c
    obtain ⟨h1, h2, h3⟩ := Memory.wf_cons.mp h
    rw [List.filter_cons]
    split
    · exact Memory.wf_cons.mpr ⟨h1, fun x hx => h2 x (List.mem_of_mem_filter hx), ih h3⟩
    · exact ih h3

theorem memZero_wf {m : List Host.Cell} (lo hi : Nat) (h : Memory.wf m = true) :
    Memory.wf (memZero m lo hi) = true := filter_wf _ h

theorem memRange_wf {m : List Host.Cell} (lo hi : Nat) (h : Memory.wf m = true) :
    Memory.wf (memRange m lo hi) = true := filter_wf _ h

/-- Cleared bytes read as unlisted ones, and every other byte as before. -/
theorem memGet_memZero {m : List Host.Cell} (lo hi a : Nat) :
    memGet (memZero m lo hi) a = if lo ≤ a ∧ a < hi then memDefault else memGet m a := by
  induction m with
  | nil => simp [memZero, memGet]
  | cons c m ih =>
    obtain ⟨k, b⟩ := c
    have ih' : memGet (m.filter fun (x : Host.Cell) => x.1 < lo || hi ≤ x.1) a =
        if lo ≤ a ∧ a < hi then memDefault else memGet m a := ih
    by_cases hk : k < lo ∨ hi ≤ k
    · have : (memZero ((k, b) :: m) lo hi) = (k, b) :: memZero m lo hi := by
        simp [memZero, List.filter_cons]; omega
      rw [this, memGet, memGet, ih]
      by_cases ha : k = a
      · subst ha; simp; omega
      · simp [ha]
    · have : (memZero ((k, b) :: m) lo hi) = memZero m lo hi := by
        simp [memZero, List.filter_cons]; omega
      rw [this, ih, memGet]
      by_cases ha : k = a
      · subst ha; rw [if_pos (by omega), if_pos (by omega)]
      · simp [ha]

end Sys2Proof.Machine
end

