-- ==== Sys2Proof/Laws/State.lean ====
section
/-!
SUPPORT. Laws of the state: for each update, what each field holds after it.
-/

namespace Sys2Proof.Machine

/-! ### Units of the state -/
@[simp] theorem setGrove_hgid (s : State) (g : Nat) (v : Grove) : (setGrove s g v).hgid = s.hgid := rfl
@[simp] theorem setGrove_hart (s : State) (g : Nat) (v : Grove) : (setGrove s g v).hart = s.hart := rfl
@[simp] theorem setGrove_core (s : State) (g : Nat) (v : Grove) : (setGrove s g v).core = s.core := rfl
@[simp] theorem setGrove_harts (s : State) (g : Nat) (v : Grove) : (setGrove s g v).harts = s.harts := rfl
@[simp] theorem setGrove_cores (s : State) (g : Nat) (v : Grove) : (setGrove s g v).cores = s.cores := rfl
@[simp] theorem setGrove_dies (s : State) (g : Nat) (v : Grove) : (setGrove s g v).dies = s.dies := rfl
@[simp] theorem setGrove_pk (s : State) (g : Nat) (v : Grove) : (setGrove s g v).pk = s.pk := rfl
@[simp] theorem setGrove_mem (s : State) (g : Nat) (v : Grove) : (setGrove s g v).mem = s.mem := rfl
@[simp] theorem setGrove_cycle (s : State) (g : Nat) (v : Grove) : (setGrove s g v).cycle = s.cycle := rfl
@[simp] theorem setGrove_tick (s : State) (g : Nat) (v : Grove) : (setGrove s g v).tick = s.tick := rfl
@[simp] theorem setGrove_work (s : State) (g : Nat) (v : Grove) : (setGrove s g v).work = s.work := rfl
@[simp] theorem setGrove_agenda (s : State) (g : Nat) (v : Grove) : (setGrove s g v).agenda = s.agenda := rfl
@[simp] theorem setGrove_turns (s : State) (g : Nat) (v : Grove) : (setGrove s g v).turns = s.turns := rfl
@[simp] theorem setGrove_away (s : State) (g : Nat) (v : Grove) : (setGrove s g v).away = s.away := rfl
@[simp] theorem setGrove_hostWrites (s : State) (g : Nat) (v : Grove) : (setGrove s g v).hostWrites = s.hostWrites :=
  rfl
@[simp] theorem setDie_hgid (s : State) (d : Nat) (v : Die) : (setDie s d v).hgid = s.hgid := rfl
@[simp] theorem setDie_hart (s : State) (d : Nat) (v : Die) : (setDie s d v).hart = s.hart := rfl
@[simp] theorem setDie_core (s : State) (d : Nat) (v : Die) : (setDie s d v).core = s.core := rfl
@[simp] theorem setDie_harts (s : State) (d : Nat) (v : Die) : (setDie s d v).harts = s.harts := rfl
@[simp] theorem setDie_cores (s : State) (d : Nat) (v : Die) : (setDie s d v).cores = s.cores := rfl
@[simp] theorem setDie_groves (s : State) (d : Nat) (v : Die) : (setDie s d v).groves = s.groves := rfl
@[simp] theorem setDie_pk (s : State) (d : Nat) (v : Die) : (setDie s d v).pk = s.pk := rfl
@[simp] theorem setDie_mem (s : State) (d : Nat) (v : Die) : (setDie s d v).mem = s.mem := rfl
@[simp] theorem setDie_cycle (s : State) (d : Nat) (v : Die) : (setDie s d v).cycle = s.cycle := rfl
@[simp] theorem setDie_tick (s : State) (d : Nat) (v : Die) : (setDie s d v).tick = s.tick := rfl
@[simp] theorem setDie_work (s : State) (d : Nat) (v : Die) : (setDie s d v).work = s.work := rfl
@[simp] theorem setDie_agenda (s : State) (d : Nat) (v : Die) : (setDie s d v).agenda = s.agenda := rfl
@[simp] theorem setDie_turns (s : State) (d : Nat) (v : Die) : (setDie s d v).turns = s.turns := rfl
@[simp] theorem setDie_away (s : State) (d : Nat) (v : Die) : (setDie s d v).away = s.away := rfl
@[simp] theorem setDie_hostWrites (s : State) (d : Nat) (v : Die) : (setDie s d v).hostWrites = s.hostWrites := rfl
@[simp] theorem setPart_hgid (s : State) (p : Partition) : (setPart s p).hgid = s.hgid := rfl
@[simp] theorem setPart_hart (s : State) (p : Partition) : (setPart s p).hart = s.hart := rfl
@[simp] theorem setPart_core (s : State) (p : Partition) : (setPart s p).core = s.core := rfl
@[simp] theorem setPart_harts (s : State) (p : Partition) : (setPart s p).harts = s.harts := rfl
@[simp] theorem setPart_cores (s : State) (p : Partition) : (setPart s p).cores = s.cores := rfl
@[simp] theorem setPart_groves (s : State) (p : Partition) : (setPart s p).groves = s.groves := rfl
@[simp] theorem setPart_dies (s : State) (p : Partition) : (setPart s p).dies = s.dies := rfl
@[simp] theorem setPart_mem (s : State) (p : Partition) : (setPart s p).mem = s.mem := rfl
@[simp] theorem setPart_cycle (s : State) (p : Partition) : (setPart s p).cycle = s.cycle := rfl
@[simp] theorem setPart_tick (s : State) (p : Partition) : (setPart s p).tick = s.tick := rfl
@[simp] theorem setPart_work (s : State) (p : Partition) : (setPart s p).work = s.work := rfl
@[simp] theorem setPart_agenda (s : State) (p : Partition) : (setPart s p).agenda = s.agenda := rfl
@[simp] theorem setPart_turns (s : State) (p : Partition) : (setPart s p).turns = s.turns := rfl
@[simp] theorem setPart_away (s : State) (p : Partition) : (setPart s p).away = s.away := rfl
@[simp] theorem setPart_hostWrites (s : State) (p : Partition) : (setPart s p).hostWrites = s.hostWrites := rfl
@[simp] theorem setLaunch_hgid (s : State) (l : Launch) : (setLaunch s l).hgid = s.hgid := rfl
@[simp] theorem setLaunch_hart (s : State) (l : Launch) : (setLaunch s l).hart = s.hart := rfl
@[simp] theorem setLaunch_core (s : State) (l : Launch) : (setLaunch s l).core = s.core := rfl
@[simp] theorem setLaunch_harts (s : State) (l : Launch) : (setLaunch s l).harts = s.harts := rfl
@[simp] theorem setLaunch_cores (s : State) (l : Launch) : (setLaunch s l).cores = s.cores := rfl
@[simp] theorem setLaunch_groves (s : State) (l : Launch) : (setLaunch s l).groves = s.groves := rfl
@[simp] theorem setLaunch_dies (s : State) (l : Launch) : (setLaunch s l).dies = s.dies := rfl
@[simp] theorem setLaunch_mem (s : State) (l : Launch) : (setLaunch s l).mem = s.mem := rfl
@[simp] theorem setLaunch_cycle (s : State) (l : Launch) : (setLaunch s l).cycle = s.cycle := rfl
@[simp] theorem setLaunch_tick (s : State) (l : Launch) : (setLaunch s l).tick = s.tick := rfl
@[simp] theorem setLaunch_work (s : State) (l : Launch) : (setLaunch s l).work = s.work := rfl
@[simp] theorem setLaunch_agenda (s : State) (l : Launch) : (setLaunch s l).agenda = s.agenda := rfl
@[simp] theorem setLaunch_turns (s : State) (l : Launch) : (setLaunch s l).turns = s.turns := rfl
@[simp] theorem setLaunch_away (s : State) (l : Launch) : (setLaunch s l).away = s.away := rfl
@[simp] theorem setLaunch_hostWrites (s : State) (l : Launch) : (setLaunch s l).hostWrites = s.hostWrites := rfl
@[simp] theorem onHart_hgid (s : State) (f : Hart → Hart) : (onHart s f).hgid = s.hgid := rfl
@[simp] theorem onHart_core (s : State) (f : Hart → Hart) : (onHart s f).core = s.core := rfl
@[simp] theorem onHart_harts (s : State) (f : Hart → Hart) : (onHart s f).harts = s.harts := rfl
@[simp] theorem onHart_cores (s : State) (f : Hart → Hart) : (onHart s f).cores = s.cores := rfl
@[simp] theorem onHart_groves (s : State) (f : Hart → Hart) : (onHart s f).groves = s.groves := rfl
@[simp] theorem onHart_dies (s : State) (f : Hart → Hart) : (onHart s f).dies = s.dies := rfl
@[simp] theorem onHart_pk (s : State) (f : Hart → Hart) : (onHart s f).pk = s.pk := rfl
@[simp] theorem onHart_mem (s : State) (f : Hart → Hart) : (onHart s f).mem = s.mem := rfl
@[simp] theorem onHart_cycle (s : State) (f : Hart → Hart) : (onHart s f).cycle = s.cycle := rfl
@[simp] theorem onHart_tick (s : State) (f : Hart → Hart) : (onHart s f).tick = s.tick := rfl
@[simp] theorem onHart_work (s : State) (f : Hart → Hart) : (onHart s f).work = s.work := rfl
@[simp] theorem onHart_agenda (s : State) (f : Hart → Hart) : (onHart s f).agenda = s.agenda := rfl
@[simp] theorem onHart_turns (s : State) (f : Hart → Hart) : (onHart s f).turns = s.turns := rfl
@[simp] theorem onHart_away (s : State) (f : Hart → Hart) : (onHart s f).away = s.away := rfl
@[simp] theorem onHart_hostWrites (s : State) (f : Hart → Hart) : (onHart s f).hostWrites = s.hostWrites := rfl
@[simp] theorem setHart_hgid (s : State) (h : Nat) (v : Hart) : (setHart s h v).hgid = s.hgid :=
  by unfold setHart; split <;> rfl
@[simp] theorem setHart_core (s : State) (h : Nat) (v : Hart) : (setHart s h v).core = s.core :=
  by unfold setHart; split <;> rfl
@[simp] theorem setHart_cores (s : State) (h : Nat) (v : Hart) : (setHart s h v).cores = s.cores :=
  by unfold setHart; split <;> rfl
@[simp] theorem setHart_groves (s : State) (h : Nat) (v : Hart) : (setHart s h v).groves = s.groves :=
  by unfold setHart; split <;> rfl
@[simp] theorem setHart_dies (s : State) (h : Nat) (v : Hart) : (setHart s h v).dies = s.dies :=
  by unfold setHart; split <;> rfl
@[simp] theorem setHart_pk (s : State) (h : Nat) (v : Hart) : (setHart s h v).pk = s.pk :=
  by unfold setHart; split <;> rfl
@[simp] theorem setHart_mem (s : State) (h : Nat) (v : Hart) : (setHart s h v).mem = s.mem :=
  by unfold setHart; split <;> rfl
@[simp] theorem setHart_cycle (s : State) (h : Nat) (v : Hart) : (setHart s h v).cycle = s.cycle :=
  by unfold setHart; split <;> rfl
@[simp] theorem setHart_tick (s : State) (h : Nat) (v : Hart) : (setHart s h v).tick = s.tick :=
  by unfold setHart; split <;> rfl
@[simp] theorem setHart_work (s : State) (h : Nat) (v : Hart) : (setHart s h v).work = s.work :=
  by unfold setHart; split <;> rfl
@[simp] theorem setHart_agenda (s : State) (h : Nat) (v : Hart) : (setHart s h v).agenda = s.agenda :=
  by unfold setHart; split <;> rfl
@[simp] theorem setHart_turns (s : State) (h : Nat) (v : Hart) : (setHart s h v).turns = s.turns :=
  by unfold setHart; split <;> rfl
@[simp] theorem setHart_away (s : State) (h : Nat) (v : Hart) : (setHart s h v).away = s.away :=
  by unfold setHart; split <;> rfl
@[simp] theorem setHart_hostWrites (s : State) (h : Nat) (v : Hart) : (setHart s h v).hostWrites = s.hostWrites :=
  by unfold setHart; split <;> rfl
@[simp] theorem setCore_hgid (s : State) (c : Nat) (v : Core) : (setCore s c v).hgid = s.hgid :=
  by unfold setCore; split <;> rfl
@[simp] theorem setCore_hart (s : State) (c : Nat) (v : Core) : (setCore s c v).hart = s.hart :=
  by unfold setCore; split <;> rfl
@[simp] theorem setCore_harts (s : State) (c : Nat) (v : Core) : (setCore s c v).harts = s.harts :=
  by unfold setCore; split <;> rfl
@[simp] theorem setCore_groves (s : State) (c : Nat) (v : Core) : (setCore s c v).groves = s.groves :=
  by unfold setCore; split <;> rfl
@[simp] theorem setCore_dies (s : State) (c : Nat) (v : Core) : (setCore s c v).dies = s.dies :=
  by unfold setCore; split <;> rfl
@[simp] theorem setCore_pk (s : State) (c : Nat) (v : Core) : (setCore s c v).pk = s.pk :=
  by unfold setCore; split <;> rfl
@[simp] theorem setCore_mem (s : State) (c : Nat) (v : Core) : (setCore s c v).mem = s.mem :=
  by unfold setCore; split <;> rfl
@[simp] theorem setCore_cycle (s : State) (c : Nat) (v : Core) : (setCore s c v).cycle = s.cycle :=
  by unfold setCore; split <;> rfl
@[simp] theorem setCore_tick (s : State) (c : Nat) (v : Core) : (setCore s c v).tick = s.tick :=
  by unfold setCore; split <;> rfl
@[simp] theorem setCore_work (s : State) (c : Nat) (v : Core) : (setCore s c v).work = s.work :=
  by unfold setCore; split <;> rfl
@[simp] theorem setCore_agenda (s : State) (c : Nat) (v : Core) : (setCore s c v).agenda = s.agenda :=
  by unfold setCore; split <;> rfl
@[simp] theorem setCore_turns (s : State) (c : Nat) (v : Core) : (setCore s c v).turns = s.turns :=
  by unfold setCore; split <;> rfl
@[simp] theorem setCore_away (s : State) (c : Nat) (v : Core) : (setCore s c v).away = s.away :=
  by unfold setCore; split <;> rfl
@[simp] theorem setCore_hostWrites (s : State) (c : Nat) (v : Core) : (setCore s c v).hostWrites = s.hostWrites :=
  by unfold setCore; split <;> rfl
@[simp] theorem focus_groves (s : State) (h : Nat) : (focus s h).groves = s.groves := by unfold focus; split <;> rfl
@[simp] theorem focus_dies (s : State) (h : Nat) : (focus s h).dies = s.dies := by unfold focus; split <;> rfl
@[simp] theorem focus_pk (s : State) (h : Nat) : (focus s h).pk = s.pk := by unfold focus; split <;> rfl
@[simp] theorem focus_mem (s : State) (h : Nat) : (focus s h).mem = s.mem := by unfold focus; split <;> rfl
@[simp] theorem focus_cycle (s : State) (h : Nat) : (focus s h).cycle = s.cycle := by unfold focus; split <;> rfl
@[simp] theorem focus_tick (s : State) (h : Nat) : (focus s h).tick = s.tick := by unfold focus; split <;> rfl
@[simp] theorem focus_work (s : State) (h : Nat) : (focus s h).work = s.work := by unfold focus; split <;> rfl
@[simp] theorem focus_agenda (s : State) (h : Nat) : (focus s h).agenda = s.agenda := by unfold focus; split <;> rfl
@[simp] theorem focus_turns (s : State) (h : Nat) : (focus s h).turns = s.turns := by unfold focus; split <;> rfl
@[simp] theorem focus_away (s : State) (h : Nat) : (focus s h).away = s.away := by unfold focus; split <;> rfl
@[simp] theorem focus_hostWrites (s : State) (h : Nat) : (focus s h).hostWrites = s.hostWrites :=
  by unfold focus; split <;> rfl
@[simp] theorem raiseFlags_hgid (s : State) (f : Flags) : (raiseFlags s f).hgid = s.hgid :=
  by unfold raiseFlags flagsToGrove; split <;> rfl
@[simp] theorem raiseFlags_core (s : State) (f : Flags) : (raiseFlags s f).core = s.core :=
  by unfold raiseFlags flagsToGrove; split <;> rfl
@[simp] theorem raiseFlags_harts (s : State) (f : Flags) : (raiseFlags s f).harts = s.harts :=
  by unfold raiseFlags flagsToGrove; split <;> rfl
@[simp] theorem raiseFlags_cores (s : State) (f : Flags) : (raiseFlags s f).cores = s.cores :=
  by unfold raiseFlags flagsToGrove; split <;> rfl
@[simp] theorem raiseFlags_dies (s : State) (f : Flags) : (raiseFlags s f).dies = s.dies :=
  by unfold raiseFlags flagsToGrove; split <;> rfl
@[simp] theorem raiseFlags_pk (s : State) (f : Flags) : (raiseFlags s f).pk = s.pk :=
  by unfold raiseFlags flagsToGrove; split <;> rfl
@[simp] theorem raiseFlags_mem (s : State) (f : Flags) : (raiseFlags s f).mem = s.mem :=
  by unfold raiseFlags flagsToGrove; split <;> rfl
@[simp] theorem raiseFlags_cycle (s : State) (f : Flags) : (raiseFlags s f).cycle = s.cycle :=
  by unfold raiseFlags flagsToGrove; split <;> rfl
@[simp] theorem raiseFlags_tick (s : State) (f : Flags) : (raiseFlags s f).tick = s.tick :=
  by unfold raiseFlags flagsToGrove; split <;> rfl
@[simp] theorem raiseFlags_work (s : State) (f : Flags) : (raiseFlags s f).work = s.work :=
  by unfold raiseFlags flagsToGrove; split <;> rfl
@[simp] theorem raiseFlags_agenda (s : State) (f : Flags) : (raiseFlags s f).agenda = s.agenda :=
  by unfold raiseFlags flagsToGrove; split <;> rfl
@[simp] theorem raiseFlags_turns (s : State) (f : Flags) : (raiseFlags s f).turns = s.turns :=
  by unfold raiseFlags flagsToGrove; split <;> rfl
@[simp] theorem raiseFlags_away (s : State) (f : Flags) : (raiseFlags s f).away = s.away :=
  by unfold raiseFlags flagsToGrove; split <;> rfl
@[simp] theorem raiseFlags_hostWrites (s : State) (f : Flags) : (raiseFlags s f).hostWrites = s.hostWrites :=
  by unfold raiseFlags flagsToGrove; split <;> rfl
@[simp] theorem onHart_hart (s : State) (f : Hart → Hart) : (onHart s f).hart = f s.hart := rfl

/-! ### Fields of the acting hart -/
@[simp] theorem Hart.wx_v (h : Hart) (r : Reg) (v : Dword) : (h.wx r v).v = h.v :=
  by unfold Hart.wx; split_ifs <;> rfl
@[simp] theorem Hart.wx_m (h : Hart) (r : Reg) (v : Dword) : (h.wx r v).m = h.m :=
  by unfold Hart.wx; split_ifs <;> rfl
@[simp] theorem Hart.wx_b (h : Hart) (r : Reg) (v : Dword) : (h.wx r v).b = h.b :=
  by unfold Hart.wx; split_ifs <;> rfl
@[simp] theorem Hart.wx_q (h : Hart) (r : Reg) (v : Dword) : (h.wx r v).q = h.q :=
  by unfold Hart.wx; split_ifs <;> rfl
@[simp] theorem Hart.wx_z (h : Hart) (r : Reg) (v : Dword) : (h.wx r v).z = h.z :=
  by unfold Hart.wx; split_ifs <;> rfl
@[simp] theorem Hart.wx_pc (h : Hart) (r : Reg) (v : Dword) : (h.wx r v).pc = h.pc :=
  by unfold Hart.wx; split_ifs <;> rfl
@[simp] theorem Hart.wx_mode (h : Hart) (r : Reg) (v : Dword) : (h.wx r v).mode = h.mode :=
  by unfold Hart.wx; split_ifs <;> rfl
@[simp] theorem Hart.wx_run (h : Hart) (r : Reg) (v : Dword) : (h.wx r v).run = h.run :=
  by unfold Hart.wx; split_ifs <;> rfl
@[simp] theorem Hart.wx_frm (h : Hart) (r : Reg) (v : Dword) : (h.wx r v).frm = h.frm :=
  by unfold Hart.wx; split_ifs <;> rfl
@[simp] theorem Hart.wx_fflags (h : Hart) (r : Reg) (v : Dword) : (h.wx r v).fflags = h.fflags :=
  by unfold Hart.wx; split_ifs <;> rfl
@[simp] theorem Hart.wx_vt (h : Hart) (r : Reg) (v : Dword) : (h.wx r v).vt = h.vt :=
  by unfold Hart.wx; split_ifs <;> rfl
@[simp] theorem Hart.wx_hla (h : Hart) (r : Reg) (v : Dword) : (h.wx r v).hla = h.hla :=
  by unfold Hart.wx; split_ifs <;> rfl
@[simp] theorem Hart.wx_rwc (h : Hart) (r : Reg) (v : Dword) : (h.wx r v).rwc = h.rwc :=
  by unfold Hart.wx; split_ifs <;> rfl
@[simp] theorem Hart.wx_uivec (h : Hart) (r : Reg) (v : Dword) : (h.wx r v).uivec = h.uivec :=
  by unfold Hart.wx; split_ifs <;> rfl
@[simp] theorem Hart.wx_uien (h : Hart) (r : Reg) (v : Dword) : (h.wx r v).uien = h.uien :=
  by unfold Hart.wx; split_ifs <;> rfl
@[simp] theorem Hart.wx_uicause (h : Hart) (r : Reg) (v : Dword) : (h.wx r v).uicause = h.uicause :=
  by unfold Hart.wx; split_ifs <;> rfl
@[simp] theorem Hart.wx_uiepc (h : Hart) (r : Reg) (v : Dword) : (h.wx r v).uiepc = h.uiepc :=
  by unfold Hart.wx; split_ifs <;> rfl
@[simp] theorem Hart.wx_uih (h : Hart) (r : Reg) (v : Dword) : (h.wx r v).uih = h.uih :=
  by unfold Hart.wx; split_ifs <;> rfl
@[simp] theorem Hart.wx_ovfptr (h : Hart) (r : Reg) (v : Dword) : (h.wx r v).ovfptr = h.ovfptr :=
  by unfold Hart.wx; split_ifs <;> rfl
@[simp] theorem Hart.wx_spillbase (h : Hart) (r : Reg) (v : Dword) : (h.wx r v).spillbase = h.spillbase :=
  by unfold Hart.wx; split_ifs <;> rfl
@[simp] theorem Hart.wx_spillsize (h : Hart) (r : Reg) (v : Dword) : (h.wx r v).spillsize = h.spillsize :=
  by unfold Hart.wx; split_ifs <;> rfl
@[simp] theorem Hart.wx_s1base (h : Hart) (r : Reg) (v : Dword) : (h.wx r v).s1base = h.s1base :=
  by unfold Hart.wx; split_ifs <;> rfl
@[simp] theorem Hart.wx_sup (h : Hart) (r : Reg) (v : Dword) : (h.wx r v).sup = h.sup :=
  by unfold Hart.wx; split_ifs <;> rfl
@[simp] theorem Hart.wx_mach (h : Hart) (r : Reg) (v : Dword) : (h.wx r v).mach = h.mach :=
  by unfold Hart.wx; split_ifs <;> rfl
@[simp] theorem Hart.wx_sien (h : Hart) (r : Reg) (v : Dword) : (h.wx r v).sien = h.sien :=
  by unfold Hart.wx; split_ifs <;> rfl
@[simp] theorem Hart.wx_soft (h : Hart) (r : Reg) (v : Dword) : (h.wx r v).soft = h.soft :=
  by unfold Hart.wx; split_ifs <;> rfl
@[simp] theorem Hart.wx_stimecmp (h : Hart) (r : Reg) (v : Dword) : (h.wx r v).stimecmp = h.stimecmp :=
  by unfold Hart.wx; split_ifs <;> rfl
@[simp] theorem Hart.wx_frame (h : Hart) (r : Reg) (v : Dword) : (h.wx r v).frame = h.frame :=
  by unfold Hart.wx; split_ifs <;> rfl
@[simp] theorem Hart.wx_iword (h : Hart) (r : Reg) (v : Dword) : (h.wx r v).iword = h.iword :=
  by unfold Hart.wx; split_ifs <;> rfl
@[simp] theorem Hart.wx_pend (h : Hart) (r : Reg) (v : Dword) : (h.wx r v).pend = h.pend :=
  by unfold Hart.wx; split_ifs <;> rfl
@[simp] theorem Hart.wx_issued (h : Hart) (r : Reg) (v : Dword) : (h.wx r v).issued = h.issued :=
  by unfold Hart.wx; split_ifs <;> rfl
@[simp] theorem Hart.wx_hist (h : Hart) (r : Reg) (v : Dword) : (h.wx r v).hist = h.hist :=
  by unfold Hart.wx; split_ifs <;> rfl
@[simp] theorem Hart.wx_replay (h : Hart) (r : Reg) (v : Dword) : (h.wx r v).replay = h.replay :=
  by unfold Hart.wx; split_ifs <;> rfl
@[simp] theorem Hart.wx_replayEnd (h : Hart) (r : Reg) (v : Dword) : (h.wx r v).replayEnd = h.replayEnd :=
  by unfold Hart.wx; split_ifs <;> rfl
@[simp] theorem Hart.wx_replayWord (h : Hart) (r : Reg) (v : Dword) : (h.wx r v).replayWord = h.replayWord :=
  by unfold Hart.wx; split_ifs <;> rfl
@[simp] theorem Hart.wx_near (h : Hart) (r : Reg) (v : Dword) : (h.wx r v).near = h.near :=
  by unfold Hart.wx; split_ifs <;> rfl
@[simp] theorem Hart.wx_fetch (h : Hart) (r : Reg) (v : Dword) : (h.wx r v).fetch = h.fetch :=
  by unfold Hart.wx; split_ifs <;> rfl
@[simp] theorem Hart.wx_keepBlock (h : Hart) (r : Reg) (v : Dword) : (h.wx r v).keepBlock = h.keepBlock :=
  by unfold Hart.wx; split_ifs <;> rfl
@[simp] theorem Hart.wx_bAt (h : Hart) (r : Reg) (v : Dword) : (h.wx r v).bAt = h.bAt :=
  by unfold Hart.wx; split_ifs <;> rfl
@[simp] theorem Hart.wx_redirect (h : Hart) (r : Reg) (v : Dword) : (h.wx r v).redirect = h.redirect :=
  by unfold Hart.wx; split_ifs <;> rfl
@[simp] theorem Hart.wx_ibuf (h : Hart) (r : Reg) (v : Dword) : (h.wx r v).ibuf = h.ibuf :=
  by unfold Hart.wx; split_ifs <;> rfl
@[simp] theorem Hart.wx_alignHold (h : Hart) (r : Reg) (v : Dword) : (h.wx r v).alignHold = h.alignHold :=
  by unfold Hart.wx; split_ifs <;> rfl
@[simp] theorem Hart.wx_lease (h : Hart) (r : Reg) (v : Dword) : (h.wx r v).lease = h.lease :=
  by unfold Hart.wx; split_ifs <;> rfl
@[simp] theorem Hart.wx_parked (h : Hart) (r : Reg) (v : Dword) : (h.wx r v).parked = h.parked :=
  by unfold Hart.wx; split_ifs <;> rfl
@[simp] theorem Hart.wx_chans (h : Hart) (r : Reg) (v : Dword) : (h.wx r v).chans = h.chans :=
  by unfold Hart.wx; split_ifs <;> rfl
@[simp] theorem Hart.wx_macRem (h : Hart) (r : Reg) (v : Dword) : (h.wx r v).macRem = h.macRem :=
  by unfold Hart.wx; split_ifs <;> rfl
@[simp] theorem Hart.wx_task (h : Hart) (r : Reg) (v : Dword) : (h.wx r v).task = h.task :=
  by unfold Hart.wx; split_ifs <;> rfl
@[simp] theorem Hart.wx_launch (h : Hart) (r : Reg) (v : Dword) : (h.wx r v).launch = h.launch :=
  by unfold Hart.wx; split_ifs <;> rfl
@[simp] theorem Hart.wx_lidx (h : Hart) (r : Reg) (v : Dword) : (h.wx r v).lidx = h.lidx :=
  by unfold Hart.wx; split_ifs <;> rfl
@[simp] theorem Hart.wx_initRun (h : Hart) (r : Reg) (v : Dword) : (h.wx r v).initRun = h.initRun :=
  by unfold Hart.wx; split_ifs <;> rfl
@[simp] theorem Hart.wx_codeBase (h : Hart) (r : Reg) (v : Dword) : (h.wx r v).codeBase = h.codeBase :=
  by unfold Hart.wx; split_ifs <;> rfl
@[simp] theorem Hart.wx_codeSize (h : Hart) (r : Reg) (v : Dword) : (h.wx r v).codeSize = h.codeSize :=
  by unfold Hart.wx; split_ifs <;> rfl
@[simp] theorem Hart.wx_events (h : Hart) (r : Reg) (v : Dword) : (h.wx r v).events = h.events :=
  by unfold Hart.wx; split_ifs <;> rfl
@[simp] theorem Hart.wx_commandFaults (h : Hart) (r : Reg) (v : Dword) : (h.wx r v).commandFaults = h.commandFaults :=
  by unfold Hart.wx; split_ifs <;> rfl
@[simp] theorem Hart.wx_fromEvents (h : Hart) (r : Reg) (v : Dword) : (h.wx r v).fromEvents = h.fromEvents :=
  by unfold Hart.wx; split_ifs <;> rfl
@[simp] theorem Hart.wx_cancelled (h : Hart) (r : Reg) (v : Dword) : (h.wx r v).cancelled = h.cancelled :=
  by unfold Hart.wx; split_ifs <;> rfl
@[simp] theorem Hart.wx_pendingTrap (h : Hart) (r : Reg) (v : Dword) : (h.wx r v).pendingTrap = h.pendingTrap :=
  by unfold Hart.wx; split_ifs <;> rfl
@[simp] theorem Hart.wx_waitSince (h : Hart) (r : Reg) (v : Dword) : (h.wx r v).waitSince = h.waitSince :=
  by unfold Hart.wx; split_ifs <;> rfl
@[simp] theorem Hart.wx_waitStamp (h : Hart) (r : Reg) (v : Dword) : (h.wx r v).waitStamp = h.waitStamp :=
  by unfold Hart.wx; split_ifs <;> rfl
@[simp] theorem Hart.wx_sendWait (h : Hart) (r : Reg) (v : Dword) : (h.wx r v).sendWait = h.sendWait :=
  by unfold Hart.wx; split_ifs <;> rfl
@[simp] theorem Hart.wx_inv (h : Hart) (r : Reg) (v : Dword) : (h.wx r v).inv = h.inv :=
  by unfold Hart.wx; split_ifs <;> rfl
@[simp] theorem Hart.wx_waitRoute (h : Hart) (r : Reg) (v : Dword) : (h.wx r v).waitRoute = h.waitRoute :=
  by unfold Hart.wx; split_ifs <;> rfl
@[simp] theorem Hart.wx_stall (h : Hart) (r : Reg) (v : Dword) : (h.wx r v).stall = h.stall :=
  by unfold Hart.wx; split_ifs <;> rfl
@[simp] theorem Hart.wx_reserved (h : Hart) (r : Reg) (v : Dword) : (h.wx r v).reserved = h.reserved :=
  by unfold Hart.wx; split_ifs <;> rfl
@[simp] theorem Hart.wx_since (h : Hart) (r : Reg) (v : Dword) : (h.wx r v).since = h.since :=
  by unfold Hart.wx; split_ifs <;> rfl
@[simp] theorem Hart.wx_slice (h : Hart) (r : Reg) (v : Dword) : (h.wx r v).slice = h.slice :=
  by unfold Hart.wx; split_ifs <;> rfl
@[simp] theorem Hart.wx_tasks (h : Hart) (r : Reg) (v : Dword) : (h.wx r v).tasks = h.tasks :=
  by unfold Hart.wx; split_ifs <;> rfl
@[simp] theorem Hart.wx_era (h : Hart) (r : Reg) (v : Dword) : (h.wx r v).era = h.era :=
  by unfold Hart.wx; split_ifs <;> rfl
@[simp] theorem Hart.wx_tickMark (h : Hart) (r : Reg) (v : Dword) : (h.wx r v).tickMark = h.tickMark :=
  by unfold Hart.wx; split_ifs <;> rfl
@[simp] theorem Hart.wx_perf (h : Hart) (r : Reg) (v : Dword) : (h.wx r v).perf = h.perf :=
  by unfold Hart.wx; split_ifs <;> rfl
@[simp] theorem Hart.wv_x (h : Hart) (r : Reg) (v : VReg) : (h.wv r v).x = h.x := rfl
@[simp] theorem Hart.wv_shadow (h : Hart) (r : Reg) (v : VReg) : (h.wv r v).shadow = h.shadow := rfl
@[simp] theorem Hart.wv_m (h : Hart) (r : Reg) (v : VReg) : (h.wv r v).m = h.m := rfl
@[simp] theorem Hart.wv_b (h : Hart) (r : Reg) (v : VReg) : (h.wv r v).b = h.b := rfl
@[simp] theorem Hart.wv_q (h : Hart) (r : Reg) (v : VReg) : (h.wv r v).q = h.q := rfl
@[simp] theorem Hart.wv_z (h : Hart) (r : Reg) (v : VReg) : (h.wv r v).z = h.z := rfl
@[simp] theorem Hart.wv_pc (h : Hart) (r : Reg) (v : VReg) : (h.wv r v).pc = h.pc := rfl
@[simp] theorem Hart.wv_mode (h : Hart) (r : Reg) (v : VReg) : (h.wv r v).mode = h.mode := rfl
@[simp] theorem Hart.wv_run (h : Hart) (r : Reg) (v : VReg) : (h.wv r v).run = h.run := rfl
@[simp] theorem Hart.wv_frm (h : Hart) (r : Reg) (v : VReg) : (h.wv r v).frm = h.frm := rfl
@[simp] theorem Hart.wv_fflags (h : Hart) (r : Reg) (v : VReg) : (h.wv r v).fflags = h.fflags := rfl
@[simp] theorem Hart.wv_vt (h : Hart) (r : Reg) (v : VReg) : (h.wv r v).vt = h.vt := rfl
@[simp] theorem Hart.wv_hla (h : Hart) (r : Reg) (v : VReg) : (h.wv r v).hla = h.hla := rfl
@[simp] theorem Hart.wv_rwc (h : Hart) (r : Reg) (v : VReg) : (h.wv r v).rwc = h.rwc := rfl
@[simp] theorem Hart.wv_uivec (h : Hart) (r : Reg) (v : VReg) : (h.wv r v).uivec = h.uivec := rfl
@[simp] theorem Hart.wv_uien (h : Hart) (r : Reg) (v : VReg) : (h.wv r v).uien = h.uien := rfl
@[simp] theorem Hart.wv_uicause (h : Hart) (r : Reg) (v : VReg) : (h.wv r v).uicause = h.uicause := rfl
@[simp] theorem Hart.wv_uiepc (h : Hart) (r : Reg) (v : VReg) : (h.wv r v).uiepc = h.uiepc := rfl
@[simp] theorem Hart.wv_uih (h : Hart) (r : Reg) (v : VReg) : (h.wv r v).uih = h.uih := rfl
@[simp] theorem Hart.wv_ovfptr (h : Hart) (r : Reg) (v : VReg) : (h.wv r v).ovfptr = h.ovfptr := rfl
@[simp] theorem Hart.wv_spillbase (h : Hart) (r : Reg) (v : VReg) : (h.wv r v).spillbase = h.spillbase := rfl
@[simp] theorem Hart.wv_spillsize (h : Hart) (r : Reg) (v : VReg) : (h.wv r v).spillsize = h.spillsize := rfl
@[simp] theorem Hart.wv_s1base (h : Hart) (r : Reg) (v : VReg) : (h.wv r v).s1base = h.s1base := rfl
@[simp] theorem Hart.wv_sup (h : Hart) (r : Reg) (v : VReg) : (h.wv r v).sup = h.sup := rfl
@[simp] theorem Hart.wv_mach (h : Hart) (r : Reg) (v : VReg) : (h.wv r v).mach = h.mach := rfl
@[simp] theorem Hart.wv_sien (h : Hart) (r : Reg) (v : VReg) : (h.wv r v).sien = h.sien := rfl
@[simp] theorem Hart.wv_soft (h : Hart) (r : Reg) (v : VReg) : (h.wv r v).soft = h.soft := rfl
@[simp] theorem Hart.wv_stimecmp (h : Hart) (r : Reg) (v : VReg) : (h.wv r v).stimecmp = h.stimecmp := rfl
@[simp] theorem Hart.wv_frame (h : Hart) (r : Reg) (v : VReg) : (h.wv r v).frame = h.frame := rfl
@[simp] theorem Hart.wv_iword (h : Hart) (r : Reg) (v : VReg) : (h.wv r v).iword = h.iword := rfl
@[simp] theorem Hart.wv_pend (h : Hart) (r : Reg) (v : VReg) : (h.wv r v).pend = h.pend := rfl
@[simp] theorem Hart.wv_issued (h : Hart) (r : Reg) (v : VReg) : (h.wv r v).issued = h.issued := rfl
@[simp] theorem Hart.wv_hist (h : Hart) (r : Reg) (v : VReg) : (h.wv r v).hist = h.hist := rfl
@[simp] theorem Hart.wv_replay (h : Hart) (r : Reg) (v : VReg) : (h.wv r v).replay = h.replay := rfl
@[simp] theorem Hart.wv_replayEnd (h : Hart) (r : Reg) (v : VReg) : (h.wv r v).replayEnd = h.replayEnd := rfl
@[simp] theorem Hart.wv_replayWord (h : Hart) (r : Reg) (v : VReg) : (h.wv r v).replayWord = h.replayWord := rfl
@[simp] theorem Hart.wv_near (h : Hart) (r : Reg) (v : VReg) : (h.wv r v).near = h.near := rfl
@[simp] theorem Hart.wv_fetch (h : Hart) (r : Reg) (v : VReg) : (h.wv r v).fetch = h.fetch := rfl
@[simp] theorem Hart.wv_keepBlock (h : Hart) (r : Reg) (v : VReg) : (h.wv r v).keepBlock = h.keepBlock := rfl
@[simp] theorem Hart.wb_bAt (h : Hart) (r : BitVec 2) (v : Dword) :
    (h.wb r v).bAt = h.bAt.setIfInBounds r.toNat (h.issued + 1) := rfl
@[simp] theorem Hart.wv_bAt (h : Hart) (r : Reg) (v : VReg) : (h.wv r v).bAt = h.bAt := rfl
@[simp] theorem Hart.wv_redirect (h : Hart) (r : Reg) (v : VReg) : (h.wv r v).redirect = h.redirect := rfl
@[simp] theorem Hart.wv_ibuf (h : Hart) (r : Reg) (v : VReg) : (h.wv r v).ibuf = h.ibuf := rfl
@[simp] theorem Hart.wv_alignHold (h : Hart) (r : Reg) (v : VReg) : (h.wv r v).alignHold = h.alignHold := rfl
@[simp] theorem Hart.wv_lease (h : Hart) (r : Reg) (v : VReg) : (h.wv r v).lease = h.lease := rfl
@[simp] theorem Hart.wv_parked (h : Hart) (r : Reg) (v : VReg) : (h.wv r v).parked = h.parked := rfl
@[simp] theorem Hart.wv_chans (h : Hart) (r : Reg) (v : VReg) : (h.wv r v).chans = h.chans := rfl
@[simp] theorem Hart.wv_macRem (h : Hart) (r : Reg) (v : VReg) : (h.wv r v).macRem = h.macRem := rfl
@[simp] theorem Hart.wv_task (h : Hart) (r : Reg) (v : VReg) : (h.wv r v).task = h.task := rfl
@[simp] theorem Hart.wv_launch (h : Hart) (r : Reg) (v : VReg) : (h.wv r v).launch = h.launch := rfl
@[simp] theorem Hart.wv_lidx (h : Hart) (r : Reg) (v : VReg) : (h.wv r v).lidx = h.lidx := rfl
@[simp] theorem Hart.wv_initRun (h : Hart) (r : Reg) (v : VReg) : (h.wv r v).initRun = h.initRun := rfl
@[simp] theorem Hart.wv_codeBase (h : Hart) (r : Reg) (v : VReg) : (h.wv r v).codeBase = h.codeBase := rfl
@[simp] theorem Hart.wv_codeSize (h : Hart) (r : Reg) (v : VReg) : (h.wv r v).codeSize = h.codeSize := rfl
@[simp] theorem Hart.wv_events (h : Hart) (r : Reg) (v : VReg) : (h.wv r v).events = h.events := rfl
@[simp] theorem Hart.wv_commandFaults (h : Hart) (r : Reg) (v : VReg) : (h.wv r v).commandFaults = h.commandFaults :=
  rfl
@[simp] theorem Hart.wv_fromEvents (h : Hart) (r : Reg) (v : VReg) : (h.wv r v).fromEvents = h.fromEvents := rfl
@[simp] theorem Hart.wv_cancelled (h : Hart) (r : Reg) (v : VReg) : (h.wv r v).cancelled = h.cancelled := rfl
@[simp] theorem Hart.wv_pendingTrap (h : Hart) (r : Reg) (v : VReg) : (h.wv r v).pendingTrap = h.pendingTrap := rfl
@[simp] theorem Hart.wv_waitSince (h : Hart) (r : Reg) (v : VReg) : (h.wv r v).waitSince = h.waitSince := rfl
@[simp] theorem Hart.wv_waitStamp (h : Hart) (r : Reg) (v : VReg) : (h.wv r v).waitStamp = h.waitStamp := rfl
@[simp] theorem Hart.wv_sendWait (h : Hart) (r : Reg) (v : VReg) : (h.wv r v).sendWait = h.sendWait := rfl
@[simp] theorem Hart.wv_inv (h : Hart) (r : Reg) (v : VReg) : (h.wv r v).inv = h.inv := rfl
@[simp] theorem Hart.wv_waitRoute (h : Hart) (r : Reg) (v : VReg) : (h.wv r v).waitRoute = h.waitRoute := rfl
@[simp] theorem Hart.wv_stall (h : Hart) (r : Reg) (v : VReg) : (h.wv r v).stall = h.stall := rfl
@[simp] theorem Hart.wv_reserved (h : Hart) (r : Reg) (v : VReg) : (h.wv r v).reserved = h.reserved := rfl
@[simp] theorem Hart.wv_since (h : Hart) (r : Reg) (v : VReg) : (h.wv r v).since = h.since := rfl
@[simp] theorem Hart.wv_slice (h : Hart) (r : Reg) (v : VReg) : (h.wv r v).slice = h.slice := rfl
@[simp] theorem Hart.wv_tasks (h : Hart) (r : Reg) (v : VReg) : (h.wv r v).tasks = h.tasks := rfl
@[simp] theorem Hart.wv_era (h : Hart) (r : Reg) (v : VReg) : (h.wv r v).era = h.era := rfl
@[simp] theorem Hart.wv_tickMark (h : Hart) (r : Reg) (v : VReg) : (h.wv r v).tickMark = h.tickMark := rfl
@[simp] theorem Hart.wv_perf (h : Hart) (r : Reg) (v : VReg) : (h.wv r v).perf = h.perf := rfl
@[simp] theorem Hart.wm_x (h : Hart) (r : BitVec 3) (v : Dword) : (h.wm r v).x = h.x := rfl
@[simp] theorem Hart.wm_shadow (h : Hart) (r : BitVec 3) (v : Dword) : (h.wm r v).shadow = h.shadow := rfl
@[simp] theorem Hart.wm_v (h : Hart) (r : BitVec 3) (v : Dword) : (h.wm r v).v = h.v := rfl
@[simp] theorem Hart.wm_b (h : Hart) (r : BitVec 3) (v : Dword) : (h.wm r v).b = h.b := rfl
@[simp] theorem Hart.wm_q (h : Hart) (r : BitVec 3) (v : Dword) : (h.wm r v).q = h.q := rfl
@[simp] theorem Hart.wm_z (h : Hart) (r : BitVec 3) (v : Dword) : (h.wm r v).z = h.z := rfl
@[simp] theorem Hart.wm_pc (h : Hart) (r : BitVec 3) (v : Dword) : (h.wm r v).pc = h.pc := rfl
@[simp] theorem Hart.wm_mode (h : Hart) (r : BitVec 3) (v : Dword) : (h.wm r v).mode = h.mode := rfl
@[simp] theorem Hart.wm_run (h : Hart) (r : BitVec 3) (v : Dword) : (h.wm r v).run = h.run := rfl
@[simp] theorem Hart.wm_frm (h : Hart) (r : BitVec 3) (v : Dword) : (h.wm r v).frm = h.frm := rfl
@[simp] theorem Hart.wm_fflags (h : Hart) (r : BitVec 3) (v : Dword) : (h.wm r v).fflags = h.fflags := rfl
@[simp] theorem Hart.wm_vt (h : Hart) (r : BitVec 3) (v : Dword) : (h.wm r v).vt = h.vt := rfl
@[simp] theorem Hart.wm_hla (h : Hart) (r : BitVec 3) (v : Dword) : (h.wm r v).hla = h.hla := rfl
@[simp] theorem Hart.wm_rwc (h : Hart) (r : BitVec 3) (v : Dword) : (h.wm r v).rwc = h.rwc := rfl
@[simp] theorem Hart.wm_uivec (h : Hart) (r : BitVec 3) (v : Dword) : (h.wm r v).uivec = h.uivec := rfl
@[simp] theorem Hart.wm_uien (h : Hart) (r : BitVec 3) (v : Dword) : (h.wm r v).uien = h.uien := rfl
@[simp] theorem Hart.wm_uicause (h : Hart) (r : BitVec 3) (v : Dword) : (h.wm r v).uicause = h.uicause := rfl
@[simp] theorem Hart.wm_uiepc (h : Hart) (r : BitVec 3) (v : Dword) : (h.wm r v).uiepc = h.uiepc := rfl
@[simp] theorem Hart.wm_uih (h : Hart) (r : BitVec 3) (v : Dword) : (h.wm r v).uih = h.uih := rfl
@[simp] theorem Hart.wm_ovfptr (h : Hart) (r : BitVec 3) (v : Dword) : (h.wm r v).ovfptr = h.ovfptr := rfl
@[simp] theorem Hart.wm_spillbase (h : Hart) (r : BitVec 3) (v : Dword) : (h.wm r v).spillbase = h.spillbase := rfl
@[simp] theorem Hart.wm_spillsize (h : Hart) (r : BitVec 3) (v : Dword) : (h.wm r v).spillsize = h.spillsize := rfl
@[simp] theorem Hart.wm_s1base (h : Hart) (r : BitVec 3) (v : Dword) : (h.wm r v).s1base = h.s1base := rfl
@[simp] theorem Hart.wm_sup (h : Hart) (r : BitVec 3) (v : Dword) : (h.wm r v).sup = h.sup := rfl
@[simp] theorem Hart.wm_mach (h : Hart) (r : BitVec 3) (v : Dword) : (h.wm r v).mach = h.mach := rfl
@[simp] theorem Hart.wm_sien (h : Hart) (r : BitVec 3) (v : Dword) : (h.wm r v).sien = h.sien := rfl
@[simp] theorem Hart.wm_soft (h : Hart) (r : BitVec 3) (v : Dword) : (h.wm r v).soft = h.soft := rfl
@[simp] theorem Hart.wm_stimecmp (h : Hart) (r : BitVec 3) (v : Dword) : (h.wm r v).stimecmp = h.stimecmp := rfl
@[simp] theorem Hart.wm_frame (h : Hart) (r : BitVec 3) (v : Dword) : (h.wm r v).frame = h.frame := rfl
@[simp] theorem Hart.wm_iword (h : Hart) (r : BitVec 3) (v : Dword) : (h.wm r v).iword = h.iword := rfl
@[simp] theorem Hart.wm_pend (h : Hart) (r : BitVec 3) (v : Dword) : (h.wm r v).pend = h.pend := rfl
@[simp] theorem Hart.wm_issued (h : Hart) (r : BitVec 3) (v : Dword) : (h.wm r v).issued = h.issued := rfl
@[simp] theorem Hart.wm_hist (h : Hart) (r : BitVec 3) (v : Dword) : (h.wm r v).hist = h.hist := rfl
@[simp] theorem Hart.wm_replay (h : Hart) (r : BitVec 3) (v : Dword) : (h.wm r v).replay = h.replay := rfl
@[simp] theorem Hart.wm_replayEnd (h : Hart) (r : BitVec 3) (v : Dword) : (h.wm r v).replayEnd = h.replayEnd := rfl
@[simp] theorem Hart.wm_replayWord (h : Hart) (r : BitVec 3) (v : Dword) : (h.wm r v).replayWord = h.replayWord := rfl
@[simp] theorem Hart.wm_near (h : Hart) (r : BitVec 3) (v : Dword) : (h.wm r v).near = h.near := rfl
@[simp] theorem Hart.wm_fetch (h : Hart) (r : BitVec 3) (v : Dword) : (h.wm r v).fetch = h.fetch := rfl
@[simp] theorem Hart.wm_keepBlock (h : Hart) (r : BitVec 3) (v : Dword) : (h.wm r v).keepBlock = h.keepBlock := rfl
@[simp] theorem Hart.wm_bAt (h : Hart) (r : BitVec 3) (v : Dword) : (h.wm r v).bAt = h.bAt := rfl
@[simp] theorem Hart.wm_redirect (h : Hart) (r : BitVec 3) (v : Dword) : (h.wm r v).redirect = h.redirect := rfl
@[simp] theorem Hart.wm_ibuf (h : Hart) (r : BitVec 3) (v : Dword) : (h.wm r v).ibuf = h.ibuf := rfl
@[simp] theorem Hart.wm_alignHold (h : Hart) (r : BitVec 3) (v : Dword) : (h.wm r v).alignHold = h.alignHold := rfl
@[simp] theorem Hart.wm_lease (h : Hart) (r : BitVec 3) (v : Dword) : (h.wm r v).lease = h.lease := rfl
@[simp] theorem Hart.wm_parked (h : Hart) (r : BitVec 3) (v : Dword) : (h.wm r v).parked = h.parked := rfl
@[simp] theorem Hart.wm_chans (h : Hart) (r : BitVec 3) (v : Dword) : (h.wm r v).chans = h.chans := rfl
@[simp] theorem Hart.wm_macRem (h : Hart) (r : BitVec 3) (v : Dword) : (h.wm r v).macRem = h.macRem := rfl
@[simp] theorem Hart.wm_task (h : Hart) (r : BitVec 3) (v : Dword) : (h.wm r v).task = h.task := rfl
@[simp] theorem Hart.wm_launch (h : Hart) (r : BitVec 3) (v : Dword) : (h.wm r v).launch = h.launch := rfl
@[simp] theorem Hart.wm_lidx (h : Hart) (r : BitVec 3) (v : Dword) : (h.wm r v).lidx = h.lidx := rfl
@[simp] theorem Hart.wm_initRun (h : Hart) (r : BitVec 3) (v : Dword) : (h.wm r v).initRun = h.initRun := rfl
@[simp] theorem Hart.wm_codeBase (h : Hart) (r : BitVec 3) (v : Dword) : (h.wm r v).codeBase = h.codeBase := rfl
@[simp] theorem Hart.wm_codeSize (h : Hart) (r : BitVec 3) (v : Dword) : (h.wm r v).codeSize = h.codeSize := rfl
@[simp] theorem Hart.wm_events (h : Hart) (r : BitVec 3) (v : Dword) : (h.wm r v).events = h.events := rfl
@[simp] theorem Hart.wm_commandFaults (h : Hart) (r : BitVec 3) (v : Dword) : (h.wm r v).commandFaults = h.commandFaults :=
  rfl
@[simp] theorem Hart.wm_fromEvents (h : Hart) (r : BitVec 3) (v : Dword) : (h.wm r v).fromEvents = h.fromEvents := rfl
@[simp] theorem Hart.wm_cancelled (h : Hart) (r : BitVec 3) (v : Dword) : (h.wm r v).cancelled = h.cancelled := rfl
@[simp] theorem Hart.wm_pendingTrap (h : Hart) (r : BitVec 3) (v : Dword) : (h.wm r v).pendingTrap = h.pendingTrap :=
  rfl
@[simp] theorem Hart.wm_waitSince (h : Hart) (r : BitVec 3) (v : Dword) : (h.wm r v).waitSince = h.waitSince := rfl
@[simp] theorem Hart.wm_waitStamp (h : Hart) (r : BitVec 3) (v : Dword) : (h.wm r v).waitStamp = h.waitStamp := rfl
@[simp] theorem Hart.wm_sendWait (h : Hart) (r : BitVec 3) (v : Dword) : (h.wm r v).sendWait = h.sendWait := rfl
@[simp] theorem Hart.wm_inv (h : Hart) (r : BitVec 3) (v : Dword) : (h.wm r v).inv = h.inv := rfl
@[simp] theorem Hart.wm_waitRoute (h : Hart) (r : BitVec 3) (v : Dword) : (h.wm r v).waitRoute = h.waitRoute := rfl
@[simp] theorem Hart.wm_stall (h : Hart) (r : BitVec 3) (v : Dword) : (h.wm r v).stall = h.stall := rfl
@[simp] theorem Hart.wm_reserved (h : Hart) (r : BitVec 3) (v : Dword) : (h.wm r v).reserved = h.reserved := rfl
@[simp] theorem Hart.wm_since (h : Hart) (r : BitVec 3) (v : Dword) : (h.wm r v).since = h.since := rfl
@[simp] theorem Hart.wm_slice (h : Hart) (r : BitVec 3) (v : Dword) : (h.wm r v).slice = h.slice := rfl
@[simp] theorem Hart.wm_tasks (h : Hart) (r : BitVec 3) (v : Dword) : (h.wm r v).tasks = h.tasks := rfl
@[simp] theorem Hart.wm_era (h : Hart) (r : BitVec 3) (v : Dword) : (h.wm r v).era = h.era := rfl
@[simp] theorem Hart.wm_tickMark (h : Hart) (r : BitVec 3) (v : Dword) : (h.wm r v).tickMark = h.tickMark := rfl
@[simp] theorem Hart.wm_perf (h : Hart) (r : BitVec 3) (v : Dword) : (h.wm r v).perf = h.perf := rfl
@[simp] theorem Hart.wb_x (h : Hart) (r : BitVec 2) (v : Dword) : (h.wb r v).x = h.x := rfl
@[simp] theorem Hart.wb_shadow (h : Hart) (r : BitVec 2) (v : Dword) : (h.wb r v).shadow = h.shadow := rfl
@[simp] theorem Hart.wb_v (h : Hart) (r : BitVec 2) (v : Dword) : (h.wb r v).v = h.v := rfl
@[simp] theorem Hart.wb_m (h : Hart) (r : BitVec 2) (v : Dword) : (h.wb r v).m = h.m := rfl
@[simp] theorem Hart.wb_q (h : Hart) (r : BitVec 2) (v : Dword) : (h.wb r v).q = h.q := rfl
@[simp] theorem Hart.wb_z (h : Hart) (r : BitVec 2) (v : Dword) : (h.wb r v).z = h.z := rfl
@[simp] theorem Hart.wb_pc (h : Hart) (r : BitVec 2) (v : Dword) : (h.wb r v).pc = h.pc := rfl
@[simp] theorem Hart.wb_mode (h : Hart) (r : BitVec 2) (v : Dword) : (h.wb r v).mode = h.mode := rfl
@[simp] theorem Hart.wb_run (h : Hart) (r : BitVec 2) (v : Dword) : (h.wb r v).run = h.run := rfl
@[simp] theorem Hart.wb_frm (h : Hart) (r : BitVec 2) (v : Dword) : (h.wb r v).frm = h.frm := rfl
@[simp] theorem Hart.wb_fflags (h : Hart) (r : BitVec 2) (v : Dword) : (h.wb r v).fflags = h.fflags := rfl
@[simp] theorem Hart.wb_vt (h : Hart) (r : BitVec 2) (v : Dword) : (h.wb r v).vt = h.vt := rfl
@[simp] theorem Hart.wb_hla (h : Hart) (r : BitVec 2) (v : Dword) : (h.wb r v).hla = h.hla := rfl
@[simp] theorem Hart.wb_rwc (h : Hart) (r : BitVec 2) (v : Dword) : (h.wb r v).rwc = h.rwc := rfl
@[simp] theorem Hart.wb_uivec (h : Hart) (r : BitVec 2) (v : Dword) : (h.wb r v).uivec = h.uivec := rfl
@[simp] theorem Hart.wb_uien (h : Hart) (r : BitVec 2) (v : Dword) : (h.wb r v).uien = h.uien := rfl
@[simp] theorem Hart.wb_uicause (h : Hart) (r : BitVec 2) (v : Dword) : (h.wb r v).uicause = h.uicause := rfl
@[simp] theorem Hart.wb_uiepc (h : Hart) (r : BitVec 2) (v : Dword) : (h.wb r v).uiepc = h.uiepc := rfl
@[simp] theorem Hart.wb_uih (h : Hart) (r : BitVec 2) (v : Dword) : (h.wb r v).uih = h.uih := rfl
@[simp] theorem Hart.wb_ovfptr (h : Hart) (r : BitVec 2) (v : Dword) : (h.wb r v).ovfptr = h.ovfptr := rfl
@[simp] theorem Hart.wb_spillbase (h : Hart) (r : BitVec 2) (v : Dword) : (h.wb r v).spillbase = h.spillbase := rfl
@[simp] theorem Hart.wb_spillsize (h : Hart) (r : BitVec 2) (v : Dword) : (h.wb r v).spillsize = h.spillsize := rfl
@[simp] theorem Hart.wb_s1base (h : Hart) (r : BitVec 2) (v : Dword) : (h.wb r v).s1base = h.s1base := rfl
@[simp] theorem Hart.wb_sup (h : Hart) (r : BitVec 2) (v : Dword) : (h.wb r v).sup = h.sup := rfl
@[simp] theorem Hart.wb_mach (h : Hart) (r : BitVec 2) (v : Dword) : (h.wb r v).mach = h.mach := rfl
@[simp] theorem Hart.wb_sien (h : Hart) (r : BitVec 2) (v : Dword) : (h.wb r v).sien = h.sien := rfl
@[simp] theorem Hart.wb_soft (h : Hart) (r : BitVec 2) (v : Dword) : (h.wb r v).soft = h.soft := rfl
@[simp] theorem Hart.wb_stimecmp (h : Hart) (r : BitVec 2) (v : Dword) : (h.wb r v).stimecmp = h.stimecmp := rfl
@[simp] theorem Hart.wb_frame (h : Hart) (r : BitVec 2) (v : Dword) : (h.wb r v).frame = h.frame := rfl
@[simp] theorem Hart.wb_iword (h : Hart) (r : BitVec 2) (v : Dword) : (h.wb r v).iword = h.iword := rfl
@[simp] theorem Hart.wb_pend (h : Hart) (r : BitVec 2) (v : Dword) : (h.wb r v).pend = h.pend := rfl
@[simp] theorem Hart.wb_issued (h : Hart) (r : BitVec 2) (v : Dword) : (h.wb r v).issued = h.issued := rfl
@[simp] theorem Hart.wb_hist (h : Hart) (r : BitVec 2) (v : Dword) : (h.wb r v).hist = h.hist := rfl
@[simp] theorem Hart.wb_replay (h : Hart) (r : BitVec 2) (v : Dword) : (h.wb r v).replay = h.replay := rfl
@[simp] theorem Hart.wb_replayEnd (h : Hart) (r : BitVec 2) (v : Dword) : (h.wb r v).replayEnd = h.replayEnd := rfl
@[simp] theorem Hart.wb_replayWord (h : Hart) (r : BitVec 2) (v : Dword) : (h.wb r v).replayWord = h.replayWord := rfl
@[simp] theorem Hart.wb_near (h : Hart) (r : BitVec 2) (v : Dword) : (h.wb r v).near = h.near := rfl
@[simp] theorem Hart.wb_fetch (h : Hart) (r : BitVec 2) (v : Dword) : (h.wb r v).fetch = h.fetch := rfl
@[simp] theorem Hart.wb_keepBlock (h : Hart) (r : BitVec 2) (v : Dword) : (h.wb r v).keepBlock = h.keepBlock := rfl
@[simp] theorem Hart.wb_redirect (h : Hart) (r : BitVec 2) (v : Dword) : (h.wb r v).redirect = h.redirect := rfl
@[simp] theorem Hart.wb_ibuf (h : Hart) (r : BitVec 2) (v : Dword) : (h.wb r v).ibuf = h.ibuf := rfl
@[simp] theorem Hart.wb_alignHold (h : Hart) (r : BitVec 2) (v : Dword) : (h.wb r v).alignHold = h.alignHold := rfl
@[simp] theorem Hart.wb_lease (h : Hart) (r : BitVec 2) (v : Dword) : (h.wb r v).lease = h.lease := rfl
@[simp] theorem Hart.wb_parked (h : Hart) (r : BitVec 2) (v : Dword) : (h.wb r v).parked = h.parked := rfl
@[simp] theorem Hart.wb_chans (h : Hart) (r : BitVec 2) (v : Dword) : (h.wb r v).chans = h.chans := rfl
@[simp] theorem Hart.wb_macRem (h : Hart) (r : BitVec 2) (v : Dword) : (h.wb r v).macRem = h.macRem := rfl
@[simp] theorem Hart.wb_task (h : Hart) (r : BitVec 2) (v : Dword) : (h.wb r v).task = h.task := rfl
@[simp] theorem Hart.wb_launch (h : Hart) (r : BitVec 2) (v : Dword) : (h.wb r v).launch = h.launch := rfl
@[simp] theorem Hart.wb_lidx (h : Hart) (r : BitVec 2) (v : Dword) : (h.wb r v).lidx = h.lidx := rfl
@[simp] theorem Hart.wb_initRun (h : Hart) (r : BitVec 2) (v : Dword) : (h.wb r v).initRun = h.initRun := rfl
@[simp] theorem Hart.wb_codeBase (h : Hart) (r : BitVec 2) (v : Dword) : (h.wb r v).codeBase = h.codeBase := rfl
@[simp] theorem Hart.wb_codeSize (h : Hart) (r : BitVec 2) (v : Dword) : (h.wb r v).codeSize = h.codeSize := rfl
@[simp] theorem Hart.wb_events (h : Hart) (r : BitVec 2) (v : Dword) : (h.wb r v).events = h.events := rfl
@[simp] theorem Hart.wb_commandFaults (h : Hart) (r : BitVec 2) (v : Dword) : (h.wb r v).commandFaults = h.commandFaults :=
  rfl
@[simp] theorem Hart.wb_fromEvents (h : Hart) (r : BitVec 2) (v : Dword) : (h.wb r v).fromEvents = h.fromEvents := rfl
@[simp] theorem Hart.wb_cancelled (h : Hart) (r : BitVec 2) (v : Dword) : (h.wb r v).cancelled = h.cancelled := rfl
@[simp] theorem Hart.wb_pendingTrap (h : Hart) (r : BitVec 2) (v : Dword) : (h.wb r v).pendingTrap = h.pendingTrap :=
  rfl
@[simp] theorem Hart.wb_waitSince (h : Hart) (r : BitVec 2) (v : Dword) : (h.wb r v).waitSince = h.waitSince := rfl
@[simp] theorem Hart.wb_waitStamp (h : Hart) (r : BitVec 2) (v : Dword) : (h.wb r v).waitStamp = h.waitStamp := rfl
@[simp] theorem Hart.wb_sendWait (h : Hart) (r : BitVec 2) (v : Dword) : (h.wb r v).sendWait = h.sendWait := rfl
@[simp] theorem Hart.wb_inv (h : Hart) (r : BitVec 2) (v : Dword) : (h.wb r v).inv = h.inv := rfl
@[simp] theorem Hart.wb_waitRoute (h : Hart) (r : BitVec 2) (v : Dword) : (h.wb r v).waitRoute = h.waitRoute := rfl
@[simp] theorem Hart.wb_stall (h : Hart) (r : BitVec 2) (v : Dword) : (h.wb r v).stall = h.stall := rfl
@[simp] theorem Hart.wb_reserved (h : Hart) (r : BitVec 2) (v : Dword) : (h.wb r v).reserved = h.reserved := rfl
@[simp] theorem Hart.wb_since (h : Hart) (r : BitVec 2) (v : Dword) : (h.wb r v).since = h.since := rfl
@[simp] theorem Hart.wb_slice (h : Hart) (r : BitVec 2) (v : Dword) : (h.wb r v).slice = h.slice := rfl
@[simp] theorem Hart.wb_tasks (h : Hart) (r : BitVec 2) (v : Dword) : (h.wb r v).tasks = h.tasks := rfl
@[simp] theorem Hart.wb_era (h : Hart) (r : BitVec 2) (v : Dword) : (h.wb r v).era = h.era := rfl
@[simp] theorem Hart.wb_tickMark (h : Hart) (r : BitVec 2) (v : Dword) : (h.wb r v).tickMark = h.tickMark := rfl
@[simp] theorem Hart.wb_perf (h : Hart) (r : BitVec 2) (v : Dword) : (h.wb r v).perf = h.perf := rfl
@[simp] theorem Hart.count_x (h : Hart) : (h.count).x = h.x := rfl
@[simp] theorem Hart.count_shadow (h : Hart) : (h.count).shadow = h.shadow := rfl
@[simp] theorem Hart.count_v (h : Hart) : (h.count).v = h.v := rfl
@[simp] theorem Hart.count_m (h : Hart) : (h.count).m = h.m := rfl
@[simp] theorem Hart.count_b (h : Hart) : (h.count).b = h.b := rfl
@[simp] theorem Hart.count_q (h : Hart) : (h.count).q = h.q := rfl
@[simp] theorem Hart.count_z (h : Hart) : (h.count).z = h.z := rfl
@[simp] theorem Hart.count_pc (h : Hart) : (h.count).pc = h.pc := rfl
@[simp] theorem Hart.count_mode (h : Hart) : (h.count).mode = h.mode := rfl
@[simp] theorem Hart.count_run (h : Hart) : (h.count).run = h.run := rfl
@[simp] theorem Hart.count_frm (h : Hart) : (h.count).frm = h.frm := rfl
@[simp] theorem Hart.count_fflags (h : Hart) : (h.count).fflags = h.fflags := rfl
@[simp] theorem Hart.count_vt (h : Hart) : (h.count).vt = h.vt := rfl
@[simp] theorem Hart.count_hla (h : Hart) : (h.count).hla = h.hla := rfl
@[simp] theorem Hart.count_uivec (h : Hart) : (h.count).uivec = h.uivec := rfl
@[simp] theorem Hart.count_uien (h : Hart) : (h.count).uien = h.uien := rfl
@[simp] theorem Hart.count_uicause (h : Hart) : (h.count).uicause = h.uicause := rfl
@[simp] theorem Hart.count_uiepc (h : Hart) : (h.count).uiepc = h.uiepc := rfl
@[simp] theorem Hart.count_uih (h : Hart) : (h.count).uih = h.uih := rfl
@[simp] theorem Hart.count_ovfptr (h : Hart) : (h.count).ovfptr = h.ovfptr := rfl
@[simp] theorem Hart.count_spillbase (h : Hart) : (h.count).spillbase = h.spillbase := rfl
@[simp] theorem Hart.count_spillsize (h : Hart) : (h.count).spillsize = h.spillsize := rfl
@[simp] theorem Hart.count_s1base (h : Hart) : (h.count).s1base = h.s1base := rfl
@[simp] theorem Hart.count_sup (h : Hart) : (h.count).sup = h.sup := rfl
@[simp] theorem Hart.count_mach (h : Hart) : (h.count).mach = h.mach := rfl
@[simp] theorem Hart.count_sien (h : Hart) : (h.count).sien = h.sien := rfl
@[simp] theorem Hart.count_soft (h : Hart) : (h.count).soft = h.soft := rfl
@[simp] theorem Hart.count_stimecmp (h : Hart) : (h.count).stimecmp = h.stimecmp := rfl
@[simp] theorem Hart.count_frame (h : Hart) : (h.count).frame = h.frame := rfl
@[simp] theorem Hart.count_iword (h : Hart) : (h.count).iword = h.iword := rfl
@[simp] theorem Hart.count_pend (h : Hart) : (h.count).pend = h.pend := rfl
@[simp] theorem Hart.count_replay (h : Hart) : (h.count).replay = h.replay := rfl
@[simp] theorem Hart.count_replayEnd (h : Hart) : (h.count).replayEnd = h.replayEnd := rfl
@[simp] theorem Hart.count_replayWord (h : Hart) : (h.count).replayWord = h.replayWord := rfl
@[simp] theorem Hart.count_fetch (h : Hart) : (h.count).fetch = h.fetch := rfl
@[simp] theorem Hart.count_keepBlock (h : Hart) : (h.count).keepBlock = h.keepBlock := rfl
@[simp] theorem Hart.count_bAt (h : Hart) : (h.count).bAt = h.bAt := rfl
@[simp] theorem Hart.count_redirect (h : Hart) : (h.count).redirect = h.redirect := rfl
@[simp] theorem Hart.count_ibuf (h : Hart) : (h.count).ibuf = h.ibuf := rfl
@[simp] theorem Hart.count_alignHold (h : Hart) : (h.count).alignHold = h.alignHold := rfl
@[simp] theorem Hart.count_lease (h : Hart) : (h.count).lease = h.lease := rfl
@[simp] theorem Hart.count_parked (h : Hart) : (h.count).parked = h.parked := rfl
@[simp] theorem Hart.count_chans (h : Hart) : (h.count).chans = h.chans := rfl
@[simp] theorem Hart.count_macRem (h : Hart) : (h.count).macRem = h.macRem := rfl
@[simp] theorem Hart.count_task (h : Hart) : (h.count).task = h.task := rfl
@[simp] theorem Hart.count_launch (h : Hart) : (h.count).launch = h.launch := rfl
@[simp] theorem Hart.count_lidx (h : Hart) : (h.count).lidx = h.lidx := rfl
@[simp] theorem Hart.count_initRun (h : Hart) : (h.count).initRun = h.initRun := rfl
@[simp] theorem Hart.count_codeBase (h : Hart) : (h.count).codeBase = h.codeBase := rfl
@[simp] theorem Hart.count_codeSize (h : Hart) : (h.count).codeSize = h.codeSize := rfl
@[simp] theorem Hart.count_events (h : Hart) : (h.count).events = h.events := rfl
@[simp] theorem Hart.count_commandFaults (h : Hart) : (h.count).commandFaults = h.commandFaults := rfl
@[simp] theorem Hart.count_fromEvents (h : Hart) : (h.count).fromEvents = h.fromEvents := rfl
@[simp] theorem Hart.count_cancelled (h : Hart) : (h.count).cancelled = h.cancelled := rfl
@[simp] theorem Hart.count_pendingTrap (h : Hart) : (h.count).pendingTrap = h.pendingTrap := rfl
@[simp] theorem Hart.count_reserved (h : Hart) : (h.count).reserved = h.reserved := rfl
@[simp] theorem Hart.count_since (h : Hart) : (h.count).since = h.since := rfl
@[simp] theorem Hart.count_slice (h : Hart) : (h.count).slice = h.slice := rfl
@[simp] theorem Hart.count_tasks (h : Hart) : (h.count).tasks = h.tasks := rfl
@[simp] theorem Hart.count_era (h : Hart) : (h.count).era = h.era := rfl
@[simp] theorem Hart.count_tickMark (h : Hart) : (h.count).tickMark = h.tickMark := rfl
@[simp] theorem Hart.jump_x (h : Hart) (t : Dword) : (h.jump t).x = h.x := rfl
@[simp] theorem Hart.jump_shadow (h : Hart) (t : Dword) : (h.jump t).shadow = h.shadow := rfl
@[simp] theorem Hart.jump_v (h : Hart) (t : Dword) : (h.jump t).v = h.v := rfl
@[simp] theorem Hart.jump_m (h : Hart) (t : Dword) : (h.jump t).m = h.m := rfl
@[simp] theorem Hart.jump_b (h : Hart) (t : Dword) : (h.jump t).b = h.b := rfl
@[simp] theorem Hart.jump_q (h : Hart) (t : Dword) : (h.jump t).q = h.q := rfl
@[simp] theorem Hart.jump_z (h : Hart) (t : Dword) : (h.jump t).z = h.z := rfl
@[simp] theorem Hart.jump_mode (h : Hart) (t : Dword) : (h.jump t).mode = h.mode := rfl
@[simp] theorem Hart.jump_run (h : Hart) (t : Dword) : (h.jump t).run = h.run := rfl
@[simp] theorem Hart.jump_frm (h : Hart) (t : Dword) : (h.jump t).frm = h.frm := rfl
@[simp] theorem Hart.jump_fflags (h : Hart) (t : Dword) : (h.jump t).fflags = h.fflags := rfl
@[simp] theorem Hart.jump_vt (h : Hart) (t : Dword) : (h.jump t).vt = h.vt := rfl
@[simp] theorem Hart.jump_hla (h : Hart) (t : Dword) : (h.jump t).hla = h.hla := rfl
@[simp] theorem Hart.jump_uivec (h : Hart) (t : Dword) : (h.jump t).uivec = h.uivec := rfl
@[simp] theorem Hart.jump_uien (h : Hart) (t : Dword) : (h.jump t).uien = h.uien := rfl
@[simp] theorem Hart.jump_uicause (h : Hart) (t : Dword) : (h.jump t).uicause = h.uicause := rfl
@[simp] theorem Hart.jump_uiepc (h : Hart) (t : Dword) : (h.jump t).uiepc = h.uiepc := rfl
@[simp] theorem Hart.jump_uih (h : Hart) (t : Dword) : (h.jump t).uih = h.uih := rfl
@[simp] theorem Hart.jump_ovfptr (h : Hart) (t : Dword) : (h.jump t).ovfptr = h.ovfptr := rfl
@[simp] theorem Hart.jump_spillbase (h : Hart) (t : Dword) : (h.jump t).spillbase = h.spillbase := rfl
@[simp] theorem Hart.jump_spillsize (h : Hart) (t : Dword) : (h.jump t).spillsize = h.spillsize := rfl
@[simp] theorem Hart.jump_s1base (h : Hart) (t : Dword) : (h.jump t).s1base = h.s1base := rfl
@[simp] theorem Hart.jump_sup (h : Hart) (t : Dword) : (h.jump t).sup = h.sup := rfl
@[simp] theorem Hart.jump_mach (h : Hart) (t : Dword) : (h.jump t).mach = h.mach := rfl
@[simp] theorem Hart.jump_sien (h : Hart) (t : Dword) : (h.jump t).sien = h.sien := rfl
@[simp] theorem Hart.jump_soft (h : Hart) (t : Dword) : (h.jump t).soft = h.soft := rfl
@[simp] theorem Hart.jump_stimecmp (h : Hart) (t : Dword) : (h.jump t).stimecmp = h.stimecmp := rfl
@[simp] theorem Hart.jump_frame (h : Hart) (t : Dword) : (h.jump t).frame = h.frame := rfl
@[simp] theorem Hart.jump_iword (h : Hart) (t : Dword) : (h.jump t).iword = h.iword := rfl
@[simp] theorem Hart.jump_pend (h : Hart) (t : Dword) : (h.jump t).pend = h.pend := rfl
@[simp] theorem Hart.jump_fetch (h : Hart) (t : Dword) : (h.jump t).fetch = h.fetch := rfl
@[simp] theorem Hart.jump_keepBlock (h : Hart) (t : Dword) : (h.jump t).keepBlock = h.keepBlock := rfl
@[simp] theorem Hart.jump_bAt (h : Hart) (t : Dword) : (h.jump t).bAt = h.bAt := rfl
@[simp] theorem Hart.jump_redirect (h : Hart) (t : Dword) : (h.jump t).redirect = h.redirect := rfl
@[simp] theorem Hart.jump_ibuf (h : Hart) (t : Dword) : (h.jump t).ibuf = h.ibuf := rfl
@[simp] theorem Hart.jump_alignHold (h : Hart) (t : Dword) : (h.jump t).alignHold = h.alignHold := rfl
@[simp] theorem Hart.jump_lease (h : Hart) (t : Dword) : (h.jump t).lease = h.lease := rfl
@[simp] theorem Hart.jump_parked (h : Hart) (t : Dword) : (h.jump t).parked = h.parked := rfl
@[simp] theorem Hart.jump_chans (h : Hart) (t : Dword) : (h.jump t).chans = h.chans := rfl
@[simp] theorem Hart.jump_macRem (h : Hart) (t : Dword) : (h.jump t).macRem = h.macRem := rfl
@[simp] theorem Hart.jump_task (h : Hart) (t : Dword) : (h.jump t).task = h.task := rfl
@[simp] theorem Hart.jump_launch (h : Hart) (t : Dword) : (h.jump t).launch = h.launch := rfl
@[simp] theorem Hart.jump_lidx (h : Hart) (t : Dword) : (h.jump t).lidx = h.lidx := rfl
@[simp] theorem Hart.jump_initRun (h : Hart) (t : Dword) : (h.jump t).initRun = h.initRun := rfl
@[simp] theorem Hart.jump_codeBase (h : Hart) (t : Dword) : (h.jump t).codeBase = h.codeBase := rfl
@[simp] theorem Hart.jump_codeSize (h : Hart) (t : Dword) : (h.jump t).codeSize = h.codeSize := rfl
@[simp] theorem Hart.jump_events (h : Hart) (t : Dword) : (h.jump t).events = h.events := rfl
@[simp] theorem Hart.jump_commandFaults (h : Hart) (t : Dword) : (h.jump t).commandFaults = h.commandFaults := rfl
@[simp] theorem Hart.jump_fromEvents (h : Hart) (t : Dword) : (h.jump t).fromEvents = h.fromEvents := rfl
@[simp] theorem Hart.jump_cancelled (h : Hart) (t : Dword) : (h.jump t).cancelled = h.cancelled := rfl
@[simp] theorem Hart.jump_pendingTrap (h : Hart) (t : Dword) : (h.jump t).pendingTrap = h.pendingTrap := rfl
@[simp] theorem Hart.jump_reserved (h : Hart) (t : Dword) : (h.jump t).reserved = h.reserved := rfl
@[simp] theorem Hart.jump_since (h : Hart) (t : Dword) : (h.jump t).since = h.since := rfl
@[simp] theorem Hart.jump_slice (h : Hart) (t : Dword) : (h.jump t).slice = h.slice := rfl
@[simp] theorem Hart.jump_tasks (h : Hart) (t : Dword) : (h.jump t).tasks = h.tasks := rfl
@[simp] theorem Hart.jump_era (h : Hart) (t : Dword) : (h.jump t).era = h.era := rfl
@[simp] theorem Hart.jump_tickMark (h : Hart) (t : Dword) : (h.jump t).tickMark = h.tickMark := rfl
@[simp] theorem Hart.advance_x (h : Hart) : (h.advance).x = h.x := by unfold Hart.advance; (repeat' split) <;> rfl
@[simp] theorem Hart.advance_shadow (h : Hart) : (h.advance).shadow = h.shadow :=
  by unfold Hart.advance; (repeat' split) <;> rfl
@[simp] theorem Hart.advance_v (h : Hart) : (h.advance).v = h.v := by unfold Hart.advance; (repeat' split) <;> rfl
@[simp] theorem Hart.advance_m (h : Hart) : (h.advance).m = h.m := by unfold Hart.advance; (repeat' split) <;> rfl
@[simp] theorem Hart.advance_b (h : Hart) : (h.advance).b = h.b := by unfold Hart.advance; (repeat' split) <;> rfl
@[simp] theorem Hart.advance_q (h : Hart) : (h.advance).q = h.q := by unfold Hart.advance; (repeat' split) <;> rfl
@[simp] theorem Hart.advance_z (h : Hart) : (h.advance).z = h.z := by unfold Hart.advance; (repeat' split) <;> rfl
@[simp] theorem Hart.advance_mode (h : Hart) : (h.advance).mode = h.mode :=
  by unfold Hart.advance; (repeat' split) <;> rfl
@[simp] theorem Hart.advance_run (h : Hart) : (h.advance).run = h.run :=
  by unfold Hart.advance; (repeat' split) <;> rfl
@[simp] theorem Hart.advance_frm (h : Hart) : (h.advance).frm = h.frm :=
  by unfold Hart.advance; (repeat' split) <;> rfl
@[simp] theorem Hart.advance_fflags (h : Hart) : (h.advance).fflags = h.fflags :=
  by unfold Hart.advance; (repeat' split) <;> rfl
@[simp] theorem Hart.advance_vt (h : Hart) : (h.advance).vt = h.vt := by unfold Hart.advance; (repeat' split) <;> rfl
@[simp] theorem Hart.advance_hla (h : Hart) : (h.advance).hla = h.hla :=
  by unfold Hart.advance; (repeat' split) <;> rfl
@[simp] theorem Hart.advance_rwc (h : Hart) : (h.advance).rwc = h.rwc :=
  by unfold Hart.advance; (repeat' split) <;> rfl
@[simp] theorem Hart.advance_uivec (h : Hart) : (h.advance).uivec = h.uivec :=
  by unfold Hart.advance; (repeat' split) <;> rfl
@[simp] theorem Hart.advance_uien (h : Hart) : (h.advance).uien = h.uien :=
  by unfold Hart.advance; (repeat' split) <;> rfl
@[simp] theorem Hart.advance_uicause (h : Hart) : (h.advance).uicause = h.uicause :=
  by unfold Hart.advance; (repeat' split) <;> rfl
@[simp] theorem Hart.advance_uiepc (h : Hart) : (h.advance).uiepc = h.uiepc :=
  by unfold Hart.advance; (repeat' split) <;> rfl
@[simp] theorem Hart.advance_uih (h : Hart) : (h.advance).uih = h.uih :=
  by unfold Hart.advance; (repeat' split) <;> rfl
@[simp] theorem Hart.advance_ovfptr (h : Hart) : (h.advance).ovfptr = h.ovfptr :=
  by unfold Hart.advance; (repeat' split) <;> rfl
@[simp] theorem Hart.advance_spillbase (h : Hart) : (h.advance).spillbase = h.spillbase :=
  by unfold Hart.advance; (repeat' split) <;> rfl
@[simp] theorem Hart.advance_spillsize (h : Hart) : (h.advance).spillsize = h.spillsize :=
  by unfold Hart.advance; (repeat' split) <;> rfl
@[simp] theorem Hart.advance_s1base (h : Hart) : (h.advance).s1base = h.s1base :=
  by unfold Hart.advance; (repeat' split) <;> rfl
@[simp] theorem Hart.advance_sup (h : Hart) : (h.advance).sup = h.sup :=
  by unfold Hart.advance; (repeat' split) <;> rfl
@[simp] theorem Hart.advance_mach (h : Hart) : (h.advance).mach = h.mach :=
  by unfold Hart.advance; (repeat' split) <;> rfl
@[simp] theorem Hart.advance_sien (h : Hart) : (h.advance).sien = h.sien :=
  by unfold Hart.advance; (repeat' split) <;> rfl
@[simp] theorem Hart.advance_soft (h : Hart) : (h.advance).soft = h.soft :=
  by unfold Hart.advance; (repeat' split) <;> rfl
@[simp] theorem Hart.advance_stimecmp (h : Hart) : (h.advance).stimecmp = h.stimecmp :=
  by unfold Hart.advance; (repeat' split) <;> rfl
@[simp] theorem Hart.advance_iword (h : Hart) : (h.advance).iword = h.iword :=
  by unfold Hart.advance; (repeat' split) <;> rfl
@[simp] theorem Hart.advance_pend (h : Hart) : (h.advance).pend = h.pend :=
  by unfold Hart.advance; (repeat' split) <;> rfl
@[simp] theorem Hart.advance_issued (h : Hart) : (h.advance).issued = h.issued :=
  by unfold Hart.advance; (repeat' split) <;> rfl
@[simp] theorem Hart.advance_hist (h : Hart) : (h.advance).hist = h.hist :=
  by unfold Hart.advance; (repeat' split) <;> rfl
@[simp] theorem Hart.advance_near (h : Hart) : (h.advance).near = h.near :=
  by unfold Hart.advance; (repeat' split) <;> rfl
@[simp] theorem Hart.advance_fetch (h : Hart) : (h.advance).fetch = h.fetch :=
  by unfold Hart.advance; (repeat' split) <;> rfl
@[simp] theorem Hart.advance_keepBlock (h : Hart) : (h.advance).keepBlock = h.keepBlock :=
  by unfold Hart.advance; (repeat' split) <;> rfl
@[simp] theorem Hart.advance_bAt (h : Hart) : (h.advance).bAt = h.bAt :=
  by unfold Hart.advance; (repeat' split) <;> rfl
@[simp] theorem Hart.advance_redirect (h : Hart) : (h.advance).redirect = h.redirect :=
  by unfold Hart.advance; (repeat' split) <;> rfl
@[simp] theorem Hart.advance_ibuf (h : Hart) : (h.advance).ibuf = h.ibuf :=
  by unfold Hart.advance; (repeat' split) <;> rfl
@[simp] theorem Hart.advance_alignHold (h : Hart) : (h.advance).alignHold = h.alignHold :=
  by unfold Hart.advance; (repeat' split) <;> rfl
@[simp] theorem Hart.advance_lease (h : Hart) : (h.advance).lease = h.lease :=
  by unfold Hart.advance; (repeat' split) <;> rfl
@[simp] theorem Hart.advance_parked (h : Hart) : (h.advance).parked = h.parked :=
  by unfold Hart.advance; (repeat' split) <;> rfl
@[simp] theorem Hart.advance_chans (h : Hart) : (h.advance).chans = h.chans :=
  by unfold Hart.advance; (repeat' split) <;> rfl
@[simp] theorem Hart.advance_macRem (h : Hart) : (h.advance).macRem = h.macRem :=
  by unfold Hart.advance; (repeat' split) <;> rfl
@[simp] theorem Hart.advance_task (h : Hart) : (h.advance).task = h.task :=
  by unfold Hart.advance; (repeat' split) <;> rfl
@[simp] theorem Hart.advance_launch (h : Hart) : (h.advance).launch = h.launch :=
  by unfold Hart.advance; (repeat' split) <;> rfl
@[simp] theorem Hart.advance_lidx (h : Hart) : (h.advance).lidx = h.lidx :=
  by unfold Hart.advance; (repeat' split) <;> rfl
@[simp] theorem Hart.advance_initRun (h : Hart) : (h.advance).initRun = h.initRun :=
  by unfold Hart.advance; (repeat' split) <;> rfl
@[simp] theorem Hart.advance_codeBase (h : Hart) : (h.advance).codeBase = h.codeBase :=
  by unfold Hart.advance; (repeat' split) <;> rfl
@[simp] theorem Hart.advance_codeSize (h : Hart) : (h.advance).codeSize = h.codeSize :=
  by unfold Hart.advance; (repeat' split) <;> rfl
@[simp] theorem Hart.advance_events (h : Hart) : (h.advance).events = h.events :=
  by unfold Hart.advance; (repeat' split) <;> rfl
@[simp] theorem Hart.advance_commandFaults (h : Hart) : (h.advance).commandFaults = h.commandFaults :=
  by unfold Hart.advance; (repeat' split) <;> rfl
@[simp] theorem Hart.advance_fromEvents (h : Hart) : (h.advance).fromEvents = h.fromEvents :=
  by unfold Hart.advance; (repeat' split) <;> rfl
@[simp] theorem Hart.advance_cancelled (h : Hart) : (h.advance).cancelled = h.cancelled :=
  by unfold Hart.advance; (repeat' split) <;> rfl
@[simp] theorem Hart.advance_pendingTrap (h : Hart) : (h.advance).pendingTrap = h.pendingTrap :=
  by unfold Hart.advance; (repeat' split) <;> rfl
@[simp] theorem Hart.advance_waitSince (h : Hart) : (h.advance).waitSince = h.waitSince :=
  by unfold Hart.advance; (repeat' split) <;> rfl
@[simp] theorem Hart.advance_waitStamp (h : Hart) : (h.advance).waitStamp = h.waitStamp :=
  by unfold Hart.advance; (repeat' split) <;> rfl
@[simp] theorem Hart.advance_sendWait (h : Hart) : (h.advance).sendWait = h.sendWait :=
  by unfold Hart.advance; (repeat' split) <;> rfl
@[simp] theorem Hart.advance_inv (h : Hart) : (h.advance).inv = h.inv :=
  by unfold Hart.advance; (repeat' split) <;> rfl
@[simp] theorem Hart.advance_waitRoute (h : Hart) : (h.advance).waitRoute = h.waitRoute :=
  by unfold Hart.advance; (repeat' split) <;> rfl
@[simp] theorem Hart.advance_stall (h : Hart) : (h.advance).stall = h.stall :=
  by unfold Hart.advance; (repeat' split) <;> rfl
@[simp] theorem Hart.advance_reserved (h : Hart) : (h.advance).reserved = h.reserved :=
  by unfold Hart.advance; (repeat' split) <;> rfl
@[simp] theorem Hart.advance_since (h : Hart) : (h.advance).since = h.since :=
  by unfold Hart.advance; (repeat' split) <;> rfl
@[simp] theorem Hart.advance_slice (h : Hart) : (h.advance).slice = h.slice :=
  by unfold Hart.advance; (repeat' split) <;> rfl
@[simp] theorem Hart.advance_tasks (h : Hart) : (h.advance).tasks = h.tasks :=
  by unfold Hart.advance; (repeat' split) <;> rfl
@[simp] theorem Hart.advance_era (h : Hart) : (h.advance).era = h.era :=
  by unfold Hart.advance; (repeat' split) <;> rfl
@[simp] theorem Hart.advance_tickMark (h : Hart) : (h.advance).tickMark = h.tickMark :=
  by unfold Hart.advance; (repeat' split) <;> rfl
@[simp] theorem Hart.advance_perf (h : Hart) : (h.advance).perf = h.perf :=
  by unfold Hart.advance; (repeat' split) <;> rfl
@[simp] theorem Hart.retire_x (h : Hart) : h.retire.x = h.x := by simp [Hart.retire]
@[simp] theorem Hart.retire_shadow (h : Hart) : h.retire.shadow = h.shadow := by simp [Hart.retire]
@[simp] theorem Hart.retire_v (h : Hart) : h.retire.v = h.v := by simp [Hart.retire]
@[simp] theorem Hart.retire_m (h : Hart) : h.retire.m = h.m := by simp [Hart.retire]
@[simp] theorem Hart.retire_b (h : Hart) : h.retire.b = h.b := by simp [Hart.retire]
@[simp] theorem Hart.retire_q (h : Hart) : h.retire.q = h.q := by simp [Hart.retire]
@[simp] theorem Hart.retire_z (h : Hart) : h.retire.z = h.z := by simp [Hart.retire]
@[simp] theorem Hart.retire_mode (h : Hart) : h.retire.mode = h.mode := by simp [Hart.retire]
@[simp] theorem Hart.retire_run (h : Hart) : h.retire.run = h.run := by simp [Hart.retire]
@[simp] theorem Hart.retire_frm (h : Hart) : h.retire.frm = h.frm := by simp [Hart.retire]
@[simp] theorem Hart.retire_fflags (h : Hart) : h.retire.fflags = h.fflags := by simp [Hart.retire]
@[simp] theorem Hart.retire_vt (h : Hart) : h.retire.vt = h.vt := by simp [Hart.retire]
@[simp] theorem Hart.retire_hla (h : Hart) : h.retire.hla = h.hla := by simp [Hart.retire]
@[simp] theorem Hart.retire_uivec (h : Hart) : h.retire.uivec = h.uivec := by simp [Hart.retire]
@[simp] theorem Hart.retire_uien (h : Hart) : h.retire.uien = h.uien := by simp [Hart.retire]
@[simp] theorem Hart.retire_uicause (h : Hart) : h.retire.uicause = h.uicause := by simp [Hart.retire]
@[simp] theorem Hart.retire_uiepc (h : Hart) : h.retire.uiepc = h.uiepc := by simp [Hart.retire]
@[simp] theorem Hart.retire_uih (h : Hart) : h.retire.uih = h.uih := by simp [Hart.retire]
@[simp] theorem Hart.retire_ovfptr (h : Hart) : h.retire.ovfptr = h.ovfptr := by simp [Hart.retire]
@[simp] theorem Hart.retire_spillbase (h : Hart) : h.retire.spillbase = h.spillbase := by simp [Hart.retire]
@[simp] theorem Hart.retire_spillsize (h : Hart) : h.retire.spillsize = h.spillsize := by simp [Hart.retire]
@[simp] theorem Hart.retire_s1base (h : Hart) : h.retire.s1base = h.s1base := by simp [Hart.retire]
@[simp] theorem Hart.retire_sup (h : Hart) : h.retire.sup = h.sup := by simp [Hart.retire]
@[simp] theorem Hart.retire_mach (h : Hart) : h.retire.mach = h.mach := by simp [Hart.retire]
@[simp] theorem Hart.retire_sien (h : Hart) : h.retire.sien = h.sien := by simp [Hart.retire]
@[simp] theorem Hart.retire_soft (h : Hart) : h.retire.soft = h.soft := by simp [Hart.retire]
@[simp] theorem Hart.retire_stimecmp (h : Hart) : h.retire.stimecmp = h.stimecmp := by simp [Hart.retire]
@[simp] theorem Hart.retire_iword (h : Hart) : h.retire.iword = h.iword := by simp [Hart.retire]
@[simp] theorem Hart.retire_pend (h : Hart) : h.retire.pend = h.pend := by simp [Hart.retire]
@[simp] theorem Hart.retire_fetch (h : Hart) : h.retire.fetch = h.fetch := by simp [Hart.retire]
@[simp] theorem Hart.retire_keepBlock (h : Hart) : h.retire.keepBlock = h.keepBlock := by simp [Hart.retire]
@[simp] theorem Hart.retire_bAt (h : Hart) : h.retire.bAt = h.bAt := by simp [Hart.retire]
@[simp] theorem Hart.retire_redirect (h : Hart) : h.retire.redirect = h.redirect := by simp [Hart.retire]
@[simp] theorem Hart.retire_ibuf (h : Hart) : h.retire.ibuf = h.ibuf := by simp [Hart.retire]
@[simp] theorem Hart.retire_alignHold (h : Hart) : h.retire.alignHold = h.alignHold := by simp [Hart.retire]
@[simp] theorem Hart.retire_lease (h : Hart) : h.retire.lease = h.lease := by simp [Hart.retire]
@[simp] theorem Hart.retire_parked (h : Hart) : h.retire.parked = h.parked := by simp [Hart.retire]
@[simp] theorem Hart.retire_chans (h : Hart) : h.retire.chans = h.chans := by simp [Hart.retire]
@[simp] theorem Hart.retire_macRem (h : Hart) : h.retire.macRem = h.macRem := by simp [Hart.retire]
@[simp] theorem Hart.retire_task (h : Hart) : h.retire.task = h.task := by simp [Hart.retire]
@[simp] theorem Hart.retire_launch (h : Hart) : h.retire.launch = h.launch := by simp [Hart.retire]
@[simp] theorem Hart.retire_lidx (h : Hart) : h.retire.lidx = h.lidx := by simp [Hart.retire]
@[simp] theorem Hart.retire_initRun (h : Hart) : h.retire.initRun = h.initRun := by simp [Hart.retire]
@[simp] theorem Hart.retire_codeBase (h : Hart) : h.retire.codeBase = h.codeBase := by simp [Hart.retire]
@[simp] theorem Hart.retire_codeSize (h : Hart) : h.retire.codeSize = h.codeSize := by simp [Hart.retire]
@[simp] theorem Hart.retire_events (h : Hart) : h.retire.events = h.events := by simp [Hart.retire]
@[simp] theorem Hart.retire_commandFaults (h : Hart) : h.retire.commandFaults = h.commandFaults :=
  by simp [Hart.retire]
@[simp] theorem Hart.retire_fromEvents (h : Hart) : h.retire.fromEvents = h.fromEvents := by simp [Hart.retire]
@[simp] theorem Hart.retire_cancelled (h : Hart) : h.retire.cancelled = h.cancelled := by simp [Hart.retire]
@[simp] theorem Hart.retire_pendingTrap (h : Hart) : h.retire.pendingTrap = h.pendingTrap := by simp [Hart.retire]
@[simp] theorem Hart.retire_reserved (h : Hart) : h.retire.reserved = h.reserved := by simp [Hart.retire]
@[simp] theorem Hart.retire_since (h : Hart) : h.retire.since = h.since := by simp [Hart.retire]
@[simp] theorem Hart.retire_slice (h : Hart) : h.retire.slice = h.slice := by simp [Hart.retire]
@[simp] theorem Hart.retire_tasks (h : Hart) : h.retire.tasks = h.tasks := by simp [Hart.retire]
@[simp] theorem Hart.retire_era (h : Hart) : h.retire.era = h.era := by simp [Hart.retire]
@[simp] theorem Hart.retire_tickMark (h : Hart) : h.retire.tickMark = h.tickMark := by simp [Hart.retire]
@[simp] theorem Hart.retire_rwc (h : Hart) : h.retire.rwc = h.rwc + 1 := by
  unfold Hart.retire Hart.advance
  (repeat' split) <;> rfl
@[simp] theorem Hart.retire_issued (h : Hart) : h.retire.issued = h.issued + 1 := by
  unfold Hart.retire Hart.advance
  (repeat' split) <;> rfl

/-- A write of an x register changes the two banks at most. -/
theorem Hart.wx_eq (h : Hart) (r : Reg) (v : Dword) :
    h.wx r v = { h with x := (h.wx r v).x, shadow := (h.wx r v).shadow } := by
  unfold Hart.wx
  split_ifs <;> rfl

end Sys2Proof.Machine
end

