-- ==== Sys2Proof/Laws/Ops.lean ====
section
/-!
SUPPORT. Laws of the shared operations: what completing windows, taking a trap and issuing a class L instruction
leave as it was.
-/

namespace Sys2Proof.Machine

/-- Completing a window changes the acting hart and the flags on their way to its grove. -/
theorem completeOne_frame (s : State) (p : Pending) :
    completeOne s p = { s with hart := (completeOne s p).hart, groves := (completeOne s p).groves } := by
  unfold completeOne raiseFlags flagsToGrove
  split <;> rfl

/-- Completing windows changes the acting hart and the flags on their way to its grove. -/
theorem completeAll_frame (s : State) (l : List Pending) :
    completeAll s l = { s with hart := (completeAll s l).hart, groves := (completeAll s l).groves } := by
  induction l generalizing s with
  | nil => rfl
  | cons p l ih =>
    rw [completeAll]
    have h := ih (completeOne s p)
    rw [completeOne_frame] at h ⊢
    exact h

@[simp] theorem completeAll_mem (s : State) (l : List Pending) : (completeAll s l).mem = s.mem := by
  rw [completeAll_frame]

@[simp] theorem completeAll_core (s : State) (l : List Pending) : (completeAll s l).core = s.core := by
  rw [completeAll_frame]

@[simp] theorem completeAll_pk (s : State) (l : List Pending) : (completeAll s l).pk = s.pk := by
  rw [completeAll_frame]

@[simp] theorem completeAll_hgid (s : State) (l : List Pending) : (completeAll s l).hgid = s.hgid := by
  rw [completeAll_frame]

@[simp] theorem stall_mem (s : State) : (stall s).mem = s.mem := rfl
@[simp] theorem stall_core (s : State) : (stall s).core = s.core := rfl
@[simp] theorem stall_pk (s : State) : (stall s).pk = s.pk := rfl

@[simp] theorem pause_mem (s : State) : (pause s).mem = s.mem := rfl
@[simp] theorem pause_core (s : State) : (pause s).core = s.core := rfl
@[simp] theorem pause_pk (s : State) : (pause s).pk = s.pk := rfl

@[simp] theorem endHold_mem (s : State) (g : Nat) : (endHold s g).mem = s.mem := by
  unfold endHold
  dsimp only
  split <;> simp

@[simp] theorem leaveWaiters_mem (s : State) (h : Nat) : (leaveWaiters s h).mem = s.mem := by
  unfold leaveWaiters
  dsimp only
  split_ifs <;> simp

@[simp] theorem closeLease_mem (s : State) (h : Nat) : (closeLease s h).mem = s.mem := by
  unfold closeLease
  dsimp only
  split <;> simp

@[simp] theorem dropWork_mem (s : State) (h : Nat) (t : TaskCopy) : (dropWork s h t).mem = s.mem := by
  unfold dropWork
  dsimp only
  simp

/-- A tile whose contents are left unspecified changes no byte outside its storage. -/
theorem spoilTile_other (core : Nat) (s : State) (w : Dword) (a : Nat)
    (ha : a < sliceKey core (tileRun w).1 ∨ sliceKey core (tileRun w).1 + (tileRun w).2 ≤ a) :
    memGet (spoilTile core s w).mem a = memGet s.mem a := by
  unfold spoilTile
  exact memWriteBytes_other _ _ _ _ (by simpa using ha)

theorem spoilTile_wf (core : Nat) (s : State) (w : Dword) (h : Memory.wf s.mem = true) :
    Memory.wf (spoilTile core s w).mem = true := memWriteBytes_wf _ _ h

/-- Spoiling tiles changes no byte outside their storage. -/
theorem spoilTiles_other (core : Nat) (ws : List Dword) (s : State) (a : Nat)
    (ha : ∀ w ∈ ws, a < sliceKey core (tileRun w).1 ∨ sliceKey core (tileRun w).1 + (tileRun w).2 ≤ a) :
    memGet (ws.foldl (spoilTile core) s).mem a = memGet s.mem a := by
  induction ws generalizing s with
  | nil => rfl
  | cons w ws ih =>
    rw [List.foldl_cons, ih _ fun v hv => ha v (List.mem_cons_of_mem _ hv)]
    exact spoilTile_other core s w a (ha w List.mem_cons_self)

theorem spoilTiles_wf (core : Nat) (ws : List Dword) (s : State) (h : Memory.wf s.mem = true) :
    Memory.wf (ws.foldl (spoilTile core) s).mem = true := by
  induction ws generalizing s with
  | nil => exact h
  | cons w ws ih => exact ih _ (spoilTile_wf core s w h)

/-- Ending a copy changes no byte outside the tiles that its commands named. -/
theorem dropCopy_other (s : State) (h a : Nat)
    (ha : ∀ c ∈ tileCommands s h,
      a < sliceKey (h / 4) (tileRun c.tile).1 ∨ sliceKey (h / 4) (tileRun c.tile).1 + (tileRun c.tile).2 ≤ a) :
    memGet (dropCopy s h).mem a = memGet s.mem a := by
  unfold dropCopy
  split
  · rfl
  · rw [spoilTiles_other, dropWork_mem]
    intro w hw
    obtain ⟨c, hc, rfl⟩ := List.mem_map.1 hw
    exact ha c hc

theorem dropCopy_wf (s : State) (h : Nat) (hm : Memory.wf s.mem = true) : Memory.wf (dropCopy s h).mem = true := by
  unfold dropCopy
  split
  · exact hm
  · exact spoilTiles_wf _ _ _ (by rw [dropWork_mem]; exact hm)

/-- With no task there is no copy to end. -/
@[simp] theorem cancelForFault_none (s : State) (h : s.hart.task = none) : cancelForFault s = s := by
  unfold cancelForFault
  rw [h]

theorem cancelForFault_wf (s : State) (h : Memory.wf s.mem = true) : Memory.wf (cancelForFault s).mem = true := by
  unfold cancelForFault
  split
  · dsimp only
    have := dropCopy_wf { s with hart := s.hart.countLost (taskWon s ‹_›) (‹TaskCopy›).startRwc } s.hgid h
    split
    · simpa using this
    · simpa using this
  · exact h

@[simp] theorem withdrawSend_mem (s : State) : (withdrawSend s).mem = s.mem := by
  unfold withdrawSend
  split <;> simp

/-- Completing windows leaves the task of the acting hart as it was. -/
@[simp] theorem completeAll_task (s : State) (l : List Pending) : (completeAll s l).hart.task = s.hart.task := by
  induction l generalizing s with
  | nil => rfl
  | cons p l ih =>
    rw [completeAll, ih]
    unfold completeOne raiseFlags flagsToGrove Hart.complete
    split <;> (cases p.dest <;> first | rfl | (simp only [Hart.wx]; split_ifs <;> rfl))

/-- Taking a trap keeps memory in canonical form. -/
theorem takeTrap_wf (s : State) (e : Entry) (h : Memory.wf s.mem = true) :
    Memory.wf (takeTrap s e).mem = true := by
  unfold takeTrap
  split
  · simpa using h
  · dsimp only
    rw [withdrawSend_mem]
    split_ifs
    · exact cancelForFault_wf _ (by simpa using h)
    · simpa using h

/-- Taking a trap outside a task writes no byte of memory. -/
theorem takeTrap_mem (s : State) (e : Entry) (h : s.hart.task = none) : (takeTrap s e).mem = s.mem := by
  unfold takeTrap
  split
  · simp
  · dsimp only
    rw [withdrawSend_mem]
    split_ifs
    · rw [cancelForFault_none _ (by simpa using h)]
      simp
    · simp

theorem raiseL_wf (s : State) (c : Cause) (v : Dword) (h : Memory.wf s.mem = true) :
    Memory.wf (raiseL s c v).mem = true := takeTrap_wf _ _ (by split <;> exact h)
theorem raiseWindow_wf (s : State) (h : Memory.wf s.mem = true) : Memory.wf (raiseWindow s).mem = true :=
  takeTrap_wf _ _ h
theorem raise_wf (s : State) (c : Cause) (v : Dword) (h : Memory.wf s.mem = true) :
    Memory.wf (raise s c v).mem = true := takeTrap_wf _ _ h
theorem raiseDeferred_wf (s : State) (t : Trap) (pc : Dword) (h : Memory.wf s.mem = true) :
    Memory.wf (raiseDeferred s t pc).mem = true := takeTrap_wf _ _ h
theorem raiseNext_wf (s : State) (c : Cause) (v : Dword) (h : Memory.wf s.mem = true) :
    Memory.wf (raiseNext s c v).mem = true := by
  unfold raiseNext
  split_ifs
  · exact h
  · exact raiseWindow_wf s h
  · exact takeTrap_wf _ _ h

theorem raiseL_mem (s : State) (c : Cause) (v : Dword) (h : s.hart.task = none) : (raiseL s c v).mem = s.mem := by
  have k : ∀ b : Bool, ((if b then onHart s fun h => h.fault (h.window 0 .none 0 false (some ⟨c, v⟩)) else s).hart.task =
      none) := by
    intro b
    cases b <;> simp [h, Hart.fault, Hart.issue]
  unfold raiseL
  rw [takeTrap_mem _ _ (k _)]
  split <;> rfl

/-- With no faulted window open a fault at the issue of a class L instruction is taken as it stands. -/
theorem raiseL_alone (s : State) (c : Cause) (v : Dword) (h : windowsFault s = false) :
    raiseL s c v = takeTrap s (faultEntry s.hart ⟨c, v⟩) := by
  simp [raiseL, h]
theorem raise_mem (s : State) (c : Cause) (v : Dword) (h : s.hart.task = none) : (raise s c v).mem = s.mem :=
  takeTrap_mem _ _ h

@[simp] theorem completeOne_mem (s : State) (p : Pending) : (completeOne s p).mem = s.mem := by
  rw [completeOne_frame]

/-- Issuing a class L instruction writes no byte of memory unless it traps. -/
@[simp] theorem issueL_mem (s : State) (la : BitVec 4) (d : Dest) (fl : Flags) (fp : Bool) :
    (issueL s la d fl fp none).mem = s.mem := by
  unfold issueL
  dsimp only
  split_ifs <;> simp

theorem issueL_wf (s : State) (la : BitVec 4) (d : Dest) (fl : Flags) (fp : Bool) (t : Option Trap)
    (h : Memory.wf s.mem = true) : Memory.wf (issueL s la d fl fp t).mem = true := by
  unfold issueL
  dsimp only
  split
  · split_ifs
    · exact raiseL_wf _ _ _ h
    · exact h
  · split_ifs <;> simpa using h

/-- With a window of its own a class L instruction that has no fault only opens it and retires. -/
theorem issueL_open (s : State) (la : BitVec 4) (d : Dest) (fl : Flags) (fp : Bool) (h : s.hart.lookahead la ≠ 0) :
    issueL s la d fl fp none = onHart s fun h =>
      ({ h with pend := h.pend ++ [h.window la d fl fp none] } : Hart).retire := by
  unfold issueL
  simp [h, onHart, Hart.window]

/-- With a window of its own a class L instruction that faults opens it and issues without retiring. -/
theorem issueL_faulted (s : State) (la : BitVec 4) (d : Dest) (fl : Flags) (fp : Bool) (t : Trap)
    (h : s.hart.lookahead la ≠ 0) :
    issueL s la d fl fp (some t) = onHart s fun h => h.fault (h.window la d fl fp (some t)) := by
  unfold issueL
  simp [h, onHart]

/-- Without a window a class L instruction that faults takes its trap. -/
theorem issueL_trap (s : State) (la : BitVec 4) (d : Dest) (fl : Flags) (fp : Bool) (t : Trap)
    (h : s.hart.lookahead la = 0) : issueL s la d fl fp (some t) = raiseL s t.cause t.val := by
  unfold issueL
  simp [h]

/-- Without a window a class L instruction that has its result and no fault writes it and retires. -/
theorem issueL_now (s : State) (la : BitVec 4) (d : Dest) (fl : Flags) (fp : Bool)
    (h : s.hart.lookahead la = 0) (o : s.hart.outstanding d = false) :
    issueL s la d fl fp none =
      onHart (completeOne s (s.hart.window la d fl fp none)) Hart.retire := by
  unfold issueL
  simp [h, o, onHart, Hart.window]

/-- Without a window a class L instruction whose result is outstanding retires and leaves it to arrive. -/
theorem issueL_late (s : State) (la : BitVec 4) (d : Dest) (fl : Flags) (fp : Bool)
    (o : s.hart.outstanding d = true) :
    issueL s la d fl fp none = onHart s fun h =>
      ({ h with pend := h.pend ++ [h.window la d fl fp none] } : Hart).retire := by
  unfold issueL
  simp [o, onHart, Hart.window]

/-- A trap with no window open and no push waiting: the hart enters, and nothing else changes. -/
theorem takeTrap_plain (s : State) (e : Entry) (h : s.hart.pend = []) (hs : s.hart.sendWait = none)
    (ht : e.tcan = false) :
    let e' := { e with xpc := e.xpc.or (some (Config.freeXpc s.tick)) }
    takeTrap s e = { s with hart := s.hart.enter (trapTarget s.hart.mode e.trap.cause) e' } := by
  obtain ⟨hgid, hart, core, harts, cores, groves, dies, pk, mem, cycle, tick, work, agenda, turns, away, hw⟩ := s
  obtain ⟨⟩ := hart
  simp only at h hs
  subst h hs
  simp [takeTrap, windowsWait, completeAll, withdrawSend, ht]

end Sys2Proof.Machine
end

