-- ==== Sys2Proof/Laws/Stores.lean ====
section
/-!
SUPPORT. Laws of the effects that many instructions share (Sys2Proof/Safety.lean): scalar loads, stores, waits for
a release, synchronisation, and host commands that name a partition.
-/

namespace Sys2Proof.Machine

/-- An address formed from a scaled offset, in integers. -/
theorem scaled_address (x : Dword) (i : Int) (n : Nat) :
    x + BitVec.ofInt 64 i * dw n = BitVec.ofInt 64 (x.toInt + i * n) := by
  rw [BitVec.ofInt_add, BitVec.ofInt_mul, BitVec.ofInt_toInt, BitVec.ofInt_natCast]

/-- The address of a format M access (07 R121). -/
theorem immAddress_eq (h : Hart) (a : Reg) (o : BitVec 10) (z : BitVec 2) :
    immAddress h a o z = BitVec.ofInt 64 ((h.rx a).toInt + o.toInt * (2 ^ z.toNat : Nat)) :=
  scaled_address (h.rx a) o.toInt (2 ^ z.toNat)

/-- The address of an indexed access (07 R121). -/
theorem idxAddress_eq (h : Hart) (a b : Reg) (z : BitVec 2) :
    idxAddress h a b z = BitVec.ofInt 64 ((h.rx a).toInt + (h.rx b).toInt * (2 ^ z.toNat : Nat)) := by
  rw [← scaled_address, BitVec.ofInt_toInt]
  rfl

/-- Appending pieces appends their records, numbered on, and changes nothing else (11 R189). -/
theorem appendAll_eq (s : State) (tag : Option (BitVec 16)) (ps : List Piece) :
    appendAll s tag ps = { s with core := { s.core with
      log := s.core.log ++ newRecords s tag ps, nextRid := s.core.nextRid + ps.length } } := by
  induction ps generalizing s with
  | nil => simp [appendAll, newRecords]
  | cons p l ih =>
    rw [appendAll, ih]
    simp [newRecords]
    omega

/-- Sending a log's records is the same before a hart retires and after (11 R194). -/
theorem autoSend_retire (s : State) :
    onHart (autoSend s) Hart.retire = autoSend { s with hart := s.hart.retire } := by
  unfold autoSend onHart
  dsimp only
  split_ifs <;> rfl

/-- A store through the log (11 R189, R207). -/
theorem logs_of_exec {i : Instr} {s : State} {tag : Option (BitVec 16)} {ps : List Piece}
    (h : exec i s = ok (logStore s ps tag)) : Logs i s tag ps := by
  unfold Logs Runs
  rw [h]
  unfold logStore logCapacity
  refine ⟨fun h => ?_, fun h => ⟨fun h1 => ?_, fun r t h1 => ?_⟩⟩
  · rw [if_pos h, appendAll_eq, autoSend_retire]
  · rw [if_neg (by omega), h1]
  · rw [if_neg (by omega), h1]

/-- A store of pieces (11 R189, 15 R282, R284). -/
theorem stores_of_exec {i : Instr} {s : State} {ps : List Piece} (h : exec i s = ok (storePieces s ps)) :
    Stores i s ps := by
  unfold Stores
  refine ⟨?_, ?_, ?_⟩
  · rintro rfl
    exact h
  · intro hp ht
    have he : ps.isEmpty = false := by simpa using hp
    refine ⟨fun ha => ?_, fun ha => ?_⟩
    · unfold Runs
      rw [h]
      unfold storePieces
      rw [he, ht, if_neg (by simp), if_neg (by simp), if_pos (by simpa using ha)]
    · apply logs_of_exec
      rw [h]
      unfold storePieces
      rw [he, ht, if_neg (by simp), if_neg (by simp), if_neg (by simpa using ha)]
  · intro task key la reg ht htk hk hl hr hp
    have he : ps.isEmpty = false := by simpa using hp
    have hs : ∀ t, taskStore s (pieceParts ps) = t → t ≠ .refused → t ≠ .private_ → storePieces s ps =
        if budgetRecords s s.cid reg < taskRecords s task.tag + ps.length then cancelLogFull s
        else logStore s ps (some task.tag) := by
      intro t hc h1 h2
      unfold storePieces
      rw [he, ht, hc, if_neg (by simp), if_pos rfl]
      cases t <;> simp_all [Hart.tag]
    refine ⟨?_, ?_, ?_⟩
    · intro hc p hh
      unfold Traps Runs
      rw [h]
      unfold storePieces
      simp [he, ht, hc, hh]
    · intro hc
      unfold Runs
      rw [h]
      unfold storePieces
      simp [he, ht, hc]
    · intro hc
      have hs := hs _ rfl (by rcases hc with hc | hc <;> simp [hc]) (by rcases hc with hc | hc <;> simp [hc])
      refine ⟨fun hb => ?_, fun hb => ?_⟩
      · unfold Runs
        rw [h, hs, if_pos hb]
      · apply logs_of_exec
        rw [h, hs, if_neg (by omega)]

/-- A synchronising instruction (11 R210): what its own effect gives, it gives after the windows. -/
theorem synchronises_of_exec {i : Instr} {s : State} {k : State → State} {P : State → Prop}
    (h : exec i s = ok (syncFirst s k)) (hp : ∀ u, Runs i s (k u) → P u) : Synchronises i s P := by
  unfold Synchronises
  refine ⟨fun hw => ?_, fun hw hf => ?_, fun hw hf => ?_⟩
  · unfold Runs
    rw [h]
    unfold syncFirst
    rw [if_pos hw]
  · unfold Runs
    rw [h]
    unfold syncFirst windowsFault
    rw [if_neg (by simp [hw]), if_pos (by simpa using hf)]
  · have hn : ¬ (windowsFault s) = true := by simpa [windowsFault] using hf
    refine ⟨fun t ht => ?_, fun hr => hp _ ?_⟩ <;>
    · unfold Runs
      rw [h]
      unfold syncFirst closeAllWindows
      rw [if_neg (by simp [hw]), if_neg hn, if_neg hn]
      simp [*]

/-- Publishing (11 R195, R226). -/
theorem publishes_of_exec {i : Instr} {s u : State} {k : State → Dword → State}
    (h : exec i s = ok (publish u k)) : Publishes i s u k := by
  unfold Publishes Runs afterRelease
  rw [h]
  unfold publish
  cases hw : u.hart.waitStamp
  · have hc : (formRelease u u.cid).1.cid = u.cid := by simp [formRelease, State.cid]
    dsimp only
    rw [hc]
    exact ⟨fun h => by rw [if_pos h], fun h => by rw [if_neg (by simp [h])]⟩
  · dsimp only
    exact ⟨fun h => by rw [if_pos h], fun h => by rw [if_neg (by simp [h])]⟩

/-- A command of the tenant that holds the partition it names (19 R356). -/
theorem withPart_own {s : State} {c : Cmd} {p : Partition} {k : Partition → State}
    (h : getPart s (cmdAt c 8 8) = some p) (f : c.fn = p.tenant + 1) : withPart s c k = k p := by
  simp [withPart, cmdPart, cmdHandle, h, f, fnOfTenant, Option.filter]

/-- A command of a tenant that does not hold the partition it names (19 R356). -/
theorem withPart_not {s : State} {c : Cmd} {k : Partition → State} (h0 : c.fn ≠ 0)
    (h : ∀ x, getPart s (cmdAt c 8 8) = some x → c.fn ≠ x.tenant + 1) :
    withPart s c k = complete s c stInval 0 := by
  unfold withPart cmdPart cmdHandle
  rcases hg : getPart s (cmdAt c 8 8) with _ | p
  · simp
  · have := h p hg
    simp [fnOfTenant, Option.filter, h0, Ne.symm this]

end Sys2Proof.Machine
end

