-- ==== Sys2Proof/Laws/Vector.lean ====
section
/-!
SUPPORT. Laws of lanes: what a register built from lanes holds, and the results of vector instructions by the
policies of 09 R146 and R147.
-/

namespace Sys2Proof.Machine

theorem elemWidth_cases (et : Nat) :
    elemWidth et = 4 ∨ elemWidth et = 8 ∨ elemWidth et = 16 ∨ elemWidth et = 32 ∨ elemWidth et = 64 := by
  unfold elemWidth
  split <;> simp

/-- The lanes of a register fill it. -/
theorem laneCount_mul (et : Nat) : elemWidth et * laneCount et = 512 := by
  unfold laneCount
  rcases elemWidth_cases et with h | h | h | h | h <;> rw [h]

theorem packLanes_lt (w : Nat) (l : List Nat) : packLanes w l < 2 ^ (w * l.length) := by
  induction l with
  | nil => simp [packLanes]
  | cons a l ih =>
    have ha := Nat.mod_lt a (Nat.two_pow_pos w)
    rw [packLanes, List.length_cons, Nat.mul_succ, Nat.pow_add, Nat.mul_comm (2 ^ (w * l.length))]
    calc a % 2 ^ w + 2 ^ w * packLanes w l < 2 ^ w + 2 ^ w * packLanes w l := by omega
      _ = 2 ^ w * (packLanes w l + 1) := by rw [Nat.mul_succ, Nat.add_comm]
      _ ≤ 2 ^ w * 2 ^ (w * l.length) := Nat.mul_le_mul_left _ ih

/-- Lane i of packed lanes. -/
theorem packLanes_lane (w : Nat) (l : List Nat) (i : Nat) :
    packLanes w l / 2 ^ (w * i) % 2 ^ w = ((l[i]?).getD 0) % 2 ^ w := by
  induction l generalizing i with
  | nil => simp [packLanes]
  | cons a l ih =>
    have ha := Nat.mod_lt a (Nat.two_pow_pos w)
    cases i with
    | zero => simp [packLanes]
    | succ i =>
      rw [packLanes, Nat.mul_succ, Nat.add_comm (w * i), Nat.pow_add, ← Nat.div_div_eq_div_mul,
        Nat.add_mul_div_left _ _ (Nat.two_pow_pos w), Nat.div_eq_of_lt ha, Nat.zero_add, ih]
      rfl

/-- Lane i of a register built from lanes that fit into it. -/
theorem lane_pack (w n : Nat) (f : Nat → Nat) (i : Nat) (hw : w * n = 512) (hi : i < n) :
    lane (BitVec.ofNat 512 (packLanes w ((List.range n).map f))) w i = f i % 2 ^ w := by
  have h := packLanes_lt w ((List.range n).map f)
  have e : 2 ^ (w * ((List.range n).map f).length) = 2 ^ 512 := by rw [List.length_map, List.length_range, hw]
  rw [e] at h
  rw [lane, BitVec.toNat_ofNat, Nat.mod_eq_of_lt h, packLanes_lane]
  simp [hi]

theorem lane_lt (v : VReg) (w i : Nat) : lane v w i < 2 ^ w := Nat.mod_lt _ (Nat.two_pow_pos w)

/-- A merged register holds the lanes of 09 R146. -/
theorem mergeLanes_merged (h : Hart) (m : BitVec 3) (z : Bool) (old : VReg) (f : Nat → Nat) :
    MergedLanes h m z old (mergeLanes (elemWidth h.et) (laneCount h.et) (h.active m) (fun i => decide (i < h.al))
      (h.mp || z) h.tp old f) f := by
  intro k hk
  rw [mergeLanes, lane_pack _ _ _ _ (laneCount_mul h.et) hk]
  have e := Nat.mod_eq_of_lt (lane_lt old (elemWidth h.et) k)
  split_ifs <;> simp_all

@[simp] theorem raiseFlags_zero (s : State) : raiseFlags s 0 = s := by
  simp [raiseFlags, flagsToGrove, hartFlags, Hart.raise]

/-- A vector instruction of an accepted type that writes lanes and raises no flag. -/
theorem writesLanes_of_exec {i : Instr} {s : State} {d : Reg} {m : BitVec 3} {z : Bool} {f : Nat → Nat}
    (h : exec i s = ok (onHart s fun h => (h.writeLanes d m z f).retire)) :
    WritesLanes i s d m z f fun _ => 0 := by
  refine ⟨_, ?_, mergeLanes_merged s.hart m z (s.hart.rv d) f⟩
  have e : laneFlags (laneCount s.hart.et) (s.hart.active m) (fun _ => (0 : Flags)) = 0 := by
    unfold laneFlags
    induction List.range (laneCount s.hart.et) with
    | nil => rfl
    | cons a l ih =>
      rw [List.map_cons, unionFlags, ih]
      split <;> exact BitVec.or_zero
  unfold WritesV Runs
  rw [h, e, raiseFlags_zero]
  rfl

end Sys2Proof.Machine
end

