-- ==== Sys2Proof/Tests/Slice0.lean ====
section
/-!
SUPPORT. Tests of the model: instructions that break a requirement of their fields, words written out from the
encodings of the spec, single steps on small states, and for every statement with hypotheses states that meet them
(the theorems named met_…). Expected results come from the spec's tables and worked examples, or from calculation by
hand.
-/

set_option Elab.async false

namespace Sys2Proof.Tests

open Sys2Proof Sys2Proof.Machine

/-! ### Helpers -/

/-- The next state of an outcome. -/
def nextOf : Host.Outcome State Fault Refusal → State
  | .next s => s
  | .fault _ => State.reset
  | .refused _ => State.reset

/-- A partition of tenant 0 over the first leaf, with set 0 and tenant 0's singleton interned. -/
def part0 : Partition :=
  { handle := 0, tenant := 0, labels := [(0, 0), (1, 1)], s2root := none, s1base := 0, slice := 1000
    stvec := some 0x4000, notes := [], errors := [], ovf := false, rtload := none }

/-- A command of VF 1 with every operand 0. -/
def cmd1 : Cmd := { fn := 1, sq := 0, entry := 0 }

/-- A running hart launch of one hart. -/
def launch1 : Launch := { Launch.blank 1 7 part0 cmd1 with state := .running, count := 1, codeSize := 4096 }

/-- A running user hart of the launch: x1 names its own slice, x4 to x7 hold small numbers, b1 an address. -/
def hart1 : Hart :=
  { Hart.fresh 0 with
    run := .running, launch := some 1, pc := 0x4000000000008000, codeBase := 0x4000000000008000, codeSize := 4096
    x := (((((Vector.replicate 32 0).set 1 0x4000000000009000).set 4 7).set 5 0xFFFFFFFFFFFFFFFD).set 6 0x10001).set 7 65
    b := (Vector.replicate 4 0).set 1 0x5000 }

/-- A package that has booted, with VF 1, a partition and a launch. -/
def pack1 : Package :=
  { Package.reset with
    boot := .up, modules := 4, parts := [part0], launches := [launch1], nextLaunch := 2
    functions := [Function.fresh 0, Function.fresh 1] }

/-- The hart on core 0 of that package. -/
noncomputable def st : State := { State.reset with hart := hart1, pk := pack1 }

/-- The same state with another acting hart. -/
noncomputable def stH (h : Hart) : State := { st with hart := h }

/-! ### Requirements on fields (03 R55, R64) -/

theorem test_wf_refuses :
    wellFormed (.sext 1 2 3) = false ∧ wellFormed (.zext 1 2 15) = false ∧
    wellFormed (.fadd 1 2 3 0 5) = false ∧ wellFormed (.fsub 1 2 3 0 6) = false ∧
    wellFormed (.fmul 1 2 3 0 5) = false ∧ wellFormed (.fcvti 1 2 0 0 6) = false ∧
    wellFormed (.fcvtn 1 2 0 0 5) = false ∧ wellFormed (.icvtf 1 2 0 0 6) = false ∧
    wellFormed (.ncvtf 1 2 0 0 5) = false ∧ wellFormed (.fcvtf 1 2 0 0 5) = false ∧
    wellFormed (.fcvtf 1 2 0 2 0) = false ∧ wellFormed (.fdiv 1 2 3 0 5 0) = false ∧
    wellFormed (.fsqrt 1 2 0 6 0) = false := by decide

theorem test_wf_refuses_memory :
    wellFormed (.amoSwap 1 2 3 0 1 1) = false ∧ wellFormed (.amoAdd 1 2 3 0 3 1) = false ∧
    wellFormed (.amoAnd 1 2 3 0 1 2) = false ∧ wellFormed (.amoOr 1 2 3 0 3 15) = false ∧
    wellFormed (.amoXor 1 2 3 0 1 1) = false ∧ wellFormed (.amoMin 1 2 3 0 1 1) = false ∧
    wellFormed (.amoMax 1 2 3 0 1 1) = false ∧ wellFormed (.amoMinn 1 2 3 0 1 1) = false ∧
    wellFormed (.amoMaxn 1 2 3 0 1 1) = false ∧ wellFormed (.amoCas 1 2 3 0 3 1) = false ∧
    wellFormed (.amoFadd 1 2 3 0 3 1) = false ∧ wellFormed (.amoLd 1 2 0 2 0) = false ∧
    wellFormed (.amoLd 1 2 0 1 1) = false ∧ wellFormed (.amoSt 1 2 0 1 0) = false ∧
    wellFormed (.acqs 5) = false ∧ wellFormed (.fence 15) = false ∧ wellFormed (.cpwait 1 0 5) = false ∧
    wellFormed (.qpopt 0 3 3) = false ∧ wellFormed (.lblget 1 2 3) = false ∧ wellFormed (.pref 1 2) = false := by
  decide

theorem test_wf_accepts :
    wellFormed (.sext 1 2 2) = true ∧ wellFormed (.fadd 1 2 3 0 4) = true ∧ wellFormed (.fadd 1 2 3 0 7) = true ∧
    wellFormed (.fcvtf 1 2 0 0 0) = true ∧ wellFormed (.amoAdd 1 2 3 0 3 0) = true ∧
    wellFormed (.amoAdd 1 2 3 0 2 15) = true ∧ wellFormed (.amoSt 1 2 0 2 9) = true ∧
    wellFormed (.fence 4) = true ∧ wellFormed (.qpopt 0 0 0) = true ∧ wellFormed (.lblget 1 2 2) = true ∧
    wellFormed (.pref 1 1) = true := by decide

/-! ### Words (the examples of the encodings' own tables) -/

/-- 04 to 07: words of the scalar families. -/
theorem test_decode_scalar :
    decodeTableWord 32 0x04A638D0 = some (.seq 5 6 7) ∧
    decodeTableWord 32 0x054B6223 = some (.div 10 11 12 3) ∧
    decodeTableWord 32 0x0842FFC0 = some (.addi 2 2 (-64)) ∧
    decodeTableWord 32 0x1CA60004 = some (.slli 5 6 4) ∧ decodeTableWord 32 0x1D298003 = some (.srai 9 9 3) ∧
    decodeTableWord 32 0x24A61386 = some (.fcvti 5 6 2 0 3) ∧
    decodeTableWord 32 0x3CA63862 = some (.ldzx 5 6 7 2 2) ∧ decodeTableWord 32 0x392200B0 = some (.st 9 2 2 3) ∧
    decodeTableWord 32 0x51229800 = some (.brcLt 1 5 6 0) ∧ decodeTableWord 32 0x52600000 = some (.brcAlw 2 0) ∧
    decodeTableWord 32 0x58200810 = some (.call 1 1) ∧ decodeTableWord 32 0x58010020 = some (.ret 1) ∧
    decodeTableWord 32 0x60C7C900 = some (.repf 3 31 1 1 0 0) ∧ decodeTableWord 32 0xA0000013 = some (.align 3) ∧
    decodeTableWord 32 0xA0000030 = some .spin := by decide +kernel

/-- 09: words of the vector families. -/
theorem test_decode_vector :
    decodeTableWord 32 0x64221880 = some (.vadd 1 2 3 0 1 0) ∧
    decodeTableWord 32 0x64221B40 = some (.vadd 1 2 3 3 0 1) ∧
      decodeTableWord 32 0x64453015 = some (.vseq 2 5 6 0 0 0) ∧
    decodeTableWord 32 0x68853000 = some (.vfadd 4 5 6 0 0 0) ∧
    decodeTableWord 32 0x6C221840 = some (.vfmadd 1 2 3 1 0) ∧
    decodeTableWord 32 0x6D021A04 = some (.vfdot2 8 2 3 8 0) ∧
    decodeTableWord 32 0x70221824 = some (.vdiv 1 2 3 0 0 4) ∧
    decodeTableWord 32 0x70221804 = some (.vfdiv 1 2 3 0 0 4) ∧
    decodeTableWord 32 0x74221804 = some (.vfredseq 1 2 3 0 0) ∧
    decodeTableWord 32 0x74221B03 = some (.vfredsum 1 2 3 3 0) ∧ decodeTableWord 32 0x78A60004 = some (.vsett 5 6) ∧
    decodeTableWord 32 0x7D0208A0 = some (.vcvt 8 2 1 0 10) ∧
    decodeTableWord 32 0x7CC248E2 = some (.vquant 6 2 9 0 14) ∧
    decodeTableWord 32 0x7D0648A3 = some (.vdeq 8 6 9 0 10) ∧ decodeTableWord 32 0x80221800 = some (.vrmix 1 2 3) ∧
    decodeTableWord 32 0x80221801 = some (.vaddq 1 2 3) ∧ decodeTableWord 32 0x80221802 = some (.veqq 1 2 3) ∧
    decodeTableWord 32 0x40860000 = some (.vld 4 6 0 0 0) ∧ decodeTableWord 32 0x40860043 = some (.vldFf 4 6 0 0 3) ∧
    decodeTableWord 32 0x44864A20 = some (.vstSc 4 6 9 2) := by decide +kernel

/-- 11: words of the atomic, synchronisation and label families. -/
theorem test_decode_memory :
    decodeTableWord 32 0x48A63870 = some (.amoAdd 5 6 7 0 3 0) ∧
    decodeTableWord 32 0x49095650 = some (.amoCas 8 9 10 1 1 0) ∧
    decodeTableWord 32 0x48A602D0 = some (.amoLd 5 6 0 1 0) ∧ decodeTableWord 32 0x4CA00000 = some (.pub 5) ∧
    decodeTableWord 32 0x4CA00010 = some (.pubn 5) ∧ decodeTableWord 32 0x4C050020 = some (.pubwait 5) ∧
    decodeTableWord 32 0x4C050030 = some (.acq 5) ∧ decodeTableWord 32 0x4C000042 = some (.acqs 2) ∧
    decodeTableWord 32 0x4C000054 = some (.fence 4) ∧ decodeTableWord 32 0x4C000060 = some .iacq ∧
    decodeTableWord 32 0x4CA00070 = some (.logstat 5) ∧ decodeTableWord 32 0x98A61000 = some (.lblget 5 6 2) ∧
    decodeTableWord 32 0x98A60010 = some (.lblpage 5 6) ∧ decodeTableWord 32 0x98A63820 = some (.lblsub 5 6 7) := by
  decide +kernel

/-- 13: words of the queue, array, tile and copy families. -/
theorem test_decode_engines :
    decodeTableWord 32 0x848C0000 = some (.qbind 2 6) ∧ decodeTableWord 32 0x84800001 = some (.qunbind 2) ∧
    decodeTableWord 32 0x848C0002 = some (.qpush 2 6) ∧ decodeTableWord 32 0x84920403 = some (.qpop 2 9 4) ∧
    decodeTableWord 32 0x848C0004 = some (.qpushv 2 6) ∧ decodeTableWord 32 0x848C0105 = some (.qpopv 2 6 1) ∧
    decodeTableWord 32 0x8492A006 = some (.qpopt 2 9 10) ∧ decodeTableWord 32 0x84920007 = some (.qstat 2 9) ∧
    decodeTableWord 32 0x88000002 = some (.mlease 2) ∧ decodeTableWord 32 0x88000010 = some .mrels ∧
    decodeTableWord 32 0x88263820 = some (.mma 1 6 7) ∧ decodeTableWord 32 0x88200030 = some (.mzero 1) ∧
    decodeTableWord 32 0x88000040 = some (.mdrain 0) ∧ decodeTableWord 32 0x88A00050 = some (.mprog 5) ∧
    decodeTableWord 32 0x88000060 = some .mresume ∧ decodeTableWord 32 0x88060070 = some (.mscale 6) ∧
    decodeTableWord 32 0x88A00080 = some (.mstat 5) ∧ decodeTableWord 32 0x8C260000 = some (.zbind 1 6) ∧
    decodeTableWord 32 0x8C200010 = some (.zunbind 1) ∧ decodeTableWord 32 0x8C813820 = some (.zget 4 1 7) ∧
    decodeTableWord 32 0x8CA10030 = some (.zlbl 5 1) := by decide +kernel

/-- 13, 15, 17: words of the copy, task and system families. -/
theorem test_decode_system :
    decodeTableWord 32 0x90A61000 = some (.copy 5 6 2) ∧ decodeTableWord 32 0x90A61010 = some (.copym 5 6 2) ∧
    decodeTableWord 32 0x90A61020 = some (.copyrd 5 6 2) ∧ decodeTableWord 32 0x90060030 = some (.bfree 6) ∧
    decodeTableWord 32 0x90051042 = some (.cpwait 5 2 2) ∧ decodeTableWord 32 0x90A01050 = some (.cpmark 5 2) ∧
    decodeTableWord 32 0x90051060 = some (.cpui 5 2) ∧ decodeTableWord 32 0x90A01070 = some (.cpstat 5 2) ∧
    decodeTableWord 32 0x94060000 = some (.tspawn 6) ∧ decodeTableWord 32 0x94000010 = some .commit ∧
    decodeTableWord 32 0x94000820 = some (.tabort 1) ∧ decodeTableWord 32 0x94A63830 = some (.depset 5 6 7) ∧
    decodeTableWord 32 0x94060040 = some (.depdec 6) ∧ decodeTableWord 32 0x94A60052 = some (.depget 5 6 2) ∧
    decodeTableWord 32 0x94A00060 = some (.tself 5) ∧ decodeTableWord 32 0x94060070 = some (.twork 6) ∧
    decodeTableWord 32 0x94A60081 = some (.tpin 5 6 1) := by decide +kernel

theorem test_decode_privileged :
    decodeTableWord 32 0x9CA00010 = some (.srd 5 1) ∧ decodeTableWord 32 0x9C050011 = some (.swr 0 5 1) ∧
    decodeTableWord 32 0x9C061002 = some (.sset 0 6 0x100) ∧ decodeTableWord 32 0x9C0610A3 = some (.sclr 0 6 0x10A) ∧
    decodeTableWord 32 0x9C000074 = some (.scall 7) ∧ decodeTableWord 32 0x9C000125 = some (.mcall 0x12) ∧
    decodeTableWord 32 0x9C000006 = some .rets ∧ decodeTableWord 32 0x9C000007 = some .retm ∧
    decodeTableWord 32 0x9C000008 = some .retu ∧ decodeTableWord 32 0x9C000009 = some .idle ∧
    decodeTableWord 32 0x9C00000A = some .halt ∧ decodeTableWord 32 0x9C00003B = some (.brk 3) ∧
    decodeTableWord 32 0x9C09200C = some (.trapi 9 0x200) ∧ decodeTableWord 32 0x9C26000D = some (.xlinvS2 6) := by
  decide +kernel

/-- 03 R52, R53, R57: words outside the map, with a field that must be zero, or with a reserved value. -/
theorem test_decode_refuses :
    decodeTableWord 32 0 = none ∧ decodeTableWord 32 0xFFFFFFFF = none ∧ decodeTableWord 32 0x04A638D1 = none ∧
    decodeTableWord 32 0x49095651 = none ∧ decodeTableWord 32 0x9C00000E = none ∧
      decodeTableWord 32 0xA0000040 = none := by
  decide +kernel

/-! ### Single steps -/

/-- The state with given x4 and x5. -/
noncomputable def stXY (a b : Dword) : State := stH { hart1 with x := (hart1.x.set 4 a).set 5 b }

/-- The hart after an instruction at that state and the arrival of its result. -/
noncomputable def after (i : Instr) (a b : Dword) : Hart :=
  (nextOf (exec (.classLWriteback 0) (nextOf (exec i (stXY a b))))).hart

/-- x3 after an instruction at that state. -/
noncomputable def x3 (i : Instr) (a b : Dword) : Dword := (after i a b).rx 3

/-- 07 R111: the rows of the division table. -/
theorem test_division_table :
    x3 (.div 3 4 5 0) (-7) 2 = -3 ∧ x3 (.rem 3 4 5 0) (-7) 2 = -1 ∧ x3 (.div 3 4 5 0) 7 (-2) = -3 ∧
    x3 (.rem 3 4 5 0) 7 (-2) = 1 ∧ x3 (.div 3 4 5 0) 5 0 = -1 ∧ x3 (.rem 3 4 5 0) 5 0 = 5 ∧
    x3 (.div 3 4 5 0) 0x8000000000000000 (-1) = 0x8000000000000000 ∧
    x3 (.rem 3 4 5 0) 0x8000000000000000 (-1) = 0 ∧ x3 (.divn 3 4 5 0) 7 0 = 0xFFFFFFFFFFFFFFFF ∧
    x3 (.remn 3 4 5 0) 7 0 = 7 ∧ x3 (.divn 3 4 5 0) 0xFFFFFFFFFFFFFFFF 2 = 0x7FFFFFFFFFFFFFFF := by
  decide +kernel

/-- 07 R109, R112, R114: wrap, shift amounts past the width, sign and zero extension. -/
theorem test_integer_corners :
    x3 (.add 3 4 5) 0xFFFFFFFFFFFFFFFF 1 = 0 ∧ x3 (.sll 3 4 5) 1 65 = 2 ∧ x3 (.sra 3 4 5) 0x8000000000000000 63 = -1 ∧
    x3 (.sraw 3 4 5) 0x80000000 31 = -1 ∧ x3 (.addw 3 4 5) 0x7FFFFFFF 1 = 0xFFFFFFFF80000000 ∧
    x3 (.ror 3 4 5) 1 1 = 0x8000000000000000 ∧ x3 (.clz 3 4) 0 0 = 64 ∧ x3 (.ctz 3 4) 8 0 = 3 ∧
    x3 (.mulh 3 4 5) (-1) (-1) = 0 ∧ x3 (.mulhn 3 4 5) (-1) (-1) = 0xFFFFFFFFFFFFFFFE ∧
    x3 (.bswap 3 4) 0x0102030405060708 0 = 0x0807060504030201 ∧ x3 (.andi 3 4 0xFF00) (-1) 0 = 0xFF00 ∧
    x3 (.sext 3 4 1) 0x8000 0 = 0xFFFFFFFFFFFF8000 ∧ x3 (.zext 3 4 1) 0x18000 0 = 0x8000 ∧
    x3 (.seth 3 2 0x1234) 0 0 = 0x123400000000 := by decide +kernel

/-- 05 R82, R85 to R88: 1 + 1 is 2, a signalling NaN gives the canonical NaN and NV, 1 / 0 is infinity with DZ, and the
square root of -1 is the canonical NaN. -/
theorem test_float_corners :
    x3 (.fadd 3 4 5 1 0) 0x3FF0000000000000 0x3FF0000000000000 = 0x4000000000000000 ∧
    x3 (.fadd 3 4 5 1 0) 0x7FF0000000000001 0x3FF0000000000000 = 0x7FF8000000000000 ∧
    (after (.fadd 3 4 5 1 0) 0x7FF0000000000001 0x3FF0000000000000).fflags = 1 ∧
    x3 (.fdiv 3 4 5 1 0 0) 0x3FF0000000000000 0 = 0x7FF0000000000000 ∧
    (after (.fdiv 3 4 5 1 0 0) 0x3FF0000000000000 0).fflags = 2 ∧
    x3 (.fsqrt 3 4 1 0 0) 0xBFF0000000000000 0 = 0x7FF8000000000000 ∧
    x3 (.fmin 3 4 5 1) 0x8000000000000000 0 = 0x8000000000000000 ∧ x3 (.fcvti 3 4 2 1 3) 0xC00C000000000000 0 = -3 := by
  decide +kernel

/-- A register of 16 lanes of 32 bits. -/
def lanes32 (f : Nat → Nat) : VReg := BitVec.ofNat 512 (packLanes 32 ((List.range 16).map f))

/-- The state of the example of 09 R160 with given VT.MP and VT.TP. -/
noncomputable def stVec (mp tp : Dword) : State :=
  stH { hart1 with
    vt := 0x502 + tp * 0x8000 + mp * 0x10000
    v := ((hart1.v.set 2 (lanes32 fun i => i)).set 3 (lanes32 fun _ => 100)).set 1 (lanes32 fun _ => 7)
    m := hart1.m.set 3 0x16 }

/-- 09 R160: the table of the example under R146. -/
theorem test_vector_policies :
    let out := fun mp tp => (nextOf (exec (.vadd 1 2 3 3 0 0) (stVec mp tp))).hart.rv 1
    (List.range 7).map (lane (out 0 0) 32) = [7, 101, 102, 7, 104, 7, 7] ∧
    (List.range 7).map (lane (out 1 0) 32) = [0, 101, 102, 0, 104, 7, 7] ∧
    (List.range 7).map (lane (out 0 1) 32) = [7, 101, 102, 7, 104, 0, 0] := by decide +kernel

/-- 09 R173: VSETT with 0x140A writes VT and the active length 16. -/
theorem test_vsett :
    (nextOf (exec (.vsett 5 6) (stH { hart1 with x := hart1.x.set 6 0x140A }))).hart.vt = 0x140A ∧
    (nextOf (exec (.vsett 5 6) (stH { hart1 with x := hart1.x.set 6 0x140A }))).hart.rx 5 = 16 := by decide +kernel

/-- 07 R121, 11 R189: a store to the own slice is private, its bytes stand in memory, and the load reads them. -/
theorem test_store_load :
    let s := nextOf (exec (.st 5 1 0 3) (stXY 0 0x8877665544332211))
    memGet s.mem (sliceKey 0 0x9000) = 0x11 ∧ memGet s.mem (sliceKey 0 0x9007) = 0x88 ∧ s.core.log = [] ∧
    (nextOf (exec (.lds 3 1 1 1 0) s)).hart.rx 3 = 0x4433 ∧
    (nextOf (exec (.lds 3 1 7 0 0) s)).hart.rx 3 = 0xFFFFFFFFFFFFFF88 := by decide +kernel

/-- 11 R204, R224: an atomic on the own slice returns the old word and leaves the sum. -/
theorem test_atomic :
    let s := nextOf (exec (.amoAdd 3 1 4 1 0 0) (nextOf (exec (.st 5 1 0 2) (stXY 3 0xFFFFFFFE))))
    s.hart.rx 3 = 0xFFFFFFFFFFFFFFFE ∧ memRead s.mem (sliceKey 0 0x9000) 8 = 1 := by decide +kernel

/-- 07 R132 to R134: a branch not taken, a call and a jump back. -/
theorem test_control :
    (nextOf (exec (.brcEq 1 4 5 0) (stXY 1 2))).hart.pc = 0x4000000000008004 ∧
    (nextOf (exec (.brcLt 1 4 5 0) (stXY (-1) 2))).hart.pc = 0x5000 ∧
    (nextOf (exec (.call 3 1) st)).hart.pc = 0x5000 ∧ (nextOf (exec (.call 3 1) st)).hart.rx 3 = 0x4000000000008004 ∧
    (nextOf (exec (.j (-1)) st)).hart.pc = 0x4000000000007FFC := by decide +kernel

/-- 07 R136: the instruction after J comes 2 cycles late, after RET 3, after a JMPB to a b register just written 2. -/
theorem test_bubbles :
    (nextOf (exec (.j 2) st)).hart.redirect = st.cycle + 3 ∧ (nextOf (exec (.ret 4) (stXY 0x5000 0))).hart.redirect = st.cycle + 4 ∧
    (nextOf (exec (.jmpb 1) (nextOf (exec (.pbrr 4 1) (stXY 0x5000 0))))).hart.redirect = st.cycle + 3 ∧
    (nextOf (exec (.brcEq 1 4 5 0) (stXY 1 2))).hart.redirect = 0 := by decide +kernel

/-- 17 R315, R322, R346: SCALL saves the next address and its code; BREAK saves its own; a privileged instruction in user
mode traps; RETS goes back. -/
theorem test_traps :
    let s := nextOf (exec (.scall 7) (stH { hart1 with sup := { TrapRegs.fresh with tvec := 0x4000, status := 1 } }))
    s.hart.mode = .supervisor ∧ s.hart.pc = 0x4000 ∧ s.hart.sup.epc = 0x4000000000008004 ∧ s.hart.sup.cause = 20 ∧
    s.hart.sup.tval = 7 ∧ s.hart.sup.status = 0x40 ∧
    (nextOf (exec (.brk 3) st)).hart.sup.epc = 0x4000000000008000 ∧
    (nextOf (exec .rets st)).hart.sup.cause = 26 ∧
    (nextOf (exec .rets s)).hart.mode = .user ∧ (nextOf (exec .rets s)).hart.pc = 0x4000000000008004 ∧
    (nextOf (exec .rets s)).hart.sup.status = 0x41 := by decide +kernel

/-- 17 R345, 03 R41: SSET returns the old FRM; a write of 5 is ILLEGAL and keeps it. -/
theorem test_system_register :
    (nextOf (exec (.sset 3 4 1) (stXY 3 0))).hart.frm = 3 ∧ (nextOf (exec (.sset 3 4 1) (stXY 3 0))).hart.rx 3 = 0 ∧
    (nextOf (exec (.swr 3 4 1) (stXY 5 0))).hart.frm = 0 ∧ (nextOf (exec (.swr 3 4 1) (stXY 5 0))).hart.sup.cause = 0 ∧
    (nextOf (exec (.srd 3 0x800) st)).hart.rx 3 = 0x10202020 ∧
      (nextOf (exec (.srd 3 0x100) st)).hart.sup.cause = 26 := by
  decide +kernel

/-- Placing a word and stepping runs it as the first instruction after reset. -/
theorem test_first_instruction :
    (nextOf (step (State.reset.withFetchWord 32 0x0842FFC0))).hart.rx 2 = -64 ∧
    (nextOf (step (State.reset.withFetchWord 32 0x9C000074))).hart.sup.cause = 20 := by decide +kernel

/-! ### The states that meet the hypotheses of the statements -/

/-- The value of a result. -/
def okOf {ε α : Type} : Except ε α → Option α
  | .ok a => some a
  | .error _ => none

/-- The failure of a result. -/
def errOf {ε α : Type} : Except ε α → Option ε
  | .ok _ => none
  | .error e => some e

/-- A frame of two ADDs in its iteration it of 3, at the word pos. -/
def frame1 (it pos : Nat) : Frame :=
  { words := [0x04642800, 0x04642800], iters := 3, sd := 1, sa := 0, sb := 0, sc := 0, iter := it, pos := pos
    base := 0x4000000000007FF0 }

theorem met_RegisterWrites :
    (({ hart1 with uih := true } : Hart).uih = true ∧ 24 ≤ (24 : Reg).toNat) ∧
    ¬ (({ hart1 with uih := true } : Hart).uih = true ∧ 24 ≤ (23 : Reg).toNat) ∧
    ¬ (hart1.uih = true ∧ 24 ≤ (31 : Reg).toNat) ∧ (0 : Reg) = 0 := by decide

theorem met_RetirementAdvances :
    hart1.replayEnd = none ∧ hart1.frame = none ∧
    (∀ it pos, ({ hart1 with frame := some (frame1 it pos) } : Hart).replayEnd = none) ∧
    (frame1 0 0).pos + 1 < (frame1 0 0).words.length ∧
    ((frame1 1 1).words.length ≤ (frame1 1 1).pos + 1 ∧ (frame1 1 1).iter + 1 < (frame1 1 1).iters) ∧
    (frame1 2 1).words.length ≤ (frame1 2 1).pos + 1 ∧ (frame1 2 1).iters ≤ (frame1 2 1).iter + 1 :=
  ⟨rfl, rfl, fun _ _ => rfl, by decide, by decide, by decide⟩

theorem met_IntegerOtherResults :
    (0 : BitVec 4).toNat < 3 ∧ (2 : BitVec 4).toNat < 3 ∧ 3 ≤ (3 : BitVec 4).toNat ∧
      3 ≤ (15 : BitVec 4).toNat := by decide

theorem met_ControlTransfers :
    hart1.rx 4 = hart1.rx 4 ∧ hart1.rx 4 ≠ hart1.rx 5 ∧ (hart1.rx 5).toInt < (hart1.rx 4).toInt ∧
    (hart1.rx 4).toInt ≤ (hart1.rx 4).toInt ∧ (hart1.rx 4).toNat < (hart1.rx 5).toNat ∧
    (hart1.rx 4).getLsbD ((hart1.rx 0).toNat % 64) = true ∧ (hart1.rx 6).getLsbD ((hart1.rx 7).toNat % 64) = false ∧
    (hart1.rx 1).toNat % 4 = 0 ∧ (hart1.rx 0).toNat % 4 = 0 ∧ (hart1.rx 4).toNat % 4 ≠ 0 ∧
    (hart1.rx 5).toNat % 4 ≠ 0 := by decide +kernel

theorem met_FloatingRoundedResults :
    ((4 : BitVec 3) ≠ 5 ∧ (4 : BitVec 3) ≠ 6) ∧ ((7 : BitVec 3) ≠ 5 ∧ (7 : BitVec 3) ≠ 6) ∧
    ((5 : BitVec 3) = 5 ∨ (5 : BitVec 3) = 6) ∧ ((6 : BitVec 3) = 5 ∨ (6 : BitVec 3) = 6) := by decide

theorem met_FloatingCompareAndConversionResults :
    ((4 : BitVec 3) ≠ 5 ∧ (4 : BitVec 3) ≠ 6) ∧ ((6 : BitVec 3) = 5 ∨ (6 : BitVec 3) = 6) ∧
    sourceType 0 ≠ 1 ∧ sourceType 0 = 2 ∧ sourceType 3 ≠ 2 ∧ sourceType 3 = 1 ∧
    ((Fmt.ofTy 0).val 0x7FC00000).isNan = true ∧ ((Fmt.ofTy 0).val 0x7F800001).isNan = true ∧
    (((Fmt.ofTy 0).val 0x7F800000).isNan || ((Fmt.ofTy 0).val 0x80000000).isNan) = false := by decide +kernel

theorem met_FloatingArithmeticLaws :
    (Fmt.f64.val 0x7FF8000000000000).isNan = true ∧ Fmt.f64.val 0x7FF0000000000001 = .nan true ∧
    (Fmt.f16.val 0x7E00).isNan = true ∧ ((16 : Flags) ≠ 0 ∧ st.cycle + 64 ≤ 64) ∧ (0 : Flags) = 0 := by
  decide +kernel

/-- Codes of f16: 1, -1, 0, the largest finite and the one below, the smallest normal and the smallest. -/
theorem codes16 :
    [0x3C00, 0xBC00, 0, 0x7BFF, 0x7BFE, 0x400, 1].map Fmt.f16.val =
      [.fin false 1024 (-10), .fin true 1024 (-10), .fin false 0 (-24), .fin false 2047 5, .fin false 2046 5,
        .fin false 1024 (-24), .fin false 1 (-24)] := by decide +kernel

theorem reals16 :
    Fmt.f16.real 0x3C00 = 1 ∧ Fmt.f16.real 0xBC00 = -1 ∧ Fmt.f16.real 0 = 0 ∧ Fmt.f16.real 0x7BFF = 65504 ∧
    Fmt.f16.real 0x7BFE = 65472 ∧ Fmt.f16.real 0x400 = 2⁻¹ ^ 14 ∧ Fmt.f16.real 1 = 2⁻¹ ^ 24 := by
  obtain ⟨h1, h2, h3, h4, h5, h6, h7⟩ := by simpa using codes16
  simp only [Fmt.real, h1, h2, h3, h4, h5, h6, h7, FVal.real]
  norm_num [zpow_neg]

/-- A sum that is 0 and one that is not, a quotient, a root and their exceptions; and the clauses of what an operation
delivers: overflows of the modes at their edges, one short of it, tiny values and one at the edge. -/
theorem met_FloatingArithmeticLaws_finite :
    (∀ c ∈ [0x3C00, 0xBC00, 0, 0x7BFF, 1], Fmt.f16.Finite c) ∧
    (let x := Fmt.f16.real 0x3C00
     let y := Fmt.f16.real 0xBC00
     let z := Fmt.f16.real 0
     x + x ≠ 0 ∧ x + y = 0 ∧ x - y ≠ 0 ∧ x - x = 0 ∧ x * y ≠ 0 ∧ x * z = 0 ∧ z = 0 ∧ 0 < x ∧ y < 0 ∧
       x * x + x ≠ 0 ∧ -(x * x) + x = 0 ∧ x * x + -x = 0) ∧
    (Overflows .f16 .rne 65520 ∧ ¬ Overflows .f16 .rne 65519 ∧ Overflows .f16 .rtz 65536 ∧ ¬ Overflows .f16 .rtz 65535 ∧
      Overflows .f16 .rdn (-65505) ∧ ¬ Overflows .f16 .rdn 65535 ∧ Overflows .f16 .rup 65505 ∧
      ¬ OverflowsToInfinity .rdn 65536 ∧ OverflowsToInfinity .rdn (-65505)) ∧
    (Tiny .f16 .rne (2⁻¹ ^ 25) ∧ ¬ Tiny .f16 .rtz (2⁻¹ ^ 14) ∧ Tiny .f16 .rup (-(2⁻¹ ^ 15)) ∧
      Fmt.f16.real 0x3C00 ≠ 2⁻¹ ^ 25) := by
  have hm : Fmt.f16.maxCode = 0x7BFF := by decide +kernel
  have hn : 2 ^ Fmt.f16.f = 0x400 := by decide +kernel
  obtain ⟨h1, h2, h3, h4, h5, h6, h7⟩ := reals16
  refine ⟨?_, ?_, ?_, ?_⟩
  · unfold Fmt.Finite; rw [hm]; decide +kernel
  · norm_num [h1, h2, h3]
  · simp only [Overflows, OverflowsToInfinity, hm, h4, h5, show (0x7BFF : Nat) - 1 = 0x7BFE from rfl]
    norm_num [abs_of_pos]
  · simp only [Tiny, hn, h6, h7, h1]
    norm_num [abs_of_pos]

/-- The hart with 8 bytes at its own slice and a value in x4. -/
noncomputable def stMem (v : Dword) : State :=
  { stXY v 0 with mem := memWrite [] (sliceKey 0 0x9000) 8 0x8877665544332211 }

/-- A load address that exists and faults nowhere, one of another core's slice without a window, and one that does
not exist. -/
theorem met_ScalarLoadResults :
    baseAddress st.hart 2 0x4000000000000FFC 8 = none ∧
    (baseAddress st.hart 4 0x4000000000009000 8 = some (0x4000000000009000, false) ∧
      addrFault (stMem 0) (stMem 0).agent false true (parts 0x4000000000009000 8) = none ∧
      (okOf (loadBytes (stMem 0) 0x4000000000009000 8).2).map Prod.fst =
        some [0x11, 0x22, 0x33, 0x44, 0x55, 0x66, 0x77, 0x88]) ∧
    (baseAddress st.hart 4 0x4000000000000FF8 8 = some (0x4000000000000FF8, false) ∧
      (addrFault st st.agent false true (parts 0x4000000000000FF8 8)).isSome = true) ∧
    (addrFault st st.agent false true (parts (sAddress 4 0x9000) 8) = none ∧
      (errOf (loadBytes st (sAddress 4 0x9000) 8).2).isSome = true) := by decide +kernel

theorem met_ScalarStoreResults :
    baseAddress st.hart 2 0x4000000000000FFC 8 = none ∧
    (baseAddress st.hart 4 0x4000000000009000 8 = some (0x4000000000009000, false) ∧
      addrFault st st.agent true true (parts 0x4000000000009000 8) = none ∧
      piecesOf 0x4000000000009000 ((List.range 8).map fun j => BitVec.ofNat 8 ((st.hart.rx 5).toNat / 256 ^ j)) false ≠ [] ∧
      inTask st.hart = false) ∧
    (baseAddress st.hart 4 0x4000000000000FF8 8 = some (0x4000000000000FF8, false) ∧
      (addrFault st st.agent true true (parts 0x4000000000000FF8 8)).isSome = true) ∧
    isPrivate st st.cid 0x4000000000009000 = true ∧ isPrivate st st.cid 0x0000000000040000 = false := by decide +kernel

theorem sub_zero (m : Mask) : subMask 0 m = true := by simp [subMask]

theorem st_banks : BanksHoldLabel st := by
  have h : hlaMask st = 0 := by decide +kernel
  intro p _ b
  rw [h]
  exact sub_zero _

/-- A piece of the first 8 bytes of a sector. -/
def piece1 (a : Dword) : Piece := { addr := a, mask := 0xFF, data := 0x0102030405060708, stk := false }

theorem met_PrivatePiecesWriteTheirBytes : Inv st ∧ BanksHoldLabel st ∧
    ∀ x ∈ [piece1 0x4000000000009000] ++ [piece1 0x4000000000009020],
      isPrivate st st.cid x.addr = true ∧ x.addr.toNat % 32 = 0 :=
  ⟨(by decide +kernel : Memory.wf st.mem = true), st_banks, by decide +kernel⟩

theorem met_PrivatePiecesWriteTheirBytes_load : Inv st ∧ BanksHoldLabel st ∧ st.hgid < 16384 ∧ [1, 2].length = 2 ∧
    (0x400000000000901E : Dword).toNat % 32 + 2 ≤ 32 ∧ isPrivate st st.cid 0x400000000000901E = true ∧
    st.core.log = [] ∧ isMarked st (sectorKey (sliceKey st.cid ((0x400000000000901E : Dword).toNat % 2 ^ 19))) =
      false :=
  ⟨(by decide +kernel : Memory.wf st.mem =
    true), st_banks, by decide +kernel, rfl, by decide +kernel, by decide +kernel, by decide +kernel,
    by decide +kernel⟩

/-- A record of that piece, of a task or not. -/
noncomputable def rec1 (addr : Dword) (task : Bool) : Record :=
  recordOf st (piece1 addr) (if task then some 7 else none)

/-- A record that forwards, and one of another address. -/
theorem met_LogForwarding :
    (let r := rec1 0x40000 false
     7 < 32 ∧ r.addr = 0x40000 ∧ ((0x40000 : Dword).getLsbD 63 = true ∨ r.root = 0) ∧ r.task = false ∧
       r.mask.getLsbD 7 = true ∧ r.mask.getLsbD 8 = false) ∧
    (rec1 0x40000 true).tag = 7 ∧ (rec1 0x40020 false).addr ≠ 0x40000 := by decide +kernel

/-- A sector of the own slice, one in error, one in the log area and one of another core; loads of one sector and of two,
with errors in the first and in the second. -/
theorem met_LogForwarding_load :
    let s := stMem 0
    let bad := fun (o : Nat) => { s with pk := { s.pk with marked := [sliceKey 0 o] } }
    let near := fun (s : State) (e : Dword) => { s with hart := { s.hart with near := ownSlice s s.cid e } }
    let reads := fun (s : State) (e : Dword) (n : Nat) =>
      let r := readPart (near s e) needRead e (32 - e.toNat % 32)
      let q := readPart r.1 needRead (e + BitVec.ofNat 64 (32 - e.toNat % 32)) (n - (32 - e.toNat % 32))
      ((okOf r.2).isSome, (okOf q.2).isSome)
    let fetched := fun (s : State) (e : Dword) => (okOf (readSector s s.agent needRead e).2).map Fetched.bad
    formOf s s.cid 0x4000000000009000 = .slice 0 0x9000 ∧ (0 : BitVec 20).toNat % 4096 = s.cid ∧
    inLog s.core (0x9000 / 32 * 32) 32 = false ∧ inLog s.core (0x54000 / 32 * 32) 32 = true ∧
    fetched s 0x4000000000009000 = some false ∧ fetched (bad 0x9000) 0x4000000000009000 = some true ∧
    fetched s (sAddress 4 0x9000) = none ∧
    8 ≤ 32 - (0x4000000000009018 : Dword).toNat % 32 ∧ 32 - (0x4000000000009019 : Dword).toNat % 32 < 8 ∧
    (okOf (readPart (near s 0x4000000000009018) needRead 0x4000000000009018 8).2).isSome = true ∧
    (errOf (readPart (near (bad 0x9000) 0x4000000000009018) needRead 0x4000000000009018 8).2).isSome = true ∧
    reads s 0x4000000000009019 8 = (true, true) ∧ (reads (bad 0x9000) 0x4000000000009019 8).1 = false ∧
    reads (bad 0x9020) 0x4000000000009019 8 = (true, false) := by decide +kernel

/-- The state whose x4 holds an address, with a vector type. -/
noncomputable def stT (vt e : Dword) : State := stH { hart1 with x := hart1.x.set 4 e, vt := vt }

/-- The addresses of a unit-stride access of 64-bit lanes from x4. -/
noncomputable def unit8 (s : State) (k : Nat) : Option Dword × Dword :=
  ((baseAddress s.hart 4 (s.hart.rx 4 + dw (k * 8)) 8).map Prod.fst, s.hart.rx 4 + dw (k * 8))

/-- Eight 64-bit lanes that read; a lane in the log at the slice's end, whose address faults; and, under VLD.ff, a
fault in the first lane and one past it. -/
theorem met_VectorLoadResults :
    (let s := stT 3 0x4000000000009000
     laneAddrFault s false 8 (unit8 s) [0, 1, 2, 3, 4, 5, 6, 7] = none ∧
       (readLanes s true 8 (unit8 s) [0, 1, 2, 3, 4, 5, 6, 7] [] ⟨[], 0, none⟩).2.fault = none ∧ s.hart.et < 15) ∧
    (let s := stT 3 0x4000000000053FF0
     (laneAddrFault s false 8 (unit8 s) [0, 1, 2, 3]).isSome = true ∧
       ((readLanes s true 8 (unit8 s) [0, 1, 2, 3] [] ⟨[], 0, none⟩).2.fault.map Prod.fst) = some 2) ∧
    (let s := stT 3 (sAddress 4 0x9000)
     laneAddrFault s false 8 (unit8 s) [0, 1] = none ∧
       ((readLanes s true 8 (unit8 s) [0, 1] [] ⟨[], 0, none⟩).2.fault.map Prod.fst) = some 0) ∧
    (stT 14 0).hart.et < 15 ∧ 15 ≤ (stT 15 0).hart.et := by decide +kernel

theorem met_VectorStoreResults :
    (let s := stT 3 0x4000000000009000
     laneAddrFault s true 8 (unit8 s) [0, 1, 2, 3, 4, 5, 6, 7] = none ∧ s.hart.et < 15) ∧
    (let s := stT 3 0x4000000000053FF0
     (laneAddrFault s true 8 (unit8 s) [0, 1, 2, 3]).isSome = true) ∧
    (stT 14 0).hart.et < 15 ∧ 15 ≤ (stT 15 0).hart.et := by decide +kernel

/-- A place of HBM whose page does not absorb labels. -/
def place1 : Place := { handle := 0, key := 0x50000, leaf := 0x1F, ia := 0x50000, bits := 13, tenant := 0, copied := false }

theorem met_AtomicOperations :
    (32 = 32 ∨ 32 = 64) ∧ 0xFFFFFFFF < 2 ^ 32 ∧ 0xFFFFFFFFFFFFFFFF < 2 ^ 64 ∧
    (okOf (amoLabel st st.agent { key := sliceKey 0 0x9000, place := none, mask := 0 } 1)).isSome = true ∧
    errOf (amoLabel st st.agent { key := 0x50000, mask := 0, place := some place1 } 1) = some .label := by
  decide +kernel

/-- A state with records of the location in its log, one held. -/
noncomputable def logged (held pubd : Bool) : State :=
  let s := stT 0 0x4000000000009000
  { s with core := { s.core with
      log := [{ recordOf s (piece1 0x4000000000009000) none with pubd := pubd }]
      held := if held then some (s.core.nextRid, ⟨.label, 0x4000000000009000⟩) else none } }

/-- The hart waits for the release of a stamp that the core is forming. -/
noncomputable def forming1 : State :=
  let s := stT 0 0x4000000000009000
  { s with
    hart := { s.hart with waitStamp := some 0x100000 }
    core := { s.core with forming := [{ stamp := 0x100000, bound := 0, set := [], sectors := [] }] } }

theorem met_AtomicInstructions :
    amoIssueFault (stT 0 0x4000000000009000) 1 0x4000000000009000 8 = none ∧
    (amoIssueFault st 1 0x4000000000009004 8).isSome = true ∧ amoIssueFault st 1 0x4000000000009004 4 = none ∧
    (let u := logged true true
     u.core.log.filter (overlapsLocation u 0x4000000000009000 8) ≠ [] ∧ (heldOf u u.hgid).isSome = true ∧
       u.core.log.any (fun x => !x.pubd || decide (u.core.nextRid ≤ x.rid)) = true ∧
       u.core.log.any (fun x => !x.pubd || decide (u.core.nextRid + 1 ≤ x.rid)) = false) ∧
    (let u := logged false false
     u.core.log.filter (overlapsLocation u 0x4000000000009000 8) ≠ [] ∧ heldOf u u.hgid = none) ∧
    (let u := stT 0 0x4000000000009000
     u.core.log.filter (overlapsLocation u 0x4000000000009000 8) = [] ∧
       (okOf (amoLocate u u.agent 1 0x4000000000009000).2).isSome = true ∧
       (errOf (amoLocate u u.agent 1 (sAddress 4 0x9000)).2) = some .win ∧
       (okOf (amoApply u u.agent { key := sliceKey 0 0x9000, place := none, mask := 0 } 1 64 7 0 0)).isSome = true) ∧
    (let r := afterRelease (stT 0 0x4000000000009000)
     isForming r.1.core r.2 = false) ∧
    (let r := afterRelease forming1
     isForming r.1.core r.2 = true) := by decide +kernel

/-- A core of the same tenant with a completed release of the stamp. -/
noncomputable def done1 : State :=
  { st with cores := assocSet st.cores 4 { getCore st 4 with
      done := [{ stamp := 0x100004, bound := 0, set := [], sectors := [sliceKey 4 0x9000] }] } }

theorem met_ReleasesAndAcquires :
    st.core.held = none ∧ st.core.lclk < 2 ^ 44 - 1 ∧ (formRelease st st.cid).2 = 0x100000 ∧
    tenantOf done1 done1.cid = tenantOf done1 4 ∧ (chosenRelease (getCore done1 4) 0x100004).isSome = true ∧
    chosenRelease (getCore st 4) 0x100004 = none ∧
    (let s := { st with pk := { pack1 with parts := [part0, { part0 with handle := leafOf 512, tenant := 1 }] } }
     tenantOf s s.cid ≠ tenantOf s 512) := by decide +kernel

/-- A core's only completed release. -/
def rel1 (core k : Nat) (set : List Acquired) : Release :=
  { stamp := BitVec.ofNat 64 (k * 2 ^ 20 + core), bound := 0, set := set.map fun a => (a, 0), sectors := [sliceKey core 0x9000] }

/-- Core 4's release names one of core 8, and core 8's a region with core 12 in it; no set names core 16's. -/
noncomputable def chained : State :=
  [(4, [Acquired.pair 8 0x300008]), (8, [.region 0 12]), (12, []), (16, [])].foldl
    (fun s x => { s with cores := assocSet s.cores x.1 { getCore s x.1 with done := [rel1 x.1 3 x.2] } }) st

/-- Releases that sets name in turn; stamps that name a completed release, none, and a saturated one; and a release
that forms with its pre-empted launch. -/
theorem met_ReleasesAndAcquires_sets :
    (let s := chained
     tenantOf s s.cid = tenantOf s 4 ∧ chosenRelease (getCore s 4) 0x300004 = some (rel1 4 3 [.pair 8 0x300008]) ∧
       releasesIn s s.cid (1 + setEntries s + 1) [.pair 4 0x300004] [] =
         [rel1 4 3 [.pair 8 0x300008], rel1 8 3 [.region 0 12], rel1 12 3 []]) ∧
    (let c := getCore chained 4
     let named := fun (st : Dword) => st.toNat / 2 ^ 20 ≠ 0 ∧ st.toNat / 2 ^ 20 ≠ 2 ^ 44 - 1 ∧ ∃ r ∈ c.done, r.stamp = st
     named 0x300004 ∧ ¬ named 0x200004 ∧ ¬ named 4 ∧ ¬ named 0xFFFFFFFFFFF00004) ∧
    (tenantOf chained chained.cid).isSome = true ∧
    (let l := { launch1 with saved := [(4, { Core.fresh with forming := [rel1 4 3 []] })] }
     let s := { st with pk := { pack1 with launches := [l] } }
     mustWait s s.cid 4 0x300004 = true ∧ isForming (getCore s 4) 0x300004 = false ∧ mustWait s s.cid 4 0x400004 = false) := by
  decide +kernel

/-- The hart with an open window, with a fault or without, and a latency. -/
noncomputable def window (fault : Option Trap) (d : Dest) : State :=
  stH { hart1 with
    pend := [{ seq := 0, la := 5, site := ⟨0x4000000000007000, none⟩, out := false, dest := d, flags := 4, fp := true
               fault := fault }]
    issued := 3 }

/-- A store of the hart's was lost. -/
noncomputable def lost1 : State :=
  { st with core := { st.core with
      logerr := [{ hart := 0, lidx := 0, addr := 0x40000, pc := 0x4000000000008000 }] } }

theorem met_SynchronisationResults :
    (let s := window none .lease
     windowsWait { s with hart := { s.hart with lease := some (Lease.open 3) } } = true) ∧
    (windowsWait (window (some ⟨.win, 0x33⟩) (.x 9 5)) = false ∧
      ∃ p ∈ (window (some ⟨.win, 0x33⟩) (.x 9 5)).hart.pend, p.fault.isSome = true) ∧
    (let s := window none (.x 9 5)
     windowsWait s = false ∧ (∀ p ∈ s.hart.pend, p.fault = none) ∧ report (completeAll s s.hart.pend) = none) ∧
    (let s := lost1
     (report (completeAll s s.hart.pend)).isSome = true) ∧
    (forming1.hart.waitStamp = some 0x100000 ∧ isForming forming1.core 0x100000 = true) ∧
    (st.hart.waitStamp = none ∧ isForming st.core 0x100000 = false) ∧
    (let s := { forming1 with hart := { forming1.hart with waitStamp := none } }
     (0x100000 : Dword).toNat / 2 ^ 20 ≠ 0 ∧ (0x100000 : Dword).toNat % 2 ^ 20 = (s.pk.pkg * 4096 + s.cid) % 2 ^ 20 ∧
       (∃ r ∈ s.core.forming ++ s.core.done, r.stamp = 0x100000) ∧ mustWait s s.cid 0 0x100000 = true) ∧
    -- a release that forms with a launch saved from the core
    (let l := { launch1 with saved := [(0, { Core.fresh with forming := [rel1 0 1 []] })] }
     let s := { st with pk := { pack1 with launches := [l] } }
     s.hart.waitStamp = none ∧ (∃ l ∈ s.pk.launches, ∃ c ∈ l.saved, c.1 = s.cid ∧ ∃ r ∈ c.2.forming, r.stamp = 0x100000) ∧
       mustWait s s.cid 0 0x100000 = true) ∧
    (0x101000 : Dword).toNat % 2 ^ 20 / 4096 ≠ st.pk.pkg ∧ mustWait done1 done1.cid 4 0x100004 = false := by
  decide +kernel

theorem met_LabelInstructionResults :
    (2 : BitVec 5).toNat < 3 ∧ 3 ≤ (3 : BitVec 5).toNat ∧ namedMask st 0 = some 0 ∧ namedMask st 1 = some 1 ∧
    namedMask st 2 = none ∧ namedMask st 1024 = none ∧
    (addrFault st st.agent false true [(0x4000000000000FFF, 1)]).isSome = true ∧
    (addrFault st st.agent false true [(0x4000000000009000, 1)] = none ∧
      formOf st st.cid 0x4000000000009000 = .slice 0 0x9000 ∧ readRefused st st.cid 0 0x9000 = none) ∧
    (formOf st st.cid (sAddress 4 0x9000) = .slice 4 0x9000 ∧ readRefused st st.cid 4 0x9000 = some true) ∧
    (addrFault st st.agent false true [(0x9000, 1)] = none ∧ formOf st st.cid 0x9000 = .virt 0x9000 ∧
      (errOf (translate st st.agent needRead 0x9000).2).isSome = true) := by decide +kernel

/-- The hart about to run a REPF whose two words, as given, stand in its instruction buffer. -/
noncomputable def stFrame (w1 w2 : Nat) : State :=
  stH { hart1 with ibuf := [{ addr := 0x4000000000008000, root := 0, launch := 1, faultLo := none, faultHi := none
                              bytes := BitVec.ofNat 512 (w1 * 2 ^ 32 + w2 * 2 ^ 64) }] }

/-- Whether a capture gives words, and the fault it gives. -/
def captured : Captured → Option (List IWord) × Option (Cause × Dword)
  | .words ws => (some ws, none)
  | .fault c e => (none, some (c, e))
  | .wait => (none, none)

/-- The word of the instruction buffer at an address. -/
def heldWord (h : Hart) (a : Dword) : Option IWord :=
  (heldBlock h a).bind fun b => match blockWord b a with
    | .word w => some w
    | _ => none

theorem met_FrameExecution :
    captured (capture (stFrame 0x04642800 0x04642800) 0x4000000000008004 2 []).2 =
      (some [0x04642800, 0x04642800], none) ∧
    captured (capture (stFrame 0x04642800 0x5C000000) 0x4000000000008004 2 []).2 =
      (none, some (.frame, 0x4000000000008008)) ∧ captured (capture st 0x4000000000008004 2 []).2 = (none, none) ∧
    (frame1 0 0).iter = 0 ∧
    (let h := (stFrame 0x04642800 0x04642800).hart
     h.codeBase.toNat ≤ 0x4000000000008004 ∧ 0x4000000000008008 < h.codeBase.toNat + h.codeSize ∧
       heldWord h 0x4000000000008004 = some 0x04642800 ∧ heldWord h 0x4000000000008008 = some 0x04642800 ∧
       frameMajor ((0x04642800 : IWord).toNat / 2 ^ 26) = true) := by decide +kernel

theorem met_VectorIntegerResults :
    (stT 7 0).hart.et < 8 ∧ 8 ≤ (stT 8 0).hart.et ∧ 8 ≤ (stT 15 0).hart.et := by decide +kernel

theorem met_VectorFloatResults :
    (8 ≤ (stT 8 0).hart.et ∧ (stT 8 0).hart.et < 12) ∧ (8 ≤ (stT 11 0).hart.et ∧ (stT 11 0).hart.et < 12) ∧
    (stT 7 0).hart.et < 8 ∧ 12 ≤ (stT 12 0).hart.et := by decide +kernel

theorem met_VectorReductionResults :
    (stT 8 0).hart.et = 8 ∧ (stT 9 0).hart.et = 9 ∧ ((stT 10 0).hart.et ≠ 8 ∧ (stT 10 0).hart.et ≠ 9) ∧
    (stT 0 0).hart.et = 0 ∧ (stT 4 0).hart.et = 4 ∧ ((stT 5 0).hart.et ≠ 0 ∧ (stT 5 0).hart.et ≠ 4) ∧
    (stT 7 0).hart.et < 8 ∧ (8 ≤ (stT 11 0).hart.et ∧ (stT 11 0).hart.et < 12) := by decide +kernel

theorem met_VectorPermuteResults :
    (stT 14 0).hart.et < 15 ∧ 15 ≤ (stT 15 0).hart.et ∧ (stT 7 0).hart.et < 8 ∧ hart1.rm 1 = 0 ∧
    (let h := { hart1 with m := (Vector.replicate 8 0).set 2 0x8 }
     (h.rm 2).getLsbD 3 = true ∧ ∀ j, j < 3 → (h.rm 2).getLsbD j = false) := by decide +kernel

/-- Conversions at the edges of their element types and parts. -/
theorem met_VectorConversionResults :
    (let h := (stT 0 0).hart
     h.et < 14 ∧ (3 : BitVec 4).toNat < 14 ∧ h.et ≠ 3 ∧
       (7 : BitVec 5).toNat < max (elemWidth h.et) (elemWidth 3) / min (elemWidth h.et) (elemWidth 3) ∧
       max (elemWidth h.et) (elemWidth 3) / min (elemWidth h.et) (elemWidth 3) ≤ (8 : BitVec 5).toNat) ∧
    14 ≤ (stT 14 0).hart.et ∧ (stT 3 0).hart.et = (3 : BitVec 4).toNat ∧
    (8 ≤ (stT 11 0).hart.et ∧ (stT 11 0).hart.et < 12 ∧ 14 ≤ (14 : BitVec 4).toNat) ∧
    12 ≤ (stT 12 0).hart.et ∧ (13 : BitVec 4).toNat < 14 ∧
    (14 ≤ (stT 15 0).hart.et ∧ 8 ≤ (8 : BitVec 4).toNat ∧ (11 : BitVec 4).toNat < 12) ∧ 12 ≤ (12 : BitVec 4).toNat ∧
    -- VPACK and VUNPK
    ((0 : BitVec 4).toNat < 8 ∧ (stT 1 0).hart.et < 8 ∧
      elemWidth (stT 1 0).hart.et = 2 * elemWidth (0 : BitVec 4).toNat) ∧
    ((15 : BitVec 4) = 15 ∧ (stT 14 0).hart.et = 14) ∧
    elemWidth (stT 2 0).hart.et ≠ 2 * elemWidth (0 : BitVec 4).toNat ∧
    ((1 : BitVec 5).toNat < 2 ∧ (stT 15 0).hart.et = 15 ∧ (4 : BitVec 4) = 4) ∧ ¬ (2 : BitVec 5).toNat < 2 := by
  decide +kernel

/-- A message from hart 2 through its register 3. -/
def msg1 (e : Bool) : Message :=
  { data := 0x1234, wide := false, label := 0, hart := 2, qreg := 3, error := e, keeper := false
    sess := none, launch := none, lidx := 0 }

/-- Register 3 bound, with messages in queue 5 of the hart's own core and in its line of senders. -/
noncomputable def stQueue (b : Binding) (l sent : List Message) : State :=
  { st with
    hart := { hart1 with q := hart1.q.set 3 b }
    core := { st.core with
      queues := st.core.queues.set 5 l, senders := st.core.senders.set 5 sent, mailbox := st.core.mailbox.set 2 1, qlimit := 100 } }

/-- A push that has waited since a cycle. -/
noncomputable def stWait (since : Nat) (sent : List Message) : State :=
  let s := stQueue (.send 5 0) [] sent
  { s with hart := { s.hart with sendWait := some (5, 3), waitSince := some since }, cycle := 1000 }

/-- A hart in a running task. -/
def task1 : TaskCopy :=
  { reg := 2, run := 1, tag := 7, out := some (sAddress 0 0x11000, 0x100), deferred := [], startRwc := 0, startCycle := 0
    waiting := false, reply := none }

theorem met_QueueInstructionResults :
    -- binding
    (inTask { hart1 with task := some task1 } = true ∧ 1 ≤ (0x1000000500000000 : Dword).toNat / 2 ^ 60 ∧
      (0x3FFFFFFFFFFFFFFF : Dword).toNat / 2 ^ 60 ≤ 3) ∧
    (inTask st.hart = false ∧
      (0x1000000500000200 : Dword).toNat % 2 ^ 20 / 512 ≠ (st.pk.pkg * 4096 + st.cid) % 2 ^ 20 / 512 ∧
      (0x1000000500000004 : Dword).toNat % 2 ^ 20 / 512 = (st.pk.pkg * 4096 + st.cid) % 2 ^ 20 / 512 ∧
      inService st 4 = true ∧ samePartition st st.cid 4 = true ∧ samePartition st st.cid 511 = false) ∧
    (let s := { st with pk := { pack1 with parts := [{ part0 with handle := 9 }] } }
     inService s 4 = true ∧ samePartition s s.cid 4 = false) ∧
    (let s := { st with dies := assocSet st.dies 0 { getDie st 0 with groves := 1 } }
     inService s 16 = false) ∧
    ((0x3000000700000000 : Dword).toNat / 2 ^ 60 = 3 ∧
      (BitVec.ofNat 4 ((0x3000000700000000 : Dword).toNat / 2 ^ 32)).toNat < 8) ∧
    ¬ (BitVec.ofNat 4 ((0x3000000800000000 : Dword).toNat / 2 ^ 32)).toNat < 8 ∧
    -- pushing
    ((stQueue (.send 5 0) [] []).hart.binding 3 = .send 5 0 ∧ (stQueue (.send 5 0) [] []).hart.sendWait = none ∧
      coreLaunch (stQueue (.send 5 0) [] []) 0 = st.hart.launch ∧
        coreLaunch (stQueue (.send 5 1) [] []) 1 ≠ st.hart.launch) ∧
    ((queueAt (stQueue (.send 5 0) (List.replicate 7 (msg1 false)) []) 0 5).length < 8 ∧
      ¬ (queueAt (stQueue (.send 5 0) (List.replicate 7 (msg1 false)) [msg1 false]) 0 5).length +
        (sendersAt (stQueue (.send 5 0) (List.replicate 7 (msg1 false)) [msg1 false]) 0 5).length < 8) ∧
    (let s := stWait 899 [{ msg1 false with hart := 0 }]
     s.hart.sendWait = some (5, 3) ∧ (∃ x ∈ sendersAt s 0 5, x.hart = s.hgid ∧ x.keeper = false) ∧
       s.core.qlimit.toNat % 2 ^ 32 ≠ 0 ∧ s.hart.waitSince = some 899 ∧ 899 + s.core.qlimit.toNat % 2 ^ 32 < s.cycle ∧
       ¬ 900 + s.core.qlimit.toNat % 2 ^ 32 < s.cycle) ∧
    (¬ ∃ x ∈ sendersAt (stWait 899 [msg1 false]) 0 5, x.hart = st.hgid ∧ x.keeper = false) ∧
    -- popping
    ((stQueue (.recv 5) [msg1 true] []).hart.binding 3 = .recv 5 ∧
      queueAt (stQueue (.recv 5) [msg1 true] []) st.cid 5 = [msg1 true] ∧
      queueAt (stQueue (.recv 5) [] []) st.cid 5 = [] ∧ (msg1 true).error = true ∧ (msg1 false).error = false) ∧
    ((4 : Reg) = 4 ∧ (4 : Reg) ≠ 0) ∧ ¬ ((0 : Reg) = 0 ∧ (0 : Reg) ≠ 0) ∧
    ((stQueue (.port 2) [] []).hart.binding 3 = .port 2 ∧ ((stQueue (.port 2) [] []).core.mailbox[2]?).getD 0 = 1 ∧
      ((stQueue (.port 2) [] []).core.mailbox[3]?).getD 0 = 0) ∧
    hart1.binding 3 = .none ∧ (hart1.lookahead 0 = 0 ∧ hart1.lookahead 5 ≠ 0) := by decide +kernel

/-- An erroneous message at the head of a queue, with a window that waits, one that failed, and one that is over. -/
theorem met_QueueInstructionResults_error :
    let s := stQueue (.recv 5) [msg1 true] []
    let done := { s with hart := { s.hart with pend := (window none (.x 9 5)).hart.pend, issued := 3 } }
    let failed := { s with hart := { s.hart with pend := (window (some ⟨.win, 0x33⟩) (.x 9 5)).hart.pend, issued := 3 } }
    let open_ := { s with hart := { s.hart with
      pend := (window none .lease).hart.pend, issued := 3, lease := some (Lease.open 3) } }
    queueAt s s.cid 5 = msg1 true :: [] ∧ windowsWait open_ = true ∧ (windowsWait failed = false ∧ windowsFault failed = true) ∧
    (windowsWait done = false ∧ windowsFault done = false) ∧ windowsWait s = false ∧ windowsFault s = false ∧
    ¬ ((5 : Reg) = 4 ∧ (5 : Reg) ≠ 0) := by decide +kernel

theorem met_QueueEventResults :
    sendersAt (stQueue .none [] []) 0 5 = [] ∧
    (let s := stQueue .none (List.replicate 7 (msg1 false)) [msg1 false]
     sendersAt s 0 5 = [msg1 false] ∧ coreLaunch s 0 ≠ (msg1 false).launch ∧ (msg1 false).keeper = false ∧
       (queueAt s 0 5).length < 8) ∧
    (let s := stQueue .none (List.replicate 8 (msg1 false)) [{ msg1 false with hart := 0, keeper := true }]
     coreLaunch s 0 ≠ (msg1 false).launch ∧ coreLaunch s 0 = some 1 ∧ 8 ≤ (queueAt s 0 5).length) ∧
    (let m := { msg1 false with hart := 0, keeper := true, sess := some 3, launch := some 1 }
     let s := stQueue .none (List.replicate 7 (msg1 false)) [m]
     sendersAt s 0 5 = m :: [] ∧ coreLaunch s 0 = m.launch ∧ (queueAt s 0 5).length < 8 ∧
       m.launch.bind (getLaunch s) = some launch1 ∧ coreLaunch s 4 ≠ m.launch) ∧
    (let s := stWait 899 []
     (getHart s 0).sendWait = some (5, 3) ∧ (getHart s 0).waitSince = some 899 ∧
       (getCore s 0).qlimit.toNat % 2 ^ 32 ≠ 0 ∧ 899 + (getCore s 0).qlimit.toNat % 2 ^ 32 < s.cycle ∧
       s.cycle ≤ 900 + (getCore s 0).qlimit.toNat % 2 ^ 32) := by decide +kernel

/-- The array's command of one accumulator. -/
def cmdZ (hart : Nat) : ArrayCmd :=
  { hart := hart, launch := 1, lidx := 0, op := .zero 2, tile := 0, root := 0, user := true, task := false, bfmt := []
    chunk := 0, row := 0, sent := 0, word := none, sess := some 3, rel := none }

/-- A session with a suspended command, or with none. -/
def lease1 (susp : Option ArrayOp) : Lease :=
  { Lease.open 3 with susp := susp.map fun op => ({ cmdZ 0 with op := op }, ⟨.mfault, 7⟩) }

/-- The hart in such a session, or in none, with the array held by another or itself. -/
noncomputable def stLease (l : Option Lease) (holder : Option Nat) (q : List ArrayCmd) : State :=
  let s := stH { hart1 with lease := l }
  setGrove s 0 { getGrove s 0 with holder := holder, queue := q }

theorem met_LeaseSessionResults :
    ((stLease (some (lease1 none)) none []).hart.lease.isSome = true ∧ st.hart.waitSince = none) ∧
    (st.hart.lease = none ∧ (getGrove (stLease none (some 0) []) (groveOf st.cid)).holder = some st.hgid ∧
      (getGrove st (groveOf st.cid)).holder = none ∧ (getGrove st (groveOf st.cid)).waiters = []) ∧
    ((getGrove (stLease none (some 1) []) (groveOf st.cid)).holder = some 1 ∧ 1 ≠ st.hgid ∧
      (st.hart.replayEnd = none ∧ (1 : BitVec 4) ≠ 0) ∧ ¬ (st.hart.replayEnd = none ∧ (0 : BitVec 4) ≠ 0)) ∧
    (∀ e ∈ (getGrove (stLease none none [cmdZ 1]) (groveOf st.cid)).queue, e.hart ≠ st.hgid) ∧
    ¬ (∀ e ∈ (getGrove (stLease none none [cmdZ 0]) (groveOf st.cid)).queue, e.hart ≠ st.hgid) ∧
    ((lease1 (some (.mma 7 3 4))).susp = some ({ cmdZ 0 with op := .mma 7 3 4 }, ⟨.mfault, 7⟩) ∧
      (lease1 (some (.scale 3 4 [1] 2))).susp = some ({ cmdZ 0 with op := .scale 3 4 [1] 2 }, ⟨.mfault, 7⟩) ∧
      (lease1 none).susp = none) ∧
    -- MRESUME with room, and without
    (let queued := fun q => (getGrove (stLease (some (lease1 (some (.mma 7 3 4)))) (some 0) q) (groveOf st.cid)).queue
     (queued []).length + 1 + st.hart.parked.length ≤ 8 ∧
       8 < (queued (List.replicate 8 (cmdZ 4))).length + 1 + st.hart.parked.length) := by decide +kernel

/-- An array descriptor of a block of the own slice. -/
def blockAt (off k : Nat) : Nat := 0x4000000000000000 + off + 64 * 2 ^ 64 + 16 * 2 ^ 96 + k * 2 ^ 128

/-- A state ready for array commands: x1 and x4 name operand descriptors, x5 a scale descriptor, z1 is bound. -/
noncomputable def stArray (n : Nat) : State :=
  let h := { hart1 with
    lease := some (Lease.open 3), z := hart1.z.set 1 (some ⟨0xC000, 0⟩)
    x := (hart1.x.set 4 0x4000000000009020).set 5 0x4000000000009040 }
  let s := stH h
  let s := setGrove s 0 { getGrove s 0 with holder := some 0, queue := List.replicate n (cmdZ 4) }
  { s with
    core := { s.core with bfmt := s.core.bfmt.set 1 8 }
    mem := [(sliceKey 0 0x9000, blockAt 0xA000 32), (sliceKey 0 0x9020, blockAt 0xA800 32),
      (sliceKey 0 0x9040, 0x4000000000009000 + 0x4000000000009020 * 2 ^ 64 + 3 * 2 ^ 128 + 5 * 2 ^ 136 +
        0x4000000000009060 * 2 ^ 192), (sliceKey 0 0x9060, 0)].foldl (fun m p => memWrite m p.1 32 p.2) [] }

/-- What a descriptor register names. -/
noncomputable def blk (s : State) (e : Dword) : BitVec 256 := BitVec.ofNat 256 (descAt s e 32)

theorem met_ArrayCommandResults :
    (let s := stArray 7
     let da := blk s (s.hart.rx 1)
     let db := blk s (s.hart.rx 4)
     let f := fun (x : BitVec 256) => formatAt s s.cid (BitVec.ofNat 64 x.toNat)
     (s.hart.lease.isSome = true ∧ (getGrove s (groveOf s.cid)).holder = some s.hgid ∧
       (getGrove s (groveOf s.cid)).queue.length < 8) ∧
     (tileOf s.hart 1).isSome = true ∧ tileOf s.hart 2 = none ∧
     blockFault s [s.hart.rx 1, s.hart.rx 4] 32 = none ∧ (blockFault s [0x4000000000009010] 32).isSome = true ∧
     operandFault s da db (f da) (f db) ((tileOf s.hart 1).map fun t => (tileRows t.word, tileCols t.word, tileInt t.word)) = none ∧
     (operandFault s da (blk s 0x4000000000009060) (f da) (f (blk s 0x4000000000009060)) none).isSome = true) ∧
    8 ≤ (getGrove (stArray 8) (groveOf st.cid)).queue.length ∧
    inTask { hart1 with task := some task1 } = true ∧
    (let s := stArray 0
     let b := (blk s (s.hart.rx 5)).toNat
     let da := blk s (BitVec.ofNat 64 b)
     let db := blk s (BitVec.ofNat 64 (b / 2 ^ 64))
     let f := fun (x : BitVec 256) => formatAt s s.cid (BitVec.ofNat 64 x.toNat)
     inTask s.hart = false ∧ blockFault s [s.hart.rx 5] 32 = none ∧ (1 ≤ b / 2 ^ 128 % 32 ∧ b / 2 ^ 128 % 32 ≤ 16 ∧
       b / 2 ^ 133 % 8 = 0 ∧ b / 2 ^ 140 % 2 ^ 52 = 0) ∧
     blockFault s [BitVec.ofNat 64 b, BitVec.ofNat 64 (b / 2 ^ 64)] 32 = none ∧
     operandFault s da db (f da) (f db) none = none ∧
     ownBlock s (BitVec.ofNat 64 (b / 2 ^ 192)) (4 * (b / 2 ^ 128 % 32)) = some 0x9060 ∧
     ownBlock s 0x4000000000000FF8 4 = none ∧ (blk s 0x4000000000009060).toNat / 2 ^ 128 % 32 = 0 ∧
     peerFault s [0] = none ∧ (peerFault s [0x200]).isSome = true) := by decide +kernel

/-- A grant period before and at its 64th MMA, with a waiter and without. -/
theorem met_ArrayCommandResults_period :
    let s := fun (n : Nat) (ws : List Nat) =>
      setGrove (stArray 0) 0 { getGrove (stArray 0) 0 with periodCmds := n, waiters := ws }
    ((getGrove (s 62 []) 0).periodCmds < 63 ∧ 63 ≤ (getGrove (s 63 []) 0).periodCmds ∧ (getGrove (s 63 []) 0).waiters = []) ∧
    ((getGrove (s 63 [5]) 0).waiters ≠ [] ∧ (getGrove (s 63 [5]) 0).holder = some 0 ∧
      nextWaiter (getGrove (s 63 [5]) 0).lastHolder ([5] ++ [0]) = some 5) := by decide +kernel

theorem met_TileRegisterResults :
    tileOf hart1 1 = none ∧ bindable st 1 0xC000 = true ∧ bindable st 1 0xC001 = false ∧
    ((tileOf (stArray 0).hart 1).isSome = true ∧ tileBusy (stArray 0) 1 = false ∧
      tileBusy (nextOf (exec (.mzero 1) (stArray 0))) 1 = true) ∧
    (let t : Tile := ⟨0xC000, 0⟩
     (0 < tileRows t.word ∧ 0 < tileCols t.word) ∧ ¬ 127 < tileRows t.word ∧
       isMarked (stArray 0) (sliceKey 0 (tileOff t.word)) = false) ∧
    (let s := { stArray 0 with pk := { pack1 with marked := [sliceKey 0 0xC000] } }
     isMarked s (sliceKey 0 0xC000) = true) := by decide +kernel

/-- The first array command of a state as the array knows it. -/
noncomputable def headCmd (s : State) : ArrayCmd := ((getGrove s 0).queue.head?).getD (cmdZ 0)

/-- The state with a command accepted, and with it started. -/
noncomputable def accepted (i : Instr) : State := nextOf (exec i (stArray 0))
noncomputable def started (i : Instr) : State := nextOf (exec (.mmaStart 0) (accepted i))

/-- The same state with errors marked in the operands. -/
noncomputable def spoilt (s : State) : State := { s with pk := { s.pk with marked := [sliceKey 0 0xA000, sliceKey 0 0xA800] } }

/-- A scale command whose receivers are free and whose next word can be read. -/
noncomputable def scaleReady (s : State) (c : ArrayCmd) : Bool :=
  match c.op with
  | .scale da db ps q => ps.all (fun p => !keeperWaits c (getCore s (p.toNat % 4096)) q.toNat) &&
      decide (c.chunk < scaleCount s c da db) && c.word.isNone && (okOf (scaleWord s c da db).2).isSome &&
      (ps[c.sent]?).isSome
  | _ => false

theorem met_ArrayEventResults :
    (let s := accepted (.mma 1 1 4)
     (getGrove s 0).running = false ∧ (nextCommand s (getGrove s 0)).isSome = true ∧ acqDone s (headCmd s) = true) ∧
    (let s := started (.mma 1 1 4)
     (getGrove s 0).running = true ∧ (runningCommand (getGrove s 0)).isSome = true ∧
       (completeCommand s (headCmd s)).isSome = true) ∧
    (headCmd (started (.mzero 1))).op = .zero 1 ∧
    (let s := spoilt (started (.mma 1 1 4))
     (suspendRun s (headCmd s)).any (fun r => (getHart r.1 r.2.1.hart).lease.isSome &&
       r.2.1.current (getHart r.1 r.2.1.hart) && (getHart r.1 r.2.1.hart).lease.map (·.id) == r.2.1.sess) = true) ∧
    (let s := started (.mscale 5)
     scaleReady s (headCmd s) = true) ∧
    (let s := st
     (getGrove s 0).holder = none ∧ nextWaiter 3 [5, 3, 9] = some 5) ∧
    (getGrove (stArray 0) 0).holder = some 0 := by decide +kernel

/-- An MMA whose read fails after its session was closed, its context still there. -/
theorem met_ArrayEventResults_closed :
    let s := spoilt (started (.mma 1 1 4))
    let s := { s with hart := { s.hart with lease := none } }
    (runningCommand (getGrove s 0)).isSome = true ∧
    (suspendRun s (headCmd s)).any (fun r => r.2.1.current (getHart r.1 r.2.1.hart) &&
      !(getHart r.1 r.2.1.hart).lease.any (fun x => some x.id == r.2.1.sess)) = true := by decide +kernel

theorem met_IntegerChunkIsExact :
    ({ vals := [.fin false 3 0, .fin true 5 0], exps := [], scale := none, sat := 0 } : RowData).vals =
      [3, -5].map (fun (n : Int) => FVal.fin (decide (n < 0)) n.natAbs 0) := by decide +kernel

/-- A copy descriptor. -/
def copyDesc (src dst len fl mc extra list : Nat) : Nat :=
  src + dst * 2 ^ 64 + (len + fl * 2 ^ 32) * 2 ^ 128 + mc * 2 ^ 320 + extra * 2 ^ 384 + list * 2 ^ 448

/-- A state whose x4 names a copy descriptor in its own slice. -/
noncomputable def stCopy (d : Nat) : State :=
  let s := stH { hart1 with x := hart1.x.set 4 0x4000000000009000 }
  { s with
    mem := [(0x9000, 64, d), (0x9100, 4, 1), (0xA000, 64, 0x1122334455667788 + 0x99AA * 2 ^ 300)].foldl
      (fun m p => memWrite m (sliceKey 0 p.1) p.2.1 p.2.2) [] }

/-- Descriptors within the own slice: a copy, a multicast, a reduction, and one whose destination does not exist. -/
def descCopy : Nat := copyDesc 0x400000000000A000 0x400000000000B000 40 8 0x500000 0 0
noncomputable def descMulti : Nat :=
  copyDesc 0x400000000000A000 (sAddress 0 0xB000).toNat 40 0 0 (1 + 2 * 2 ^ 8 + 3 * 2 ^ 12) 0x4000000000009100
def descReduce : Nat := copyDesc 0x400000000000A000 0x400000000000B000 40 0 0 1 0
def descAway : Nat := copyDesc 0x400000000000A000 0x6000000000000000 40 8 0x500000 0 0

/-- The command of such a state. -/
noncomputable def copyOf (kind : CopyKind) (d : Nat) : CopyCmd :=
  newCopy (stCopy d) kind 1 (BitVec.ofNat 512 (descAt (stCopy d) 0x4000000000009000 64))

theorem met_CopyIssueResults :
    (let s := stCopy descCopy
     (s.hart.chan 1).live.length < 16 ∧ inTask s.hart = false ∧ blockFault s [0x4000000000009000] 64 = none ∧
       (blockFault s [0x4000000000009020] 64).isSome = true ∧
       (okOf (copyIllegal s .copy (copyOf .copy descCopy) 0x4000000000009000)).isSome = true ∧
       copyFault s (copyOf .copy descCopy) = none) ∧
    (errOf (copyIllegal (stCopy 0) .copy (copyOf .copy 0) 0x4000000000009000)).isSome = true ∧
    (copyFault (stCopy descAway) (copyOf .copy descAway)).isSome = true ∧
    (let s := stCopy descMulti
     (okOf (copyIllegal s .multicast (copyOf .multicast descMulti) 0x4000000000009000)) = some [1] ∧
       copyFault s { copyOf .multicast descMulti with recvs := [1] } = none ∧
       (joinGroup s { copyOf .multicast descMulti with recvs := [1] }).isSome = true) ∧
    (let s := nextOf (exec (.copym 3 4 1) (stCopy descMulti))
     joinGroup s { copyOf .multicast descMulti with recvs := [2] } = none) ∧
    16 ≤ ((hart1.withChan 1 fun c => { c with live := (List.range 16).map (BitVec.ofNat 32) }).chan 1).live.length := by
  decide +kernel

/-- A channel that has handed out 5 identities, with 3 and 4 outstanding. -/
def chan5 : Channel := { hart1.chan 1 with next := 5, live := [3, 4] }

theorem met_ChannelResults :
    inTask { hart1 with task := some task1 } = true ∧ inTask hart1 = false ∧
    ((0x300004 : Dword).toNat % 2 ^ 20 / 4096 = st.pk.pkg ∧ (0x301004 : Dword).toNat % 2 ^ 20 / 4096 ≠ st.pk.pkg) ∧
    (let h := { hart1 with chans := hart1.chans.set 1 chan5 }
     let oldest := (h.chan 1).live.head?.getD (h.chan 1).next
     oldest = 3 ∧ ((h.chan 1).next - oldest).toNat ≤ ((2 : BitVec 32) - oldest).toNat ∧
       ¬ ((h.chan 1).next - oldest).toNat ≤ ((3 : BitVec 32) - oldest).toNat ∧
       ((h.chan 1).next - oldest).toNat ≤ ((5 : BitVec 32) - oldest).toNat) ∧
    (hart1.chan 1).live = [] ∧ chan5.live = 3 :: [4] ∧ (3 : BitVec 32) ≠ chan5.next := by decide +kernel

/-- The copy of a state, sent and with its segment read. -/
noncomputable def sentCopy (i : Instr) (d : Nat) : State := nextOf (exec i (stCopy d))
noncomputable def readCopy (i : Instr) (d : Nat) : State := nextOf (exec (.copySegment 1) (sentCopy i d))

/-- The command under key 1. -/
noncomputable def copy1 (s : State) : CopyCmd := (getCopy s 1).getD (copyOf .copy descCopy)

/-- A context of hart 4, the first of core 1. -/
def who4 : ContextRef := { hart := 4, launch := some 1, lidx := 0, era := 0 }

/-- The command with REL, whose mailbox rises at its end. -/
def descRel : Nat := copyDesc 0x400000000000A000 0x400000000000B000 40 10 0x500000 0 0

/-- Two of its units applied. -/
noncomputable def bothApplied (s : State) : State :=
  nextOf (exec (.copyUnitApply 1) (nextOf (exec (.copyUnitApply 1) s)))

theorem met_CopyEventResults :
    (let s := sentCopy (.copy 3 4 1) descCopy
     (getCopy s 1).isSome = true ∧ copyPicked s (copy1 s) = true ∧ (charge s 0 1).isSome = true ∧
       (segmentFault s (copy1 s) 40).2 = none) ∧
    (let s := readCopy (.copy 3 4 1) descCopy
     (copy1 s).kind ≠ .reduce ∧ copyPicked s (copy1 s) = false ∧ ((copy1 s).units.head?).isSome = true ∧
       (copy1 s).units.head?.any (fun u =>
         let r := applyAt s (copy1 s).agent false u.addr u.mask u.data u.label
         u.fail.isNone && r.2.isNone && decide (getCopy r.1 1 = some (copy1 s))) = true) ∧
    (let s := readCopy (.copyrd 3 4 1) descReduce
     (copy1 s).kind = .reduce ∧
       (copy1 s).units.head?.any (fun u =>
         let r := applyReduce s (copy1 s) u
         u.fail.isNone && r.2.1.isNone && decide (getCopy r.1 1 = some (copy1 s))) = true) ∧
    (let s := bothApplied (readCopy (.copy 3 4 1) descRel)
     (copy1 s).len ≤ (copy1 s).pos ∧ (copy1 s).units = [] ∧ (copy1 s).held = none ∧ (copy1 s).mbx = true ∧
       (copy1 s).mboxDone = false ∧ (copy1 s).pos < 2 ^ 32 ∧ (copy1 s).current (getHart s 0) = true ∧
         (copy1 s).ch < 8) ∧
    (let s := bothApplied (readCopy (.copym 3 4 1) descMulti)
     let s := { s with core := { s.core with frees := [(2, who4)] } }
     s.core.frees.find? (fun x => x.1 == 2) = some (2, who4) ∧
       (groupOf (getCore s 0) 2).any (fun g => g.members.contains 1 &&
         decide (countOf 1 g.members g.freed < countOf 1 g.members g.rounds)) = true ∧
       (s.pk.pkg * 4096 + 4 / 4) % 2 ^ 20 = 1) ∧
    -- a copy within the own slice, charged to no tenant
    (let s := sentCopy (.copy 3 4 1) descCopy
     let s := { s with pk := { s.pk with parts := [] } }
     tenantOf s ((copy1 s).hart / 4) = none ∧ copyPicked s (copy1 s) = true ∧ (copy1 s).kind = .copy ∧
       (copy1 s).conv = false ∧ (pagesOf (copy1 s).src 40 ++ pagesOf (copy1 s).dst 40).map (formOf s 0) =
         [.slice 0 0xA000, .slice 0 0xB000]) := by decide +kernel

/-- Tables of both stages. Stage 2 has a large page of this package, one of the VF's host memory and one of package 1;
its fourth holds the second table of stage 1, which maps each of them to itself. -/
def memPages (flags : Nat) : List Host.Cell :=
  [(0x10000, 8, 0x12001), (0x12000, 8, 0x5F + flags), (0x12008, 8, 0x3F), (0x12010, 8, 0x100_0000_005F),
    (0x12018, 8, 0x5F), (0x20000, 8, 0x30_0002_2001), (0x22000, 8, 0x3F), (0x22008, 8, 0x10_0000_003F),
    (0x22010, 8, 0x20_0000_003F)].foldl (fun m p => memWrite m p.1 p.2.1 p.2.2) []

/-- A partition with a stage-2 root. -/
def partT : Partition := { part0 with s2root := some 0x10000, s1base := 0x20000 }

/-- The hart over such tables. -/
noncomputable def stPages (m : List Host.Cell) (l : Launch) : State :=
  { stH { hart1 with x := hart1.x.set 4 0x4000000000009000, s1base := 0x20000 } with
    mem := m, pk := { pack1 with parts := [partT], domsz := 1, launches := [l] } }

/-- A copy of 40 bytes from the own slice to a virtual address, sent, and with its units formed. -/
noncomputable def sentTo (dst : Nat) : State :=
  nextOf (exec (.copy 3 4 1) (stPages (memWrite (memPages 0) (sliceKey 0 0x9000) 64
    (copyDesc 0x400000000000A000 dst 40 8 0x500000 0 0)) launch1))
noncomputable def readTo (dst : Nat) : State := nextOf (exec (.copySegment 1) (sentTo dst))

/-- A segment whose bytes all lie in the core's own slice, one that tokens do not cover, one charged before, and one
whose destination is not mapped. -/
theorem met_CopyEventResults_segment :
    (let s := sentCopy (.copy 3 4 1) descCopy
     (copy1 s).image = [] ∧ (List.range 40).all (fun i => match formOf s 0 ((copy1 s).src + dw ((copy1 s).pos + i)) with
       | .slice x o => x.toNat % 4096 == 0 && decide (0x1000 ≤ o) && !inLog (getCore s 0) (o / 32 * 32) 32 &&
         !isMarked s (sliceKey 0 o)
       | _ => false) = true) ∧
    (let s := sentCopy (.copy 3 4 1) descCopy
     let t := { s with pk := { s.pk with tenants := [{ getTenant s 0 with refill := 5, balance := 0, chargedNow := true }] } }
     tenantOf t 0 = some 0 ∧ (copy1 t).paid = false ∧ charge t 0 1 = none ∧
       ({ copy1 t with paid := true } : CopyCmd).paid = true) ∧
    (let s := sentTo 0x4000000000
     copyPicked s (copy1 s) = true ∧ (segmentFault s (copy1 s) 40).2.isSome = true) := by decide +kernel

/-- A copy to core 4's slice, closed to it, and one from there. -/
noncomputable def descTo4 : Nat := copyDesc 0x400000000000A000 (sAddress 4 0xB000).toNat 40 0 0 0 0

/-- A source in error. -/
noncomputable def errSource (s : State) : State := { s with pk := { s.pk with marked := [sliceKey 0 0xA000] } }

/-- Copies of a core of a partition: every byte of the source readable, in its own slice and through an open window; a
source in error, whose units fail; a destination that refuses them; sides that overlap; and the end of a command, with
its mailbox at issue of the last segment. -/
theorem met_CopyEventResults_bytes :
    (let s := sentCopy (.copy 3 4 1) descCopy
     let c := copy1 s
     tenantOf s (c.hart / 4) = some 0 ∧ c.paid = false ∧ (charge s 0 1).isSome = true ∧ copyPicked s c = true ∧
       c.kind = .copy ∧ c.conv = false ∧ c.image = [] ∧ c.label = 0 ∧
       (pagesOf c.src 40 ++ pagesOf c.dst 40).map (formOf s 0) = [.slice 0 0xA000, .slice 0 0xB000]) ∧
    (let s := sentCopy (.copy 3 4 1) descCopy
     let open4 := { s with cores := assocSet s.cores 4 { getCore s 4 with win := (Vector.replicate 4 0).set 0 0xC0000007F0000000 } }
     samePartition open4 0 4 = true ∧ (grantsAt (getCore open4 4) 0xA000).rd = true ∧
       isMarked open4 (sliceKey 4 0xA000) = false ∧ formOf open4 0 (sAddress 4 0xA000) = .slice 4 0xA000) ∧
    (let s := errSource (sentCopy (.copy 3 4 1) descCopy)
     (errOf (copyBytes s (copy1 s) 0 32).2).isSome = true ∧ (errOf (engineBytes s (copy1 s).agent (copy1 s).src 32).2).isSome = true ∧
       ((copy1 (nextOf (exec (.copySegment 1) s))).units.map fun u => u.fail) = [some .ecc, none]) ∧
    (let s := readCopy (.copy 3 4 1) descCopy
     (copy1 s).units.head?.any (fun u => formOf s 0 u.addr == .slice 0 0xB000 && u.label == 0) = true ∧
       (okOf (engineBytes s (copy1 s).agent (copy1 s).src 32).2).isSome = true) ∧
    (let s := sentCopy (.copy 3 4 1) (copyDesc 0x400000000000A000 0x400000000000A008 40 0 0x500000 0 0)
     (copy1 s).image ≠ [] ∧ ((copy1 s).image[0]?).getD none ≠ none ∧
       (okOf (engineBytes s (copy1 s).agent (copy1 s).src 32).2).isSome = true) ∧
    (let s := sentCopy (.copy 3 4 1) descCopy
     (copy1 s).mbx = true ∧ (copy1 s).relBit = false ∧ (copy1 s).len ≤ (copy1 s).pos + 40 ∧ (copy1 s).mboxDone = false ∧
       (copy1 s).pos < (copy1 s).len ∧ getCopy s 2 = none ∧ (copy1 s).units = [] ∧ (copy1 s).kind ≠ .reduce) := by
  decide +kernel

/-- Units that their destination refuses, and one of a reduction whose source was in error; one within the own slice. -/
theorem met_CopyEventResults_units :
    (let s := readCopy (.copy 3 4 1) descTo4
     (copy1 s).units.head?.any (fun u =>
       let r := applyAt s (copy1 s).agent false u.addr u.mask u.data u.label
       u.fail.isNone && r.2 == some .win && decide (getCopy r.1 1 = some (copy1 s))) = true) ∧
    (let s := readCopy (.copyrd 3 4 1) (copyDesc 0x400000000000A000 (sAddress 4 0xB000).toNat 40 0 0 1 0)
     (copy1 s).kind = .reduce ∧ (copy1 s).len ≤ (copy1 s).pos ∧ (copy1 s).units.head?.any (fun u =>
         let r := applyReduce s (copy1 s) u
         u.fail.isNone && r.2.1 == some .win && decide (getCopy r.1 1 = some (copy1 s))) = true) ∧
    (let s := readCopy (.copyrd 3 4 1) descReduce
     (copy1 s).units.head?.any (fun u => u.label == 0 && formOf s 0 u.addr == .slice 0 0xB000 &&
       !isMarked s (sectorKey (sliceKey 0 0xB000))) = true) ∧
    (let s := nextOf (exec (.copySegment 1) (errSource (sentCopy (.copyrd 3 4 1) descReduce)))
     (copy1 s).kind = .reduce ∧ ((copy1 s).units.map fun u => u.fail) = [some .ecc, none]) := by decide +kernel

/-- A page in error, one that can be read and one that is not mapped. -/
theorem met_CopyEventResults_pages :
    let s := stPages (memWrite (memWrite (memPages 0) 0x12020 8 0x5F) 0x22018 8 0x40_0000_003F) launch1
    let ag : Agent := { core := 0, mode := .user, root := 0x20000, launch := some 1 }
    let read := fun (s : State) =>
      let r := translate s ag needRead 0x3000040000
      (okOf r.2).map fun pl => (isHostKey (sectorKey pl.key), placeMarked (reachPlace r.1 pl) pl)
    formOf s 0 0x3000040000 = .virt 0x3000040000 ∧ read s = some (false, false) ∧
    read { s with pk := { s.pk with marked := [0x40000] } } = some (false, true) ∧
    (errOf (translate s ag needRead 0x5000000000).2).isSome = true := by decide +kernel

/-- A BFREE for a counter with no group, one of a core that is not a receiver, and one that raises the counter; an
issuer's context that is still there, and one that has gone. -/
theorem met_CopyEventResults_frees :
    (let s := bothApplied (readCopy (.copym 3 4 1) descMulti)
     let s := { s with core := { s.core with frees := [(2, who4), (3, who4)] } }
     s.core.frees.find? (fun x => x.1 == 3) = some (3, who4) ∧ groupOf (getCore s 0) 3 = none ∧
       (∀ x ∈ s.core.frees, x.1 ≠ 4) ∧ s.core.frees.find? (fun x => x.1 == 2) = some (2, who4) ∧
       (groupOf (getCore s 0) 2).any (fun g => !g.members.contains 2 && g.counted == 0 &&
         leastOf (addCount 1 g.members g.freed) == 1) = true) ∧
    who4.current (getHart st 4) = true ∧ ({ who4 with era := 1 } : ContextRef).current (getHart st 4) = false ∧
    (let g : Group := { smbox := 2, members := [1, 2], rounds := [1, 1], freed := [0, 0], counted := 0 }
     countOf 1 g.members g.freed < countOf 1 g.members g.rounds ∧ leastOf (addCount 1 g.members g.freed) ≤ g.counted) := by
  decide +kernel

/-- The hart in a mode, with vectors and saved registers. -/
noncomputable def stMode (m : Mode) : State :=
  stH { hart1 with
    mode := m, mach := { TrapRegs.fresh with tvec := 0x100, status := 0x40, epc := 0x8888 }
    sup := { TrapRegs.fresh with tvec := 0x4000, status := 0x53, epc := 0x7000 } }

theorem met_SystemInstructionResults :
    (stMode .machine).hart.mode = .machine ∧ (stMode .user).hart.mode ≠ .machine ∧ (stMode .user).hart.mode = .user ∧
    st.hart.rx 0 = 0 ∧ st.hart.rx 4 ≠ 0 ∧ hart1.uih = false ∧ ({ hart1 with uih := true } : Hart).uih = true ∧
    inTask { hart1 with task := some task1 } = true ∧
    -- HALT
    (inTask st.hart = false ∧ report st = none ∧ windowsWait st = false ∧ ∀ p ∈ st.hart.pend, p.fault = none) ∧
    (let s := window (some ⟨.win, 0x33⟩) (.x 9 5)
     report s = none ∧ windowsWait s = false ∧ ∃ p ∈ s.hart.pend, p.fault.isSome = true) ∧
    (let s := lost1
     (report s).isSome = true) ∧
    -- XLINV
    ((stMode .supervisor).hart.mode ≠ .user ∧ (stMode .supervisor).hart.inv = none ∧
      ({ hart1 with inv := some (some 0x40000, false, false) } : Hart).inv = some (some 0x40000, false, false) ∧
      ({ hart1 with inv := some (none, true, true) } : Hart).inv = some (none, true, true)) ∧
    -- the last hart of a launch
    (st.hart.initRun = false ∧ st.hart.launch = some 1 ∧ getLaunch st 1 = some launch1 ∧ launch1.isTask = false ∧
      launch1.count ≤ (st.hart.lidx :: launch1.halted.filter fun i => i != st.hart.lidx).length ∧
      (st.hart.lidx :: launch1.halted.filter fun i => i != st.hart.lidx).length < ({ launch1 with count := 2 } : Launch).count) := by
  decide +kernel

/-- How a write of a system register comes out: done, refused, of no address, waiting. -/
def outcomeOf : Written → Nat
  | .done _ => 0
  | .illegal => 1
  | .addr _ => 2
  | .wait _ => 3

theorem met_SystemRegisterAccessResults :
    srCheck .user .read 0x100 = some .priv ∧ srCheck .user .write 0x020 = some .illegal ∧
      srCheck .user .write 0x001 = none ∧
    (∃ p ∈ (window (some ⟨.win, 0x33⟩) (.x 9 5)).hart.pend, p.fp = true ∧ p.fault.isSome = true) ∧
    (∀ p ∈ (window none (.x 9 5)).hart.pend, p.fp = true → p.fault = none) ∧
    outcomeOf (srWrite st 0x001 4) = 0 ∧ outcomeOf (srWrite st 0x001 5) = 1 ∧
    (let e : ErrEntry := { type := 3, code := 1, count := 1, part := 0, addr := 0, detail := 0, cycle := 0 }
     outcomeOf (srWrite { st with pk := { pack1 with parts := [{ part0 with errors := [e] }] } } 0x10F 0) = 2) ∧
    outcomeOf (srWrite (stMode .supervisor) 0x138 0) = 0 ∧
    (let s := stMode .supervisor
     outcomeOf (srWrite { s with core := { s.core with zeroing := some (9, 0, 1) } } 0x138 0) = 3) ∧
    -- the pages
    srAssigned 0x006 = false ∧ srAssigned 0x001 = true ∧ (srAssigned 0x100 = true ∧ 0x100 / 0x100 = 1) ∧
    (srAssigned 0x308 = true ∧ 0x308 / 0x100 = 3) ∧ (srAssigned 0x800 = true ∧ 0x800 / 0x100 = 8) ∧
    (srAssigned 0x10D = true ∧ 0x10D ∈ [0x012, 0x020, 0x021, 0x030, 0x042, 0x10D]) ∧
    (srAssigned 0x050 = true ∧ 0x050 ∈ [0x040, 0x041, 0x048, 0x049, 0x050]) := by decide +kernel

theorem met_SystemRegisterValues :
    (4 : Dword).toNat % 8 ≤ 4 ∧ 5 ≤ (5 : Dword).toNat % 8 ∧ partOf st st.cid = some part0 ∧ maskOf part0 1 = some 1 ∧
    maskOf part0 2 = none ∧ (0x10 : Dword).toNat / 16 % 4 ≤ 1 ∧ ¬ (0x20 : Dword).toNat / 16 % 4 ≤ 1 ∧
    ({ hart1 with stimecmp := 0 } : Hart).stimecmp.toNat ≤ st.cycle % 2 ^ 64 ∧
    ¬ ({ hart1 with stimecmp := 1 } : Hart).stimecmp.toNat ≤ st.cycle % 2 ^ 64 := by decide +kernel

theorem met_TrapEntry :
    st.hart.pend = [] ∧ st.hart.sendWait = none ∧ (stMode .machine).hart.mode = .machine ∧
    (stMode .machine).hart.pend = [] ∧
      ¬ ((stMode .user).hart.mode = .machine ∨ Cause.illegal = .mcall ∨ Cause.illegal = .check) ∧
    (stMode .supervisor).hart.sendWait = none := by decide +kernel

/-- Two windows, the younger one's access failed. -/
noncomputable def windows2 : State :=
  let p : Pending :=
    { seq := 0, la := 5, site := ⟨0x4000000000007000, none⟩, out := false, dest := .x 9 5, flags := 4, fp := true
      fault := none }
  stH { hart1 with
    pend := [p, { p with
      seq := 1, site := ⟨0x4000000000007004, none⟩, dest := .x 10 6, fp := false, fault := some ⟨.win, 0x33⟩ }]
    issued := 3
    hist := [⟨0x4000000000007008, none⟩, ⟨0x4000000000007004, none⟩, ⟨0x4000000000007000, none⟩] }

theorem met_TrapEntry_windows :
    (let s := window none .lease
     let s := { s with hart := { s.hart with lease := some (Lease.open 3) } }
     s.hart.replayEnd = none ∧ s.hart.sendWait = none ∧ windowsWait s = true) ∧
    (windowsWait (window none (.x 9 5)) = false ∧
      ((window none (.x 9 5)).hart.pend.filter fun q => q.fault.isSome) = []) ∧
    (windowsWait windows2 = false ∧
      ((windows2.hart.pend.filter fun q => q.fault.isSome).head?.map fun p => (p.seq, p.fault)) =
      some (1, some ⟨.win, 0x33⟩) ∧ windows2.hart.taskFault .win = false ∧ windows2.hart.issued - (1 + 1) ≤ 15) := by
  decide +kernel

/-- The hart in a handler whose saved status and window are given. -/
noncomputable def handler (m : Mode) (status la : Dword) : State :=
  let r := { TrapRegs.fresh with
    tvec := 0x4000, status := status, lacount := la, epc := 0x4000000000007000, slot := some (frame1 1 1)
    path := [⟨0x4000000000007000, none⟩, ⟨0x4000000000007004, none⟩, ⟨0x4000000000007008, none⟩] }
  stH { hart1 with mode := m, sup := r, mach := r }

theorem met_TrapReturn :
    (let s := handler .supervisor 0x400 0
     s.hart.mode ≠ .user ∧ s.hart.fromEvents.head?.bind id = none ∧ s.hart.sup.status.getLsbD 11 = false ∧
       idleTaskHart { s with hart := s.hart.leave s.hart.sup } = false ∧ s.hart.sup.lacount = 0 ∧
       redoWord s.hart.sup = none ∧
       s.hart.sup.status.getLsbD 10 = true) ∧
    (let s := handler .machine 0x50 2
     s.hart.mode = .machine ∧ s.hart.fromEvents.head?.bind id = none ∧ s.hart.mach.status.getLsbD 11 = false ∧
       idleTaskHart { s with hart := s.hart.leave s.hart.mach } = false ∧ s.hart.mach.lacount ≠ 0) := by decide +kernel

theorem met_TrapReturn_back :
    st.hart.pend = [] ∧ st.hart.sendWait = none ∧ st.hart.replayEnd = none ∧ st.hart.mode ≠ .machine ∧
    Cause.illegal ≠ .mcall ∧ Cause.illegal ≠ .check ∧ st.hart.pc.toNat % 4 = 0 ∧
    idleTaskHart st = false := by decide +kernel

/-- A task's descriptor, with its timestamp, output tile and flags. -/
def taskDesc (id ts out fl : Nat) : BitVec 512 :=
  BitVec.ofNat 512 (id + fl * 2 ^ 48 + ts * 2 ^ 64 + 0x8000 * 2 ^ 128 + 0xABC * 2 ^ 192 + out * 2 ^ 256)

/-- The copy of the task that the hart runs. -/
def copy1of (x : CopyState) : RunCopy :=
  { hart := 0, tag := 7, run := 1, backup := false, state := x, deferred := [], startCycle := 0, work := 0 }

/-- The registration of the task that the hart runs. -/
def reg1 (out fl : Nat) : TaskReg :=
  { id := 2, descAddr := 0x777, desc := taskDesc 7 100 out fl, succ := [], base := 4, run := 1, state := .running, pins := []
    tpins := [], inAddr := [], prio := 0, budget := 16, logfulls := 0, die := 0, assisted := false
    copies := [copy1of .running]
    logfull := false, lost := [], avoid := none, tokenWait := none }

/-- A tile of two slots at version 4, and a read-only one. -/
def tile4 : TileState :=
  { base := sAddress 0 0x10000, size := 0x100, slots := 2, ro := false, stride := 0x1000, home := 0, version := 4, ts := 0
    accepted := [9] }
def tileRo : TileState := { tile4 with base := sAddress 0 0x20000, ro := true, slots := 1, version := 0 }

/-- A task launch with its registrations. -/
def taskLaunch (rs : List TaskReg) : Launch :=
  { launch1 with
    isTask := true, budget := 16, ctrn := 64, maxout := 100, spill := 1, logPages := 16
    classes := [{ quant := 0, scope := 0, minage := 0, expwork := 0, hist := List.replicate 32 0 }], tiles := [tile4, tileRo]
    regs := rs, nextReg := 10 }

/-- The hart running a copy of the task, in a launch. -/
noncomputable def stTask (t : TaskCopy) (l : Launch) : State :=
  { st with
    hart := { hart1 with task := some t, rwc := 50, x := (hart1.x.set 4 0).set 5 1 }
    pk := { pack1 with launches := [l] } }

theorem met_TaskInstructionResults :
    hart1.task = none ∧
    (let s := stTask { task1 with deferred := List.replicate 63 (.depdec 3) } (taskLaunch [reg1 0 0])
     (s.hart.task.map fun t => t.deferred.length) = some 63) ∧
    64 ≤ ({ task1 with deferred := List.replicate 64 (.depdec 3) } : TaskCopy).deferred.length ∧
    (let s := stTask task1 (taskLaunch [reg1 0 0])
     s.hart.task = some task1 ∧ task1.waiting = false ∧ s.hart.launch = some 1 ∧
       taskOf s = some (task1, taskLaunch [reg1 0 0], reg1 0 0) ∧ getPart s part0.handle = some part0 ∧
       (reg1 0 0).gone = false ∧ task1.run = (reg1 0 0).run ∧ (taskLaunch []).tiles[0]? = some tile4 ∧
       (taskLaunch []).tiles[1]? = some tileRo ∧ tileRo.ro = true ∧ tile4.ro = false ∧
         (taskLaunch []).tiles[2]? = none ∧
       (reg1 0 0).tpins.length < 4) ∧
    (let r := { reg1 0 0 with tpins := [(0, 0), (0, 1), (0, 0), (0, 1)], state := .won }
     taskOf (stTask task1 (taskLaunch [r])) = some (task1, taskLaunch [r], r) ∧ 4 ≤ r.tpins.length ∧ r.gone = true) ∧
    (let s := stTask task1 (taskLaunch [])
     taskOf s = none) ∧
    ({ task1 with waiting := true } : TaskCopy).waiting = true := by decide +kernel

/-- The launch's task has asked for its commit. -/
noncomputable def stAsk (r : TaskReg) (f : Launch → Launch) : State := stTask { task1 with waiting := true } (f (taskLaunch [r]))

theorem met_CommitDecisions :
    (let s := stAsk (reg1 0 0) id
     (requestOf s 0).map (fun q => (q.1, q.2.1)) = some (1, reg1 0 0) ∧ (getLaunch s 1).isSome = true ∧
       (reg1 0 0).out = some 0 ∧ (taskLaunch []).tiles[0]? = some tile4 ∧ (reg1 0 0).ident ∉ tile4.accepted ∧
       (reg1 0 0).nobase = false ∧ (reg1 0 0).base = tile4.version ∧
       livePin (taskLaunch [reg1 0 0]) (reg1 0 0) 0 ((tile4.version + 1) % tile4.slots) = false) ∧
    (let r := { reg1 0 0 with base := 3 }
     (requestOf (stAsk r id) 0).isSome = true ∧ r.nobase = false ∧ r.base ≠ tile4.version) ∧
    (let r := { reg1 0 0 with run := 2 }
     (requestOf (stAsk r id) 0).any (fun q => decide (q.2.2.run ≠ r.run)) = true) ∧
    (let l := { taskLaunch [reg1 0 0] with tiles := [{ tile4 with accepted := [(reg1 0 0).ident] }, tileRo] }
     (requestOf (stAsk (reg1 0 0) fun _ => l) 0).isSome = true ∧
       (l.tiles[0]?).any (fun x => x.accepted.contains (reg1 0 0).ident) = true) ∧
    (let o := { reg1 0 0 with id := 3, desc := taskDesc 8 99 0 0, copies := [] }
     (requestOf (stAsk (reg1 0 0) fun l => { l with regs := [reg1 0 0, o] }) 0).isSome = true ∧ o.id ≠ (reg1 0 0).id ∧
       o.gone = false ∧ o.out = some 0 ∧ o.ts < (reg1 0 0).ts ∧ o.base = (reg1 0 0).base) ∧
    (let r := reg1 0xFFFFFFFF 0
     (requestOf (stAsk r id) 0).isSome = true ∧ r.out = none ∧
       (taskLaunch [r]).noneAccepted.contains (r.die, r.ident) = false ∧
       ({ taskLaunch [r] with noneAccepted := [(r.die, r.ident)] } : Launch).noneAccepted.contains (r.die, r.ident) = true) := by
  decide +kernel

/-- The same with records of the task in the core's log. -/
noncomputable def stAskLog (r : TaskReg) (as : List Dword) : State :=
  let s := stAsk r id
  { s with core := { s.core with log := as.map fun a => recordOf s (piece1 a) (some 7) } }

/-- A task's commit with records in its own slice, and with one that core 4 grants no commit home. -/
theorem met_CommitDecisions_records :
    (let s := stAskLog (reg1 0 0) [sAddress 0 0x11000, sAddress 0 0x11020, sAddress 0 0x11000]
     let u := reachHome s (some 0)
     let rs := u.core.log.filter fun r => r.task && r.tag == 7 && !r.stk
     (requestOf s 0).isSome = true ∧ tile4.slot (tile4.version + 1) - tile4.slot ((reg1 0 0).base + 1) = 0 ∧
       rs.map (fun r => (r.addr == sAddress (cgidOf u 0) 0x11000, maskAt u 0 r.lsid)) = [(true, 0), (false, 0), (true, 0)] ∧
       0x11000 < 2 ^ 19 ∧ 0x11000 % 32 = 0 ∧ (applyRecords 0 (some 1) 0 rs u).2 = none ∧
       (getLaunch (applyMerged 0 (some 1) 0 (rs.foldl (fun ms r => mergeRecord u 0 r ms) []) u) 1).isSome = true) ∧
    (let s := stAskLog (reg1 0xFFFFFFFF 0) [sAddress 4 0x9000, sAddress 0 0x11000]
     let u := reachHome s none
     let rs := u.core.log.filter fun r => r.task && r.tag == 7 && !r.stk
     (requestOf s 0).isSome = true ∧ (rs.head?.map fun r => formOf u 0 (r.addr + 0)) = some (.slice 4 0x9000) ∧
       samePartition u 0 4 = true ∧ (grantsAt (getCore u 4) 0x9000).ch = false ∧
       (applyRecords 0 (some 1) 0 rs u).2.isSome = true) := by decide +kernel

theorem met_TaskStartState : (reg1 0 0).out = some 0 ∧ (taskLaunch []).tiles[0]? = some tile4 ∧
    (reg1 0xFFFFFFFF 0).out = none := by decide +kernel

/-- A free hart, with a queued registration in the ready queue of its grove. -/
noncomputable def stQueued : State :=
  let s := stTask task1 (taskLaunch [{ reg1 0 0 with state := .queued, copies := [] }])
  let s := { s with hart := { hart1 with run := .unloaded } }
  setGrove s 0 { getGrove s 0 with ready := [(1, 2)] }

/-- A task launch with given units at home, and with given counters. -/
noncomputable def stUnits (us : List TaskUnit) (cs : List Counter) : State :=
  stTask task1 { taskLaunch [reg1 0 0] with units := us, counters := cs }

def unit1 (a : Deferred) : TaskUnit := { act := a, die := 0, home := 0, cycle := 0, who := 5, hart := none }
def place0 : Placement := { spillPage := 1, logPage := 8 }

/-- The hart waits for a backup of the registration. -/
noncomputable def stReserved (r : TaskReg) : State :=
  { stTask task1 (taskLaunch [r]) with hart := { hart1 with run := .unloaded, reserved := some (1, 2, 1) } }

theorem met_TaskEventResults :
    getLaunch st 9 = none ∧
    -- releases
    (let l := { taskLaunch [] with releases := [(0x900, 0, none)] }
     (getLaunch (stTask task1 l) 1).isSome = true ∧ l.isTask = true ∧ l.state = .running ∧
       l.releases = (0x900, 0, none) :: []) ∧
    (let l := { taskLaunch [] with orphans := [(3, 1)] }
     (getLaunch (stTask task1 l) 1).isSome = true ∧ l.isTask = true ∧ l.state = .running ∧ l.orphans = (3, 1) :: [] ∧
       (taskLaunch []).orphans = []) ∧
    (let l := { taskLaunch [reg1 0 0] with releases := [(0, 0, some 2)] }
     l.releases = (0, 0, some 2) :: [] ∧ (taskLaunch []).releases = []) ∧
    (let l := { taskLaunch [] with state := .queued }
     l.isTask = true ∧ tilesFit (stTask task1 l) l = true ∧ partOpen (stTask task1 l) l.part = true ∧
       countersFit (stTask task1 l) l = true ∧ l.stopCmd = none ∧
       (homedTiles part0 l.tiles (stTask task1 l)).2.any (fun ts => !homesFull (tileHomes ts)) = true) ∧
    -- dispatch
    freeHart st 0 = false ∧
    (let s := stQueued
     freeHart s 0 = true ∧ (bestTask (candidates s 0 place0)).any (fun a => (taskFits s 0 place0 a.1 a.2).isSome &&
       (getPart s a.1.part).isSome && (charge s 0 1).isSome) = true) ∧
    (let s := stQueued
     let s := { s with pk := { s.pk with tenants := [{ getTenant s 0 with refill := 5, balance := 0, chargedNow := true }] } }
     (bestTask (candidates s 0 place0)).any (fun a => (taskFits s 0 place0 a.1 a.2).any fun v => (charge v 0 1).isNone) = true) ∧
    -- replies and cancels
    (getHart st 0).task = none ∧
    ([none, some Reply.accept, some .parked, some .abort, some .cancel].all fun a =>
      let h := getHart (stTask { task1 with waiting := true, reply := a } (taskLaunch [reg1 0 0])) 0
      h.task.any (fun t => t.reply == a) && h.launch == some 1) = true ∧
    (taskLaunch [reg1 0 0]).regs.find? (fun y => y.id == task1.reg) = some (reg1 0 0) ∧
    (let c := copy1of .cancelled
     (∃ x ∈ ({ reg1 0 0 with copies := [c] } : TaskReg).copies, x.hart = 0 ∧ x.tag = task1.tag ∧ x.state = .cancelled) ∧
       task1.waiting = false ∧ (getHart (stTask task1 (taskLaunch [])) 0).mode = .user ∧
       ¬ ∃ x ∈ (reg1 0 0).copies, x.hart = 0 ∧ x.tag = task1.tag ∧ x.state = .cancelled) := by
  decide +kernel

/-- Units at their home, a check of Canopy, and a backup that is due, waits or lapses. -/
theorem met_TaskEventResults_units :
    (let l := { taskLaunch [reg1 0 0] with units := [unit1 (.depset 3 0 0x900)] }
     (getLaunch (stUnits l.units []) 1).isSome = true ∧ l.works = true ∧ counterOk (stUnits l.units []) l 3 = true ∧
       counterOk (stUnits l.units []) l 64 = false ∧ (counterOf l 3).armed = false ∧
       (counterOf { l with counters := [{ key := 3, count := 1, armed := true, desc := 0x900 }] } 3).armed = true ∧
       (counterOf { l with counters := [{ key := 3, count := 1, armed := true, desc := 0x900 }] } 3).count = 1) ∧
    -- Canopy and backups
    (st.cycle < nextCheck st 0 ∧
      nextCheck { st with cycle := 4096 } 0 ≤ ({ st with cycle := 4096 } : State).cycle) ∧
    (let s := stReserved (reg1 0 0)
     ((knownHarts s).find? fun o => (getHart s o).reserved.any fun b => b.1 == 1 && b.2.1 == 2) = some 0 ∧
       (getLaunch s 1).isSome = true ∧ (reg1 0 0).gone = false ∧ (getHart s 0).reserved = some (1, 2, (reg1 0 0).run) ∧
       (reg1 0 0).current.length = 1 ∧ (∀ c ∈ (reg1 0 0).current, c.state = .running) ∧
       (getHart s 0).run = .unloaded ∧ (taskLaunch [reg1 0 0]).state = .running ∧
       (readyCore (setHart s 0 { getHart s 0 with reserved := none }) (taskLaunch [reg1 0 0]) 0 place0).any (fun v =>
         (getPart (beginCopy v 0 1 2 true) (taskLaunch [reg1 0 0]).part).isSome) = true) ∧
    (let s := stReserved (reg1 0 0)
     let s := { s with hart := { s.hart with run := .running } }
     (getHart s 0).reserved = some (1, 2, (reg1 0 0).run) ∧ (getHart s 0).run ≠ .unloaded) ∧
    (let s := stReserved (reg1 0 0)
     let s := { s with core := { s.core with log := [recordOf s (piece1 0x40000) none] } }
     readyCore (setHart s 0 { getHart s 0 with reserved := none }) (taskLaunch [reg1 0 0]) 0 place0 = none) ∧
    (let r := { reg1 0 0 with state := .faulted }
     (getLaunch (stReserved r) 1).isSome = true ∧ r.current.length ≤ 1 ∧ (getHart (stReserved r) 0).reserved = some (1, 2, r.run)) ∧
    (let s := stReserved { reg1 0 0 with state := .won }
     ({ reg1 0 0 with state := .won } : TaskReg).gone = true ∧ getLaunch { s with pk := pack1 } 9 = none) := by
  decide +kernel

/-- A command of a function, with the operands of LAUNCH. -/
def cmdL (lid addr handle fn : Nat) : Cmd :=
  { fn := fn, sq := 0, entry := BitVec.ofNat 512 (handle * 2 ^ 64 + addr * 2 ^ 128 + lid * 2 ^ 192) }

/-- A queued hart launch that wants every hart of its cores. -/
def launchQ : Launch :=
  { Launch.blank 1 7 part0 cmd1 with
    state := .queued, cores := true, count := 2, codeSize := 4096, codeBase := 0x50000, spill := 4, logPages := 48, root := 0x20000 }

/-- The package with no hart loaded and given launches. -/
noncomputable def stLaunch (ls : List Launch) : State :=
  { st with hart := { hart1 with run := .unloaded, launch := none }, pk := { pack1 with launches := ls } }

/-- The first word of a hart launch block of 4 harts with its code, spill and log. -/
noncomputable def blockOk (s : State) (v : Nat) : Bool := (hartBlock s part0 (Launch.blank 2 9 part0 cmd1) v).isSome

theorem met_LaunchResults :
    (st.pk.boot = .up ∧ fnExists st (cmdL 9 0 0 1).fn = true ∧ fnExists st (cmdL 9 0 0 0).fn = true ∧
      (cmdL 9 0 0 0).fn = 0) ∧
    (getPart st (cmdAt (cmdL 9 0 0 1) 8 8) = some part0 ∧ (cmdL 9 0 0 1).fn = part0.tenant + 1 ∧
      (cmdL 9 0 0 2).fn ≠ part0.tenant + 1 ∧
      (getFn st (part0.tenant + 1)).resetting = false) ∧
    (let s := { st with pk := { pack1 with functions := [Function.fresh 0, { Function.fresh 1 with resetting := true }] } }
     (getFn s (part0.tenant + 1)).resetting = true) ∧
    -- LAUNCH
    ((∃ o ∈ st.pk.launches, o.lid = cmdAt (cmdL 7 0 0 1) 24 8 ∧
      (getPart st o.part).any (fun q => q.tenant == part0.tenant) = true) ∧
      (¬ ∃ o ∈ st.pk.launches, o.lid = cmdAt (cmdL 9 0 0 1) 24 8) ∧ part0.stvec ≠ none ∧
        ({ part0 with stvec := none } : Partition).stvec = none) ∧
    (let l := Launch.blank 2 9 part0 (cmdL 9 0x40040 0 1)
     (blockLaunch (stLaunch []) part0 l (BitVec.ofNat 64 (cmdAt (cmdL 9 0x40008 0 1) 16 8))).2.isNone = true) ∧
    blockOk (stLaunch []) (2 + 1 * 2 ^ 8 + 2 * 2 ^ 32 + 0x50000 * 2 ^ 64 + 0x1000 * 2 ^ 128 + 0x40 * 2 ^ 192 +
      0x60000 * 2 ^ 256 + 4 * 2 ^ 320) = true ∧
    (4 * (liveCores (stLaunch []) part0.handle).length < 100000 ∧
      ¬ 4 * (liveCores (stLaunch []) part0.handle).length < launchQ.count) ∧
    -- PREEMPT, RESUME, END
    ((st.pk.launches.find? fun o => o.part == part0.handle && o.lid == cmdAt (cmdL 7 0 0 1) 24 8) = some launch1 ∧
      (st.pk.launches.find? fun o => o.part == part0.handle && o.lid == cmdAt (cmdL 9 0 0 1) 24 8) = none ∧
      launch1.state = .running ∧ launch1.isTask = false ∧ (taskLaunch []).isTask = true ∧ launchQ.state = .queued ∧
      ({ launch1 with state := .preempted } : Launch).state = .preempted ∧
        ({ launch1 with state := .preempted } : Launch).state ≠ .queued) ∧
    (let l := { launchQ with state := .preempted, saved := [(0, Core.fresh)] }
     let waits := { l with state := .queued, stopCmd := some (cmdL 7 0 0 1) }
     canStart (setLaunch (stLaunch [l]) waits) waits = true ∧
       canStart (setLaunch { stLaunch [l] with hart := hart1 } waits) waits = false) ∧
    -- starts
    getLaunch st 9 = none ∧
    (let s := stLaunch [launchQ]
     (getLaunch s 1).isSome = true ∧ (canStart s launchQ = true ∧
       ∀ o ∈ s.pk.launches, launchBefore o launchQ = true → canStart s o = true → o.part ≠ launchQ.part) ∧
       launchQ.saved = [] ∧ (launchCores s launchQ).isSome = true ∧
       (launchCores s launchQ).any (fun cs => (startHartLaunch s 1 cs place0).isSome) = true) ∧
    (let l := { launchQ with count := 100000 }
     l.state = .queued ∧ l.isTask = false ∧ l.cores = true ∧ l.saved = [] ∧ launchCores (stLaunch [l]) l = none) ∧
    canStart { stLaunch [launchQ] with hart := hart1 } launchQ = false ∧
    ({ launchQ with saved := [(0, Core.fresh)] } : Launch).saved ≠ [] ∧
    (let l := { taskLaunch [] with state := .stopping }
     l.isTask = true ∧ l.state = .stopping) ∧
    -- rotation
    rotating st 0 = none ∧
    (let l := { launch1 with contexts := [(0, { hart1 with lidx := 1 })] }
     let stopped := stopContext (stTask task1 l) 0
     (engineAway stopped 0).isNone = true ∧
       (rotating (stTask task1 l) 0).any (fun r => (getLaunch (takeContext stopped 0) r.1.key).isSome) = true) ∧
    -- a context whose copy is bound for a package out of reach
    (let s := readTo 0x2000000000
     let l := { launch1 with contexts := [(0, { hart1 with lidx := 1 })] }
     let s := { s with dies := [], pk := { s.pk with unreachable := [1], launches := [l] } }
     (rotating s 0).isSome = true ∧ (engineAway (stopContext s 0) 0).isSome = true) := by
  decide +kernel

/-- The hart with interrupts, events and completions as given. -/
noncomputable def stBoundary (f : Hart → Hart) : State := stH (f hart1)

theorem met_HartEventResults :
    (let s := stBoundary fun h => { h with soft := true, sien := 1 }
     s.hart.pend = [] ∧ s.hart.sendWait = none ∧ s.hart.run = .running ∧ takesInterrupts s.hart = true ∧
       (sipnd s).getLsbD 0 = true ∧ s.hart.sien.getLsbD 0 = true) ∧
    (let s := stBoundary fun h => { h with stimecmp := 0, sien := 2 }
     (sipnd s).getLsbD 1 = true ∧ s.hart.sien.getLsbD 1 = true ∧
       ∀ j, j < 1 → ((sipnd s).getLsbD j && s.hart.sien.getLsbD j) = false) ∧
    (let s := stBoundary fun h => { h with events := [{ trap := ⟨.mfault, 7⟩, resume := none }] }
     s.hart.commandFaults = [] ∧ s.hart.events = { trap := ⟨.mfault, 7⟩, resume := none } :: [] ∧
       takesInterrupts s.hart = true) ∧
    (let s := stBoundary fun h => { h with commandFaults := [{ trap := ⟨.mfault, 7⟩, resume := none }] }
     s.hart.commandFaults = { trap := ⟨.mfault, 7⟩, resume := none } :: [] ∧ s.hart.mode ≠ .machine ∧
       inTask s.hart = false) ∧
    Cause.mfault ≠ .mcall ∧ Cause.mfault ≠ .check ∧ hart1.commandFaults = [] ∧ hart1.events = [] ∧
    takesInterrupts (stMode .machine).hart = false ∧
    -- user-level completions
    (dueChannel hart1 = none ∧ takesUser hart1 = false) ∧
    (let h := { hart1.withChan 7 (fun c => { c with due := true }) with uien := 1 }
     takesUser h = true ∧ dueChannel h = some 7 ∧ h.pend = [] ∧ h.sendWait = none ∧ (h.chans[7]?).isSome = true) ∧
    -- windows
    (let s := { window none (.x 9 5) with hart := { (window none (.x 9 5)).hart with issued := 6 } }
     (s.hart.pend.find? fun q => decide (q.seq + 1 + q.la ≤ s.hart.issued)).any (fun p => p.fault.isNone &&
       pendReady s p) = true) ∧
    (∀ q ∈ (window none (.x 9 5)).hart.pend, (window none (.x 9 5)).hart.issued < q.seq + 1 + q.la) ∧
    (let g := { getGrove st 0 with flight := [(1, 64)] }
     (getGrove (setGrove st 0 g) 0).flight = (1, 64) :: [] ∧ (getGrove st 0).flight = []) ∧
    -- issue and fetch
    ((getCore st 0).issueRun < 4096 ∧ (getCore st 0).zeroing = none ∧
      4096 ≤ (getCore { st with core := { st.core with issueRun := 4096 } } 0).issueRun ∧
      nextIssuer { st with core := { st.core with issueRun := 4096 } } 0 = some 0 ∧
      nextIssuer { st with core := { st.core with issueRun := 4096 }, hart := { hart1 with run := .unloaded } } 0 =
        none ∧
      (getCore { st with core := { st.core with zeroing := some (8, 0, 0) } } 0).zeroing.isSome = true) ∧
    ((getHart st 0).run = .running ∧
      (0x4000000000008000 : Dword) = BitVec.ofNat 64 ((getHart st 0).pc.toNat / 64 * 64) ∧
      (getHart st 0).alignHold = none) ∧
    (let s := stH { hart1 with alignHold := some 128, waitSince := some 3 }
     (getHart s 0).alignHold = some 128 ∧ (getHart s 0).waitSince = some 3) ∧
    (getHart (stH { hart1 with run := .idle }) 0).run = .idle ∧ (getHart st 0).run ≠ .idle ∧
    (getHart (stH { hart1 with inv := some (none, true, false) }) 0).inv = some (none, true, false) ∧ (getHart st 0).inv = none := by
  decide +kernel

/-- Class L instructions with and without a window, near and far, with a fault inside an older faulted window, in a task,
and in neither; and completions with an older window on the same register. -/
theorem met_HartEventResults_windows :
    st.hart.replayEnd = none ∧ (0 : BitVec 4).toNat = 0 ∧ (15 : BitVec 4).toNat ≠ 0 ∧ st.hart.near = false ∧
    ({ hart1 with near := true } : Hart).near = true ∧ ({ hart1 with replayEnd := some 5 } : Hart).replayEnd.isSome = true ∧
    (let s := window (some ⟨.win, 0x33⟩) (.x 9 5)
     windowsFault s = true ∧ windowsWait s = false) ∧
    (windowsFault st = false ∧ st.hart.taskFault .win = false) ∧
    (let s := stTask task1 (taskLaunch [reg1 0 0])
     windowsFault s = false ∧ s.hart.taskFault .win = true ∧ s.hart.task = some task1 ∧ s.hart.launch = some 1 ∧
       s.hart.pend = [] ∧ s.hart.sendWait = none ∧ s.hart.replayEnd = none ∧ Cause.win ≠ .mcall ∧ Cause.win ≠ .check) ∧
    (let p : Pending :=
       { seq := 4, la := 0, site := ⟨0x4000000000007004, none⟩, out := false, dest := .x 9 6, flags := 0, fp := false
         fault := none }
     (∃ q ∈ (window none (.x 9 5)).hart.pend, q.seq < p.seq ∧ q.dest.register.isSome = true ∧ q.dest.register = p.dest.register) ∧
     (∃ q ∈ (window none (.x 10 5)).hart.pend, q.dest.register ≠ p.dest.register) ∧
     (∃ q ∈ (window none .lease).hart.pend, q.dest.register = none)) := by decide +kernel

/-! ### States for the events of the device -/

/-- Tables of both stages, which map the first large page to itself, and the block of a hart launch of two harts at 0x40000. -/
def memT : List Host.Cell :=
  [(0x10000, 8, 0x12001), (0x12000, 8, 0x0010_0000_0000_005F), (0x20000, 8, 0x22001), (0x22000, 8, 0x3F),
    (0x40000, 64, 2 + 1 * 2 ^ 8 + 2 * 2 ^ 32 + 0x50000 * 2 ^ 64 + 0x1000 * 2 ^ 128 + 0x40 * 2 ^ 192 + 0x60000 * 2 ^ 256 +
      4 * 2 ^ 320)].foldl (fun m p => memWrite m p.1 p.2.1 p.2.2) []

/-- The package with these tables, a free hart and given launches. -/
noncomputable def stTables (ls : List Launch) : State :=
  { st with
    hart := { hart1 with run := .unloaded, launch := none }, mem := memT, pk := { pack1 with parts := [partT], launches := ls } }

/-- A record for a page of HBM, in the log of the core that stored it, and sent. -/
noncomputable def stSent : State :=
  let s := stTables [launch1]
  let s := { s with hart := { hart1 with s1base := 0x20000, x := hart1.x.set 4 0x40000 } }
  nextOf (exec (.autoPublication 0 5) (nextOf (exec (.st 5 4 0 3) s)))

/-- A record to the core's own slice through an open window, sent, applied or not. -/
noncomputable def stOwn (applied bad task : Bool) : State :=
  let s := st
  { s with core := { s.core with
      log := [{ recordOf s (piece1 0x4000000000009000) (if task then some 7 else none) with
        pubd := !task, applied := applied, bad := bad }]
      nextRid := 1 } }

/-- The atomic request of a core for a location of its own slice. -/
def req1 (st : Option Dword) : AtomicReq :=
  { core := 0, key := sliceKey 0 0x9000, op := 1, w32 := true, operand := 5, compare := 0, label := 0, stamp := st
    acquire := false }

theorem met_LogEventResults :
    -- reads
    (let ag : Agent := { core := 0, mode := .user, root := 0, launch := none }
     let open4 := { st with cores := assocSet st.cores 4 { getCore st 4 with win := (Vector.replicate 4 0).set 0 0xC0000007F0000000 } }
     addrFault st ag false true (parts 0x4000000000009000 5) = none ∧
       (addrFault st ag false true (parts 0x4000000000000FF8 5)).isSome = true ∧
       parts (sAddress 4 0x9000) (min 5 64) = [(sAddress 4 0x9000, 5)] ∧
       addrFault st ag false true [(sAddress 4 0x9000, 5)] = none ∧ formOf st 0 (sAddress 4 0x9000) = .slice 4 0x9000 ∧
       samePartition st 0 4 = true ∧ (grantsAt (getCore st 4) 0x9000).rd = false ∧
       (grantsAt (getCore open4 4) 0x9000).rd = true) ∧
    -- records
    ((getCore (logged true true) 0).held.isSome = true ∧ (getCore st 0).held = none) ∧
    (let s := stOwn false false false
     let r := recordOf st (piece1 0x4000000000009000) none
     s.core.log[0]? = some { r with pubd := true } ∧ r.task = false ∧ r.applied = false ∧ r.bad = false ∧
       s.core.held = none ∧ formOf s 0 r.addr = .slice 0 0x9000 ∧ maskAt s 0 r.lsid = 0) ∧
    ((stOwn true false false).core.log.map (·.applied) = [true] ∧
      (stOwn false true false).core.log.map (fun r => (r.pubd, r.applied, r.bad)) = [(true, false, true)] ∧
      (stOwn false false true).core.log.map (fun r => (r.task, r.tag)) = [(true, 7)] ∧
      runsTag (getHart (stTask task1 (taskLaunch [reg1 0 0])) 0) 7 = true ∧ runsTag (getHart st 0) 7 = false ∧
      (logged false false).core.log.map (fun r => (r.task, r.pubd)) = [(false, false)]) ∧
    -- releases, acquires, atomics
    ((getCore forming1 0).forming = [{ stamp := 0x100000, bound := 0, set := [], sectors := [] }] ∧
      (∀ x ∈ (getCore forming1 0).log, x.task = false → x.rid < 0 → x.applied = true)) ∧
    (localCore st (BitVec.ofNat 20 (0x100004 : Dword).toNat) = some 4 ∧
      localCore st (BitVec.ofNat 20 (0x101004 : Dword).toNat) = none ∧
      mustWait st 0 4 0x100004 = false ∧ (getCore st 4).forming = []) ∧
    ((atomicLocation st 0 (sliceKey 0 0x9000) 32).isSome = true ∧ (req1 none).stamp = none ∧
      (req1 none).acquire = false ∧
      (req1 none).key % (32 / 8) = 0 ∧ isMarked st (req1 none).key = false ∧ isSliceKey (req1 none).key = true ∧
      sliceCore (req1 none).key = 0 ∧ (req1 none).op.toNat ≠ 11) ∧
    -- pages
    (postedTo st 0 0x40000 = none ∧ getPart st 0 = some part0 ∧ (arrivedPlaces st).isEmpty = true) ∧
    (let s := { st with pk := { pack1 with asks := [(0, 4, false)] } }
     s.pk.asks.contains (0, (0x40000 : Dword).toNat / 65536, false) = true ∧
       st.pk.asks.contains (0, (0x40000 : Dword).toNat / 65536, false) = false) ∧
    (let p := { part0 with s2root := some 0x10000 }
     let s := { st with pk := { pack1 with parts := [p] } }
     getPart s 0 = some p ∧ (p.s2root.bind fun r => missing2 s 0x40000 levelShifts r).isSome = true ∧
       (part0.s2root.bind fun r => missing2 st 0x40000 levelShifts r) = none) := by decide +kernel

/-- A record for a virtual address in the core's log, sent. -/
noncomputable def stRecord (flags : Nat) (e : Dword) (l : Launch) : State :=
  let s := stPages (memPages flags) l
  { s with core := { s.core with log := [{ recordOf s (piece1 e) none with pubd := true }], nextRid := 1 } }

/-- Writes on their way to host memory, of a record and of a copy unit; to a page with copies; to one that a launch
shadows; and a page that is filled with copies. -/
theorem met_LogEventResults_pages :
    (let s := stRecord 0 0x1000000000 launch1
     (postedTo s 0 0x1000000000).isSome = true ∧ (recordTo s 0 0 fun e => entU e || leafBeyond s e).isSome = true) ∧
    (let s := readTo 0x1000000000
     postedTo s 0 0x1000000000 = none ∧
       (unitTo s 0 0x1000000000).any (fun y => decide (getCopy s y.1.key = some y.1)) = true) ∧
    ((arrivedPlaces (stRecord 0x80 0x40000 launch1)).any fun x =>
      x.2.handle == 0 && entRepl x.2.leaf && 0x40000 / 2 ^ x.2.bits == x.2.ia / 2 ^ x.2.bits) = true ∧
    (let l := { launch1 with shadowing := true }
     (getLaunch (stRecord 0x100 0x40000 l) 1).isSome = true ∧ l.shadowed = []) ∧
    (let s := stPages (memPages 0) launch1
     getPart s 0 = some partT ∧ (partT.s2root.bind fun r => missing2 s 0x4000000000 levelShifts r).isSome = true ∧
       valid2 36 0xDF = true ∧ leafPresent s 0xDF = true ∧ entLeaf 0xDF = true ∧ entRepl 0xDF = true) := by
  decide +kernel

theorem met_LaunchStepsComplete :
    -- LAUNCH
    (let s := stTables []
     let c := cmdL 9 0x40000 0 1
     s.pk.boot = .up ∧ fnExists s c.fn = true ∧ getPart s (cmdAt c 8 8) = some partT ∧ c.fn = partT.tenant + 1 ∧
       partT.stvec ≠ none ∧ s.pk.launches = [] ∧ cmdAt c 16 8 % 64 = 0 ∧
       labelHeld partT 0 = true ∧ 2 ≤ 4 * (liveCores s 0).length ∧
       (4 * 4 + 48 + 4) * 1024 ≤ smallestSlice s 0) ∧
    -- dispatch
    (let s := stLaunch [launchQ]
     getLaunch s 1 = some launchQ ∧ launchQ.isTask = false ∧ launchQ.saved = [] ∧ launchQ.place = [] ∧
       fitsCores s launchQ = true ∧ canStart s launchQ = true ∧
       (launchCores s launchQ).any (fun cs =>
         cs.all fun c => placementOk (capacity s c) launchQ.logPages launchQ.spill { spillPage := 1, logPage := 32 }) = true ∧
       launchBefore launchQ launchQ = false) ∧
    -- PREEMPT, RESUME, END
    (let c := cmdL 7 0 0 1
     st.pk.boot = .up ∧ fnExists st c.fn = true ∧ getPart st (cmdAt c 8 8) = some part0 ∧ c.fn = part0.tenant + 1 ∧
       st.pk.launches.find? (fun o => o.part == part0.handle && o.lid == cmdAt c 24 8) = some launch1 ∧
       launch1.state = .running ∧ launch1.isTask = false ∧ getLaunch st launch1.key = some launch1 ∧
       (∀ x ∈ occupied st launch1.key, (getCore st x).log = []) ∧ st.pk.copies = [] ∧
       (getGrove st 0).queue = [] ∧ launchHarts st launch1.key = [0]) ∧
    (let l := { launchQ with state := .preempted }
     let w := { l with state := .queued, stopCmd := some (cmdL 7 0 0 1) }
     getLaunch (stLaunch [l]) l.key = some l ∧ canStart (setLaunch (stLaunch [l]) w) w = true) ∧
    -- the deadline, rotation
    (let l := { taskLaunch [{ reg1 0 0 with copies := [] }] with state := .stopping }
     getLaunch (stTask task1 l) 1 = some l ∧ l.isTask = true ∧ l.state = .stopping ∧ ∀ r ∈ l.regs, r.copies = []) ∧
    (let l := { launch1 with contexts := [(0, { hart1 with lidx := 1 })] }
     let s := { st with pk := { pack1 with launches := [l] } }
     (rotating s 0).isSome = true ∧ (getHart s 0).pend = [] ∧ (getGrove s (groveOf 0)).queue = [] ∧
       s.pk.copies = []) := by
  decide +kernel

theorem met_TaskStepsComplete :
    -- dispatch
    (let s := stQueued
     freeHart s 0 = true ∧ (bestTask (candidates s 0 place0)).any (fun a => (taskFits s 0 place0 a.1 a.2).any fun v =>
       (getPart s a.1.part).any fun p => (charge v p.tenant 1).isSome) = true) ∧
    -- the home's decisions
    (let c := copy1of .committing
     let g := { reg1 0xFFFFFFFF 0 with copies := [c] }
     let s := stAsk g id
     getLaunch s 1 = some (taskLaunch [g]) ∧ g.out = none ∧ g.gone = false ∧ c.run = g.run ∧
       (taskLaunch [g]).noneAccepted.contains (g.die, g.ident) = false ∧ commitRecords s c = [] ∧
       requestOf s 0 = some (1, g, c) ∧ ∀ y ∈ g.copies, y.state ≠ .parked) ∧
    (let c := copy1of .parked
     let g := { reg1 0xFFFFFFFF 0 with copies := [c] }
     let l := taskLaunch [g]
     getLaunch (stAsk g id) 1 = some l ∧ regOf l g.id = some g ∧ parkedAt l none = [(g.id, 0, c.tag)] ∧
       commitRecords (stAsk g id) c = []) ∧
    -- replies, cancels
    (let s := stTask { task1 with waiting := true, reply := some .accept } (taskLaunch [reg1 0 0])
     (getHart s 0).task = some { task1 with waiting := true, reply := some .accept } ∧ (getHart s 0).launch = some 1 ∧
       getLaunch s 1 = some (taskLaunch [reg1 0 0]) ∧ regOf (taskLaunch [reg1 0 0]) task1.reg = some (reg1 0 0) ∧
       (getHart s 0).fromEvents = [] ∧ ∀ c ∈ (reg1 0 0).copies, c.state ≠ .parked) ∧
    -- backups
    (let s := stReserved (reg1 0 0)
     let s := { s with core := { s.core with owner := some 1 } }
     ((knownHarts s).find? fun o => (getHart s o).reserved.any fun b => b.1 == 1 && b.2.1 == 2) = some 0 ∧
       (getHart s 0).reserved = some (1, 2, (reg1 0 0).run) ∧ getLaunch s 1 = some (taskLaunch [reg1 0 0]) ∧
       regOf (taskLaunch [reg1 0 0]) 2 = some (reg1 0 0) ∧ (taskLaunch [reg1 0 0]).state = .running ∧
       (reg1 0 0).state = .running ∧ (reg1 0 0).current.length ≤ 1 ∧ (getCore s (0 / 4)).owner = some 1) := by
  decide +kernel

/-- A task launch of code that reaches the entry, with its releases. -/
def launchR (rel : List (Dword × Nat × Option Nat)) : Launch :=
  { taskLaunch [] with codeSize := 65536, releases := rel }

/-- A task launch whose descriptor at 0x9000 of the scheduler's core, in memory, is due for release. -/
noncomputable def stRelease : State :=
  let s := stTask task1 (launchR [(sAddress 0 0x9000, 0, none)])
  { s with mem := memWrite [] (sliceKey 0 0x9000) 64 (taskDesc 7 100 0 0).toNat }

theorem met_TaskStepsComplete_release :
    (let l := launchR [(sAddress 0 0x9000, 0, none)]
     let l' := launchR []
     let r := schedRead (setLaunch stRelease l') l' 0 (sAddress 0 0x9000) 64
     getLaunch stRelease 1 = some l ∧ l.isTask = true ∧ l.state = .running ∧ l.units = [] ∧
       l.releases = (sAddress 0 0x9000, 0, none) :: [] ∧ (sAddress 0 0x9000).toNat % 64 = 0 ∧
       r.2 = some (taskDesc 7 100 0 0).toNat ∧ descOk l' (taskDesc 7 100 0 0) = true ∧
         dbits (taskDesc 7 100 0 0) 292 4 = 0 ∧
       (getLaunch r.1 1).any (fun m => decide (m.regs.length < m.maxout)) = true) := by decide +kernel

/-- A scale command whose word has been read, and whose receiver has room. -/
noncomputable def stScale : State :=
  let s := started (.mscale 5)
  setGrove s 0 { getGrove s 0 with queue := (getGrove s 0).queue.map fun c => { c with word := some (5, 0) } }

/-- Whether the next chunk of an MMA fails to read its second operand, while its hart is still there. -/
noncomputable def spoiltChunk (s : State) (c : ArrayCmd) : Bool :=
  match c.op with
  | .mma _ da db =>
    let (a, b) := c.operands s da db
    match pairing a b with
    | .ok p =>
      let r := readRow s c.agent b 0 (c.chunk * p.chunk) p.chunk
      decide (c.chunk < a.k / p.chunk) && (errOf r.2).isSome && c.current (getHart r.1 c.hart)
    | .error _ => false
  | _ => false

/-- Whether a scale command's next receiver takes its word. -/
noncomputable def wordReady (s : State) (c : ArrayCmd) : Bool :=
  match c.op with
  | .scale da db ps q => decide (c.chunk < scaleCount s c da db) &&
      ps.all (fun x => !keeperWaits c (getCore s (x.toNat % 4096)) q.toNat) && ps[c.sent]? == some 0 &&
      coreLaunch s 0 == some c.launch && hasRoom s 0 q.toNat
  | _ => false

theorem met_ArrayAndPageStepsComplete :
    (let s := accepted (.mma 1 1 4)
     (getGrove s 0).queue = headCmd s :: [] ∧ (getGrove s 0).running = false ∧ heldBehind s (headCmd s) = false ∧
       (headCmd s).rel = none ∧ ((groveHarts s 0).all fun h => (getHart s h).parked.isEmpty) = true) ∧
    (let s := started (.mzero 1)
     (getGrove s 0).queue = headCmd s :: [] ∧ (getGrove s 0).running = true ∧ (headCmd s).op = .zero 1) ∧
    (let s := spoilt (started (.mma 1 1 4))
     (getGrove s 0).running = true ∧ spoiltChunk s (headCmd s) = true) ∧
    (getGrove stScale 0).running = true ∧ (headCmd stScale).word = some (5, 0) ∧
      wordReady stScale (headCmd stScale) = true := by decide +kernel

/-- Host memory with a queue control block of VF 1 at 0x1000, its entry word and its PRIV word given. -/
def memQcb (priv entries : Nat) : List Host.Cell :=
  [(0, 8, 0x2000), (8, 8, entries), (24, 8, 16), (40, 8, 16), (56, 8, 16), (64, 8, 0x3000),
    (72, 8, 64 + 64 * 2 ^ 16), (80, 8, 0x4000), (96, 8, priv)].foldl
    (fun m p => memWrite m (hostKey 1 (0x1000 + p.1)) p.2.1 p.2.2) []

/-- The package whose VF 1 names that block. -/
noncomputable def stHost (entries : Nat) : State :=
  { st with
    mem := memQcb 0x800001 entries
    pk := { pack1 with functions := [Function.fresh 0, { Function.fresh 1 with qcbaddr := 0x1000 }] } }

/-- The same after the host has set EN. -/
noncomputable def stLive : State := nextOf (exec (.fstatWrite 1 1) (stHost 64))

/-- The package in recovery, with an image asked for. -/
noncomputable def stRecovery : State :=
  { st with pk := { pack1 with boot := .recovery, recBusy := true, reclen := 4000, recaddr := 0x8000 } }

theorem met_HostInterfaceResults :
    ((stHost 64).pk.boot = .up ∧ (stHost 64).pk.modules ≠ 0 ∧ fnExists (stHost 64) 1 = true ∧
      fnExists (stHost 64) 2 = false) ∧
    ((getFn (stHost 64) 1).en = false ∧ (getFn (stHost 64) 1).locked = false ∧ (getFn (stHost 64) 1).queues = [] ∧
      qcbOk (stHost 64) (getFn (stHost 64) 1) = true ∧ qcbOk (stHost 3) (getFn (stHost 3) 1) = false ∧
      (1 : Dword).getLsbD 0 = true ∧ (0 : Dword).getLsbD 0 = false) ∧
    ((getFn stLive 1).en = true ∧ (getFn stLive 1).rdy = true ∧ ((getFn stLive 1).queues[0]?).any (fun k =>
      decide (k.entries ≤ (64 : Dword).toNat % 2 ^ 16) && decide ((63 : Dword).toNat % 2 ^ 16 < k.entries) &&
        decide (k.head < k.entries)) = true ∧ (getFn stLive 1).queues[200]? = none ∧
          (getFn (stHost 64) 1).rdy = false) ∧
    (let f : Function := { getFn stLive 1 with tdisp := .locked }
     f.locked = true ∧ f.queues ≠ [] ∧ tdispMay f.tdisp .run = true ∧ tdispMay Tdisp.unlocked .run = false) ∧
    (let s := { st with pk := { pack1 with modules := 0 } }
     s.pk.boot = .up ∧ ¬ (s.pk.boot = .up ∧ s.pk.modules ≠ 0 ∧ fnExists s 1 = true)) ∧
    (stRecovery.pk.boot = .recovery ∧ stRecovery.pk.modules ≠ 0 ∧ stRecovery.pk.recBusy = true ∧
      stRecovery.pk.recaddr.toNat % 4096 = 0 ∧ 1 ≤ stRecovery.pk.reclen.toNat ∧ stRecovery.pk.reclen.toNat ≤ 33554432 ∧
      stRecovery.pk.recImage = none ∧ stRecovery.pk.flashWp = false ∧ imageOk stRecovery [] = false ∧
      st.pk.boot ≠ .recovery ∧ st.pk.recBusy = false ∧ fnExists st 0 = true) := by decide +kernel

/-- Notifications that came before the queues were live: one of a tail within its queue, a later one of no entry of it;
and none for another queue. -/
theorem met_HostInterfaceResults_notes :
    let f := { getFn stLive 1 with notes := [(0, 3), (0, 64)] }
    let last := f.notes.reverse.find? fun m => m.1 == 0
    stLive.pk.boot = .up ∧ stLive.pk.modules ≠ 0 ∧ fnExists stLive 1 = true ∧ last = some (0, 64) ∧
    (f.queues[0]?).any (fun x => x.entries == 64) = true ∧ (64 : Dword).toNat % 2 ^ 16 = 64 ∧
    (f.notes.find? fun m => m.1 == 0) = some (0, 3) ∧ (f.notes.reverse.find? fun m => m.1 == 1) = none := by decide +kernel

/-- A command with the operand words from offset 16. -/
def cmdW (fn handle a b c d : Nat) : Cmd :=
  { fn := fn, sq := 0
    entry := BitVec.ofNat 512 (handle * 2 ^ 64 + a * 2 ^ 128 + b * 2 ^ 192 + c * 2 ^ 256 + d * 2 ^ 320) }

theorem met_HostCommandResults :
    (st.pk.boot = .up ∧ fnExists st (cmdW 1 0 0 0 0 0).fn = true ∧ fnExists st (cmdW 9 0 0 0 0 0).fn = false) ∧
    (192 ≤ cmdAt (cmdW 0 0 0 192 0 0) 24 8 ∧ cmdAt (cmdW 0 0 0 191 0 0) 24 8 < 192) ∧
    -- commands of a tenant
    (getPart st (cmdAt (cmdW 1 0 0 0 0 0) 8 8) = some part0 ∧ (cmdW 1 0 0 0 0 0).fn = part0.tenant + 1 ∧
      getPart st (cmdAt (cmdW 1 7 0 0 0 0) 8 8) = none ∧ part0.notes.length < 16 ∧
      16 ≤ ({ part0 with notes := List.replicate 16 5 } : Partition).notes.length) ∧
    (cmdAt (cmdW 1 0 99 0 0 0) 16 8 < 100 ∧ 100000 < cmdAt (cmdW 1 0 100001 0 0 0) 16 8 ∧
      100 ≤ cmdAt (cmdW 1 0 100 0 0 0) 16 8 ∧ cmdAt (cmdW 1 0 100000 0 0 0) 16 8 ≤ 100000) ∧
    ((intern st 0 1).2 = some 1 ∧
      (intern { st with pk := { pack1 with launches := [], parts := [{ part0 with handle := 9 }] } } 0 2).2 = none) ∧
    (let c := cmdW 1 0 0x10000 0x40 4 8
     let fits := fun c => cmdAt c 16 8 % 65536 == 0 && cmdAt c 24 8 % 64 == 0 && decide (0 < cmdAt c 24 8) &&
       decide (cmdAt c 16 8 + cmdAt c 24 8 ≤ 2 ^ 56) && cmdAt c 32 8 % 4 == 0 && decide (cmdAt c 32 8 < cmdAt c 24 8) &&
       cmdAt c 40 8 % 4 == 0 && decide (cmdAt c 40 8 < cmdAt c 24 8)
     fits c = true ∧ fits (cmdW 1 0 0x10000 0x40 0x40 8) = false ∧
       (regionRuns (partAgent st part0) (pagesOf 0x10000 0x40) st).2 = false ∧ partBusy st part0 = true ∧
       partBusy (stTables []) part0 = false) ∧
    -- policies
    (let v := 1 + (2 ^ 0 + 2 ^ 3) * 2 ^ 64 + 9 * 2 ^ 320
     let s := { st with mem := memWrite [] (hostKey 1 0x2000) 64 v }
     memRead s.mem (hostKey 1 0x2000) 64 = v ∧ policyOk v (64 + 3373 * 2) = true ∧ policyOk v 64 = false ∧
       s.pk.policies.length < 256) ∧
    (let p : Policy := { index := 3, set := 9, dest := 0, serial := 9 }
     [p].find? (fun x => x.index == cmdAt (cmdW 1 0 3 0 0 0) 16 8) = some p ∧ p.set.getLsbD (1 - 1) = true ∧
       p.set.getLsbD (2 - 1) = false ∧ [p].find? (fun x => x.index == cmdAt (cmdW 1 0 4 0 0 0) 16 8) = none) := by
  decide +kernel

/-- Commands of the PF. -/
theorem met_HostCommandResults_pf :
    ((cmdW 0 0 0 0xFFF 0 0).fn = 0 ∧ cmdAt (cmdW 0 0 0 0xFFF 0 0) 24 8 = 0xFFF ∧ chooseNode st 0 0xFFF = some 1 ∧
      chooseNode st 0 0 = none) ∧
    (getPart st 7 = none ∧ (getFn st (part0.tenant + 1)).resetting = false ∧
      (getFn { st with pk := { pack1 with functions := [Function.fresh 0, { Function.fresh 1 with resetting := true }] } }
        (part0.tenant + 1)).resetting = true) ∧
    (cmdAt (cmdW 0 0 0x2000 0 0 0) 16 8 % 8192 = 0 ∧ hbmPresent st 0x2000 = true ∧ 0x2000 < 2 ^ 48) ∧
    (cmdAt (cmdW 0 0 3 5 6 15) 40 8 ≤ 15 ∧ 15 < cmdAt (cmdW 0 0 3 5 6 16) 40 8 ∧ cmdAt (cmdW 0 0 3 5 6 0) 40 8 = 0) ∧
    ((scrubRange 0).1 ≤ (scrubRange 0).2 ∧ 0 < (scrubRange 0).1) ∧
    (fnExists st 5 = false ∧ fnExists st 1 = true ∧ (getFn st 1).locked = false ∧
      (∃ q ∈ st.pk.parts, q.tenant + 1 = 1) ∧ (∀ q ∈ st.pk.parts, q.tenant + 1 ≠ 2)) ∧
    (st.pk.commit = none ∧ st.pk.flashWp = false ∧ imageOk st [] = false ∧ st.pk.errlog[0]? = some [] ∧
      st.pk.errlog[5]? = none ∧ st.pk.recImage = none) ∧
    ((Function.fresh 1).locked = false ∧ ({ Function.fresh 1 with tdisp := .error } : Function).locked = true) ∧
    (cmdAt (cmdW 0 0 0 8 0 1) 40 8 ≠ st.pk.stagedKind ∧ cmdAt (cmdW 0 0 0 8 0 0) 40 8 = st.pk.stagedKind ∧
      cmdAt (cmdW 0 0 0 8 0 1) 24 8 = 8 ∧ cmdAt (cmdW 0 0 0 8 0 2) 40 8 = 2) := by
  decide +kernel

/-- A flash write under way, of a commit and of recovery, with the flash writable or not. -/
theorem met_HostCommandResults_flash :
    ([false, true].all fun wp =>
      let s : State := { st with pk := { pack1 with commit := some (cmdW 0 0 0 8 0 1), flashWp := wp } }
      s.pk.recImage.isNone && s.pk.commit == some (cmdW 0 0 0 8 0 1) && s.pk.flashWp == wp) = true ∧
    ([false, true].all fun wp =>
      let s : State := { stRecovery with pk := { stRecovery.pk with recImage := some [1], flashWp := wp } }
      s.pk.recImage == some [1] && s.pk.flashWp == wp) = true := by decide +kernel

/-- A package that has left reset, of a domain with an open and a failed port. -/
noncomputable def stNet : State :=
  { st with pk := { pack1 with
      launches := [], parts := [], domsz := 2, routes := [(1, [0]), (2, [1])], unreachable := [2]
      ports := [{ role := 1, peerPkg := 1, peerPort := 0, up := true, resent := 0 },
        { role := 1, peerPkg := 2, peerPort := 0, up := false, resent := 3 }] } }

/-- Admission rests on the free reading of the domain configuration, so its further cases are only shown to be
possible. -/
theorem met_PackageEventResults :
    (st.pk.boot ≠ .inReset ∧ State.reset.pk.boot = .inReset ∧ State.reset.pk.launches = [] ∧
      imageOk State.reset State.reset.pk.flashImage = false) ∧
    (State.reset.pk.pwrgd = true ∧ State.reset.pk.journalOpen = false ∧ State.reset.pk.straps = none ∧
      (∀ src : BitVec 2, (some (1 : BitVec 2)).getD src = 1)) ∧
    (stNet.pk.boot = .up ∧ unsettled stNet.pk = true ∧ stNet.pk.parts = [] ∧ stNet.pk.launches = [] ∧
      (∃ l ∈ st.pk.launches, l.state ≠ .surviving) ∧ State.reset.pk.boot ≠ .up ∧ stNet.pk.judged = false ∧
      ({ stNet with pk := { stNet.pk with judged := true } } : State).pk.judged = true) ∧
    (portUp stNet.pk.ports 0 = true ∧ portUp stNet.pk.ports 1 = false ∧ (stNet.pk.ports[1]?).isSome = true) ∧
    ((2 ∈ stNet.pk.unreachable ∧ 1 ∈ (assocGet stNet.pk.routes 2).getD [] ∧
        (stNet.pk.ports[1]?).any (fun x => x.role == internalRole) = true) ∧
      1 ∉ stNet.pk.unreachable ∧ waitingLaunches stNet 2 = [] ∧ stNet.pk.copies = []) ∧
    (stNet.pk.tripped = false ∧ ({ stNet with pk := { stNet.pk with tripped := true } } : State).pk.tripped = true) := by
  decide +kernel

theorem met_ReliabilityEventResults :
    (let s := setGrove st 0 { getGrove st 0 with lent := [({ hart := 0, launch := some 1, lidx := 0, era := 0 }, 7)] }
     (groveUse s 0).any (fun e => e.1.current (getHart s e.1.hart) && !({ e.1 with lidx := 1 } : ContextRef).current
       (getHart s e.1.hart)) = true ∧ ((groveUse s 0).map Prod.snd).sum ≠ 0 ∧ ((groveUse State.reset 0).map Prod.snd).sum = 0) ∧
    (getLaunch st 1 = some launch1 ∧ ({ launch1 with energy := 1, charged := 999 } : Launch).energy * 1000 ≤ 999 + 1) ∧
    ((5 ≤ 5 ∧ isHostKey (hostKey 1 0) = true) ∧ isHostKey (sliceKey 0 0x9000) = false ∧
      isSliceKey (sectorKey (sliceKey 0 0x9000)) = true ∧ isSliceKey (sectorKey 0x9000) = false) ∧
    (let k := sectorKey (sliceKey 0 0x9000)
     let recent := fun (n : Nat) => ((List.replicate n (k, 0)).filter fun e =>
       decide (st.cycle < e.2 + scrubCycles st 0)).filter fun e => e.1 == k
     (recent 1).length < 2 ∧ 2 ≤ (recent 2).length) ∧
    (st.pk.errlog[4]? = some [] ∧ 4096 ≤ (List.replicate 4096 (0 : Nat)).length) ∧
    ((getHart st 0).run = .running ∧ partOf st 0 = some part0 ∧ (getHart st 4).run ≠ .running ∧ getLaunch st 9 = none) ∧
    (let worn0 := { stTables [] with core := { st.core with lasting := true } }
     let spare := setDie worn0 0 { getDie worn0 0 with spares := 2 }
     quiet worn0 0 = true ∧ inService worn0 0 = true ∧ 0 ∉ worn0.pk.substituting ∧ worn worn0 0 = true ∧
       worn (stTables []) 0 = false ∧ (getDie worn0 0).spares = 0 ∧ 0 < (getDie spare 0).spares ∧ worn spare 0 = true ∧
        (getGrove worn0 (groveOf 0)).lasting = false ∧
       quiet st 0 = false) ∧
    (let s := { stTables [] with pk := { pack1 with launches := [], substituting := [0] } }
     0 ∈ s.pk.substituting) := by decide +kernel

theorem met_MemoryReadAfterWrite : Memory.wf (memWrite [] 5 2 0x100) = true := by decide +kernel

/-- A hart whose word stands in its instruction buffer, with nothing else due; a hart with a block requested; and a
block whose two sectors can be read. -/
theorem met_StepRunsTheDecodedInstruction :
    (let s := State.reset.withFetchWord 32 0x04642800
     let a := { s with away := none }
     s.agenda = [] ∧ s.pk.cmds = [] ∧ s.hostWrites = [] ∧ s.pk.pins = [] ∧ s.pk.tripped = false ∧
       (firstEvent a (dueSteps a)).isNone = true ∧ issuingHart a = some 0 ∧ ownFirst (getCore a (0 / 4)) = false ∧
       decode 0x04642800 = .ok (.add 3 4 5)) ∧
    (let s := State.reset.withFetchWord 32 0x04642800
     let f₀ := focus { { s with away := none } with turns := s.turns.drop 1 } 0
     let g := arrivePops { f₀ with core := { f₀.core with pass := .keep } }
     (boundary g).isNone = true ∧
       (nextWord (completeAll g (g.hart.pend.filter (windowOver g.hart)))).2 = .word 0x04642800) ∧
    (st.hart.codeBase.toNat ≤ st.hart.pc.toNat ∧ st.hart.pc.toNat < st.hart.codeBase.toNat + st.hart.codeSize ∧
      heldBlock st.hart st.hart.pc = none ∧ ¬ st.hart.codeBase.toNat ≤ (0x4000000000007FFC : Dword).toNat) ∧
    (st.away = none ∧ st.hart.task.isSome = (stH { hart1 with issued := 1 }).hart.task.isSome ∧
      st.hart.fromEvents.length = (stH { hart1 with issued := 1 }).hart.fromEvents.length) ∧
    (heldBlock (stFrame 0x04642800 1).hart 0x4000000000008004).any (fun b => b.faultLo.isNone) = true ∧
    ((okOf (fetchSector st 0x4000000000008000).2).map List.length = some 32 ∧
      (okOf (fetchSector (fetchSector st 0x4000000000008000).1 0x4000000000008020).2).map List.length = some 32) := by
  decide +kernel

/-- How a turn can end: with an instruction that retired, a wait that began in one that had issued, a wait before issue
while the issuing hart is ready, and one while it is not. -/
theorem met_StepRunsTheDecodedInstruction_turns :
    (let u := nextOf (exec (.add 3 4 5) st)
     u.away = none ∧ u.hart.stall = none ∧ st.hart.issued < u.hart.issued ∧ u.hart.run = .running ∧
       busyHart u u.hgid u.hart = false ∧ windowBlocks u = false ∧ u.hart.fromEvents.length = st.hart.fromEvents.length) ∧
    (let u := nextOf (exec (.xlinvS2 6) (stMode .machine))
     u.away = none ∧ u.hart.stall ≠ none ∧ (stMode .machine).hart.inv = none ∧ u.hart.inv ≠ none) ∧
    (let f := setHart { st with core := { st.core with issuer := 1 } } 1 { hart1 with lidx := 1 }
     let u := stall f
     u.hart.stall ≠ none ∧ f.core.issuer ≠ BitVec.ofNat 2 u.hgid ∧ hartReady f (u.cid * 4 + f.core.issuer.toNat) = true ∧
       u.away = none) ∧
    ((stall st).core.issuer = BitVec.ofNat 2 (stall st).hgid) := by decide +kernel

theorem met_StepKeepsMemoryCanonical : Inv State.reset ∧
  (nextOf (step (State.reset.withFetchWord 32 0x04642800))).hart.rx 3 = 0 := by
  exact ⟨(by decide +kernel : Memory.wf State.reset.mem = true), by decide +kernel⟩

end Sys2Proof.Tests
end

section
/-!
SUPPORT. Laws of words: the functions of numbers that the integer instructions use, by the values they stand for.
-/

namespace Sys2Proof.Machine

/-! ### Counts of bits (07 R109) -/

theorem clzNat_le (w v : Nat) : clzNat w v ≤ w := by
  unfold clzNat
  split <;> omega

/-- Above the leading zeros of a number there is nothing, and below them stands a one bit. -/
theorem clzNat_spec {w v : Nat} (hv : v < 2 ^ w) :
    v < 2 ^ (w - clzNat w v) ∧ (clzNat w v < w → 2 ^ (w - 1 - clzNat w v) ≤ v) := by
  unfold clzNat
  split
  · next h0 => simp [h0]
  · next h0 =>
    have hlog : v.log2 < w := (Nat.log2_lt h0).2 hv
    have hhi : w - (w - 1 - v.log2) = v.log2 + 1 := by omega
    have hlo : w - 1 - (w - 1 - v.log2) = v.log2 := by omega
    rw [hhi, hlo]
    exact ⟨Nat.lt_log2_self, fun _ => Nat.log2_self_le h0⟩

theorem ctzNat_le (w v : Nat) : ctzNat w v ≤ w := by
  induction w generalizing v with
  | zero => simp [ctzNat]
  | succ w ih =>
    have := ih (v / 2)
    rw [ctzNat]
    split <;> omega

/-- The trailing zeros of a number are zeros, and a one bit stands above them. -/
theorem ctzNat_spec (w v : Nat) :
    v % 2 ^ ctzNat w v = 0 ∧ (ctzNat w v < w → v.testBit (ctzNat w v) = true) := by
  induction w generalizing v with
  | zero => simp [ctzNat, Nat.mod_one]
  | succ w ih =>
    obtain ⟨hzeros, hone⟩ := ih (v / 2)
    rw [ctzNat]
    split
    · next hodd => simp [Nat.mod_one, hodd]
    · next heven =>
      rw [Nat.add_comm 1, Nat.testBit_succ, Nat.pow_succ', Nat.mod_mul, hzeros]
      exact ⟨by omega, fun h => hone (by omega)⟩

theorem popNat_eq_countP (w v : Nat) : popNat w v = (List.range w).countP v.testBit := by
  induction w generalizing v with
  | zero => rfl
  | succ w ih =>
    have hbits : v.testBit ∘ Nat.succ = (v / 2).testBit := by
      funext i
      simp [Nat.testBit_succ]
    rw [popNat, ih, List.range_succ_eq_map, List.countP_cons, List.countP_map, hbits, Nat.add_comm]
    rcases Nat.mod_two_eq_zero_or_one v with h | h <;> simp [h]

/-! ### Reversals (07 R109) -/

theorem getLsbD_byteSwap (x : Dword) {i : Nat} (hi : i < 64) :
    (byteSwap x).getLsbD i = x.getLsbD (8 * (7 - i / 8) + i % 8) := by
  have hbyte : i / 8 < 8 := by omega
  have hbit : i % 8 < 8 := Nat.mod_lt _ (by decide)
  have hlane := congrArg (·.testBit (i % 8))
    (packLanes_lane 8 ((List.range 8).map fun i => x.toNat / 2 ^ (8 * (7 - i)) % 256) (i / 8))
  simp only [List.getElem?_map, List.getElem?_range hbyte, Option.map_some, Option.getD_some,
    Nat.testBit_mod_two_pow, Nat.testBit_div_two_pow, hbit, decide_true, Bool.true_and,
    show (256 : Nat) = 2 ^ 8 from rfl, Nat.mod_add_div] at hlane
  rw [byteSwap, BitVec.getLsbD_ofNat, decide_eq_true hi, Bool.true_and, BitVec.getLsbD]
  simpa [Nat.add_comm] using hlane

/-! ### Numbers of a width (00 R6, 07 R107) -/

theorem ofNat_wrapInt (w : Nat) (v : Int) : BitVec.ofNat w (wrapInt w v) = BitVec.ofInt w v := by
  apply BitVec.eq_of_toNat_eq
  have h : wrapInt w v < 2 ^ w := by
    have := Int.emod_lt_of_pos v (b := (2 ^ w : Nat)) (by positivity)
    unfold wrapInt
    omega
  rw [BitVec.toNat_ofNat, Nat.mod_eq_of_lt h, BitVec.toNat_ofInt, wrapInt]

theorem sval_toNat {w : Nat} (hw : 0 < w) (x : BitVec w) : sval w x.toNat = x.toInt := by
  have hpow : 2 ^ w = 2 * 2 ^ (w - 1) := by rw [← Nat.pow_succ', Nat.succ_eq_add_one, Nat.sub_add_cancel hw]
  have hhalf : 2 ^ (w - 1) ≤ x.toNat ↔ ¬ 2 * x.toNat < 2 ^ w := by omega
  rw [sval, Nat.mod_eq_of_lt x.isLt, BitVec.toInt, if_congr hhalf rfl rfl, ite_not]

/-- The upper half of a number reduced to a double width is its quotient reduced to the single one. -/
theorem wrapInt_double_div (w : Nat) (v : Int) : wrapInt (w + w) v / 2 ^ w = wrapInt w (v / 2 ^ w) := by
  have hpos : (0 : Int) < 2 ^ w := by positivity
  have hhigh : v % (2 ^ w * 2 ^ w) / 2 ^ w = v / 2 ^ w % 2 ^ w := by
    rw [Int.emod_def, Int.emod_def, Int.mul_assoc, Int.sub_mul_ediv_left _ _ hpos.ne',
      Int.ediv_ediv_of_nonneg hpos.le]
  have hnonneg : 0 ≤ v % (2 ^ w * 2 ^ w) := Int.emod_nonneg _ (by positivity)
  have hcast : ((v % (2 ^ w * 2 ^ w)).toNat / 2 ^ w : Nat) = (v / 2 ^ w % 2 ^ w).toNat := by
    rw [← hhigh]
    apply Int.ofNat_inj.1
    rw [Int.toNat_of_nonneg (Int.ediv_nonneg hnonneg hpos.le), Int.natCast_ediv, Int.toNat_of_nonneg hnonneg,
      Nat.cast_pow, Nat.cast_ofNat]
  simpa [wrapInt, Nat.pow_add] using hcast

theorem setWidth_ofInt {v w : Nat} (h : v ≤ w) (z : Int) : (BitVec.ofInt w z).setWidth v = BitVec.ofInt v z := by
  apply BitVec.eq_of_toNat_eq
  have hdvd : ((2 ^ v : Nat) : Int) ∣ (2 ^ w : Nat) := Int.natCast_dvd_natCast.2 (Nat.pow_dvd_pow 2 h)
  have hnonneg : 0 ≤ z % (2 ^ w : Nat) := Int.emod_nonneg _ (by positivity)
  have hcut := Int.toNat_emod hnonneg (Int.natCast_nonneg (2 ^ v))
  rw [Int.emod_emod_of_dvd z hdvd, Int.toNat_natCast] at hcut
  rw [BitVec.toNat_setWidth, BitVec.toNat_ofInt, BitVec.toNat_ofInt, hcut]

theorem ofInt_toInt_mul (w : Nat) (x y : BitVec w) : BitVec.ofInt w (x.toInt * y.toInt) = x * y := by
  rw [BitVec.ofInt_mul, BitVec.ofInt_toInt, BitVec.ofInt_toInt]

theorem sext32_mul (x y : Dword) : sext32 (x * y) = (BitVec.ofInt 32 (x.toInt * y.toInt)).signExtend 64 := by
  rw [sext32, ← ofInt_toInt_mul, setWidth_ofInt (by decide)]

theorem setWidth_setWidth_eq_ofNat {v w u : Nat} (x : BitVec w) :
    (x.setWidth v).setWidth u = BitVec.ofNat u (x.toNat % 2 ^ v) :=
  BitVec.eq_of_toNat_eq (by rw [BitVec.toNat_setWidth, BitVec.toNat_setWidth, BitVec.toNat_ofNat])

theorem not_slt_iff (x y : Dword) : (!x.slt y) = true ↔ y.toInt ≤ x.toInt := by
  rw [Bool.not_eq_true', ← Bool.not_eq_true, BitVec.slt_iff_toInt_lt, Int.not_lt]

theorem not_ult_iff (x y : Dword) : (!x.ult y) = true ↔ y.toNat ≤ x.toNat := by
  rw [Bool.not_eq_true', ← Bool.not_eq_true, BitVec.ult_iff_toNat_lt, Nat.not_lt]

/-! ### Divisions (07 R111) -/

theorem toNat_mod_eq_zero_iff (y : Dword) : y.toNat % 2 ^ 64 = 0 ↔ y = 0 := by
  rw [Nat.mod_eq_of_lt y.isLt]
  exact BitVec.toNat_inj (y := 0)

theorem ofNat_divS (x y : Dword) :
    BitVec.ofNat 64 (divS 64 x.toNat y.toNat) =
      if y = 0 then BitVec.allOnes 64 else BitVec.ofInt 64 (x.toInt.tdiv y.toInt) := by
  rw [divS, sval_toNat (by decide), sval_toNat (by decide), apply_ite (BitVec.ofNat 64), ofNat_wrapInt]
  exact if_congr (toNat_mod_eq_zero_iff y) rfl rfl

theorem ofNat_divU (x y : Dword) :
    BitVec.ofNat 64 (divU 64 x.toNat y.toNat) =
      if y = 0 then BitVec.allOnes 64 else BitVec.ofNat 64 (x.toNat / y.toNat) := by
  rw [divU, apply_ite (BitVec.ofNat 64), Nat.mod_eq_of_lt x.isLt]
  refine if_congr (toNat_mod_eq_zero_iff y) rfl ?_
  rw [Nat.mod_eq_of_lt y.isLt]

theorem ofNat_remS (x y : Dword) :
    BitVec.ofNat 64 (remS 64 x.toNat y.toNat) =
      if y = 0 then x else BitVec.ofInt 64 (x.toInt.tmod y.toInt) := by
  rw [remS, sval_toNat (by decide), sval_toNat (by decide), apply_ite (BitVec.ofNat 64), ofNat_wrapInt,
    Nat.mod_eq_of_lt x.isLt, BitVec.ofNat_toNat, BitVec.setWidth_eq]
  exact if_congr (toNat_mod_eq_zero_iff y) rfl rfl

theorem ofNat_remU (x y : Dword) :
    BitVec.ofNat 64 (remU 64 x.toNat y.toNat) = if y = 0 then x else BitVec.ofNat 64 (x.toNat % y.toNat) := by
  rw [remU, apply_ite (BitVec.ofNat 64), Nat.mod_eq_of_lt x.isLt, BitVec.ofNat_toNat, BitVec.setWidth_eq]
  refine if_congr (toNat_mod_eq_zero_iff y) rfl ?_
  rw [Nat.mod_eq_of_lt y.isLt]

/-! ### Immediates, shifts and halfwords (07 R112 to R114) -/

theorem add_immS (x : Dword) (i : BitVec 16) : x + immS i = BitVec.ofInt 64 (x.toInt + i.toInt) := by
  rw [BitVec.ofInt_add, BitVec.ofInt_toInt]
  rfl

theorem dbool_slt_immS (x : Dword) (i : BitVec 16) :
    dbool (x.slt (immS i)) = if x.toInt < i.toInt then 1 else 0 := by
  simp [dbool, BitVec.slt_iff_toInt_lt, immS, BitVec.toInt_signExtend_of_le]

theorem getLsbD_immU (i : BitVec 16) (k : Nat) : (immU i).getLsbD k = i.getLsbD k := by
  rw [immU, BitVec.getLsbD_setWidth]
  rcases Nat.lt_or_ge k 64 with hk | hk
  · simp [hk]
  · simp [BitVec.getLsbD_of_ge i k (by omega)]

theorem shiftLeft_eq_ofNat (x : Dword) (n : Nat) : x <<< n = BitVec.ofNat 64 (x.toNat * 2 ^ n) :=
  BitVec.eq_of_toNat_eq (by rw [BitVec.toNat_shiftLeft, Nat.shiftLeft_eq, BitVec.toNat_ofNat])

theorem ushiftRight_eq_ofNat (x : Dword) (n : Nat) : x >>> n = BitVec.ofNat 64 (x.toNat / 2 ^ n) := by
  apply BitVec.eq_of_toNat_eq
  rw [BitVec.toNat_ushiftRight, Nat.shiftRight_eq_div_pow, BitVec.toNat_ofNat,
    Nat.mod_eq_of_lt (Nat.lt_of_le_of_lt (Nat.div_le_self _ _) x.isLt)]

theorem sshiftRight_eq_ofInt (x : Dword) (n : Nat) : x.sshiftRight n = BitVec.ofInt 64 (x.toInt / 2 ^ n) := by
  rw [BitVec.sshiftRight, Int.shiftRight_eq_div_pow, Nat.cast_pow, Nat.cast_ofNat]

theorem getLsbD_rotateRight_mod (x : Dword) {n k : Nat} (hn : n < 64) (hk : k < 64) :
    (x.rotateRight n).getLsbD k = x.getLsbD ((k + n) % 64) := by
  rw [BitVec.getLsbD_rotateRight, Nat.mod_eq_of_lt hn]
  rcases Nat.lt_or_ge k (64 - n) with h | h
  · have hwrap : (k + n) % 64 = n + k := by omega
    simp [h, hwrap]
  · have hwrap : (k + n) % 64 = k - (64 - n) := by omega
    simp [hk, Nat.not_lt.2 h, hwrap]

theorem immU_shiftLeft (i : BitVec 16) (w : BitVec 2) :
    immU i <<< (16 * w.toNat) = BitVec.ofNat 64 (i.toNat * 2 ^ (16 * w.toNat)) := by
  rw [shiftLeft_eq_ofNat, immU, BitVec.toNat_setWidth_of_le (by decide)]

/-- The doubleword that INSH writes: the halfword `w` of `x` replaced (07 R114). -/
def insertHalf (i : BitVec 16) (w : Nat) (x : Dword) : Dword :=
  (x &&& ~~~((0xFFFF : Dword) <<< (16 * w))) ||| (immU i <<< (16 * w))

theorem getLsbD_insertHalf (x : Dword) (i : BitVec 16) {w k : Nat} (hk : k < 64) :
    (insertHalf i w x).getLsbD k = if k / 16 = w then i.getLsbD (k % 16) else x.getLsbD k := by
  have hones (j : Nat) : (0xFFFF : Dword).getLsbD j = decide (j < 16) := by
    rw [show (0xFFFF : Dword) = BitVec.ofNat 64 (2 ^ 16 - 1) from rfl, BitVec.getLsbD_ofNat,
      Nat.testBit_two_pow_sub_one, ← Bool.decide_and, decide_eq_decide]
    omega
  simp only [insertHalf, BitVec.getLsbD_or, BitVec.getLsbD_and, BitVec.getLsbD_not, BitVec.getLsbD_shiftLeft,
    getLsbD_immU, hones, hk, decide_true, Bool.true_and]
  rcases Nat.lt_trichotomy (k / 16) w with hbelow | hat | habove
  · have hlt : k < 16 * w := by omega
    simp [hlt, hbelow.ne]
  · have hge : ¬ k < 16 * w := by omega
    have hin : k % 16 < 16 := Nat.mod_lt _ (by decide)
    have hbit : k - 16 * w = k % 16 := by omega
    simp [hge, hin, hat, hbit]
  · have hge : ¬ k < 16 * w := by omega
    have hout : ¬ k - 16 * w < 16 := by omega
    simp [hge, hout, habove.ne', BitVec.getLsbD_of_ge i (k - 16 * w) (by omega)]

end Sys2Proof.Machine
end

section
/-!
SUPPORT. Rules of the shared meanings of scalar instructions: an instruction that one of them gives its meaning writes
its value, or transfers, and changes nothing else.
-/

namespace Sys2Proof.Machine

theorem writesX_of_r1 {i : Instr} {s : State} {d a : Reg} (f : Dword → Dword) {v : Dword}
    (h : exec i s = r1 s d a f) (hv : f (s.hart.rx a) = v) : WritesX i s d v := by
  subst hv
  exact h

theorem writesX_of_rr {i : Instr} {s : State} {d a b : Reg} (f : Dword → Dword → Dword) {v : Dword}
    (h : exec i s = rr s d a b f) (hv : f (s.hart.rx a) (s.hart.rx b) = v) : WritesX i s d v := by
  subst hv
  exact h

/-- A division issues as class L with the value of its function (07 R111). -/
theorem runs_of_divide {i : Instr} {s : State} {d a b : Reg} {l : BitVec 4} (f : Nat → Nat → Nat) {v : Dword}
    (h : exec i s = divide s d a b l f) (hv : dw (f (s.hart.rx a).toNat (s.hart.rx b).toNat) = v) :
    Runs i s (issueL s l (.x d v) 0 false none) := by
  subst hv
  exact h

/-! ### SEXT, ZEXT and INSH (07 R110, R114) -/

theorem sext_writesX (s : State) (d a : Reg) {w : BitVec 4} (hw : w.toNat < 3) :
    WritesX (.sext d a w) s d (((s.hart.rx a).setWidth (8 * 2 ^ w.toNat)).signExtend 64) :=
  writesX_of_r1 _ (if_pos hw) rfl

theorem zext_writesX (s : State) (d a : Reg) {w : BitVec 4} (hw : w.toNat < 3) :
    WritesX (.zext d a w) s d (BitVec.ofNat 64 ((s.hart.rx a).toNat % 2 ^ (8 * 2 ^ w.toNat))) :=
  writesX_of_r1 _ (if_pos hw) (setWidth_setWidth_eq_ofNat _)

theorem sext_traps (s : State) (d a : Reg) {w : BitVec 4} (hw : 3 ≤ w.toNat) :
    Traps (.sext d a w) s .illegal (s.hart.iword.setWidth 64) :=
  if_neg (Nat.not_lt.2 hw)

theorem zext_traps (s : State) (d a : Reg) {w : BitVec 4} (hw : 3 ≤ w.toNat) :
    Traps (.zext d a w) s .illegal (s.hart.iword.setWidth 64) :=
  if_neg (Nat.not_lt.2 hw)

theorem insh_writesX (s : State) (d : Reg) (w : BitVec 2) (i : BitVec 16) :
    WritesX (.insh d w i) s d (insertHalf i w.toNat (s.hart.rx d)) :=
  writesX_of_r1 (insertHalf i w.toNat) rfl rfl

/-! ### Transfers (07 R130 to R137) -/

theorem pcRel_eq_ofInt (pc : Dword) (n : Nat) (d : BitVec n) :
    pcRel pc n d = BitVec.ofInt 64 (pc.toInt + 4 * d.toInt) := by
  rw [BitVec.ofInt_add, BitVec.ofInt_toInt, BitVec.ofInt_mul, BitVec.mul_comm]
  rfl

theorem bits_low_two (x : Dword) : bits x 0 2 = x.toNat % 4 := by
  rw [bits, Nat.pow_zero, Nat.div_one]
  rfl

/-- A write of an x register, the link of CALL, leaves the b registers and when they were written. -/
theorem Hart.transferB_wx (h : Hart) (r : Reg) (v : Dword) (now : Nat) (t : BitVec 2) :
    (h.wx r v).transferB now t = (h.wx r v).transfer now (h.rb t) (h.bubbleOf t) := by
  simp [Hart.transferB, Hart.rb, Hart.bubbleOf]

/-- The block that the likely bit of a BRC asks the instruction buffer to keep, the target's or the next word's (07
R137). -/
def Hart.likelyBlock (h : Hart) (t : BitVec 2) (k : BitVec 1) : Option Dword :=
  some (blockOf (if k = 1 then h.rb t else h.pc + 4))

/-- A conditional branch goes to its b register when its condition holds, and else to the next word. -/
theorem branchIf_results {i : Instr} {s : State} {t : BitVec 2} {k : BitVec 1} {c : Bool} {p : Prop}
    (h : exec i s = branchIf s t k c) (hc : c = true ↔ p) :
    (p → JumpsTo i s { s.hart with keepBlock := s.hart.likelyBlock t k } (s.hart.rb t) (s.hart.bubbleOf t)) ∧
      (¬ p → Runs i s { s with hart := { s.hart.retire with keepBlock := s.hart.likelyBlock t k } }) := by
  cases c with
  | true => exact ⟨fun _ => h, fun hp => absurd (hc.1 rfl) hp⟩
  | false => exact ⟨fun hp => absurd (hc.2 hp) Bool.false_ne_true, fun _ => h⟩

theorem call_jumpsTo (s : State) (d : Reg) (t : BitVec 2) :
    JumpsTo (.call d t) s (s.hart.wx d (s.hart.pc + 4)) (s.hart.rb t) (s.hart.bubbleOf t) :=
  congrArg (fun h => ok { s with hart := h }) (Hart.transferB_wx s.hart d (s.hart.pc + 4) s.cycle t)

theorem j_jumpsTo (s : State) (l : BitVec 26) :
    JumpsTo (.j l) s s.hart (BitVec.ofInt 64 (s.hart.pc.toInt + 4 * l.toInt)) 2 := by
  rw [← pcRel_eq_ofInt]
  rfl

theorem pbr_runs (s : State) (t : BitVec 2) (j : BitVec 24) :
    Runs (.pbr t j) s
      { s with hart := (s.hart.wb t (BitVec.ofInt 64 (s.hart.pc.toInt + 4 * j.toInt))).retire } := by
  rw [← pcRel_eq_ofInt]
  rfl

/-- RET and PBRR to a multiple of 4 (07 R130, R133). -/
theorem ret_pbrr_aligned (s : State) (a : Reg) (t : BitVec 2) (h : (s.hart.rx a).toNat % 4 = 0) :
    JumpsTo (.ret a) s s.hart (s.hart.rx a) 3 ∧
      Runs (.pbrr a t) s { s with hart := (s.hart.wb t (s.hart.rx a)).retire } :=
  ⟨if_pos ((bits_low_two _).trans h), if_pos ((bits_low_two _).trans h)⟩

/-- RET and PBRR to another address trap before they change a register (07 R130, R133). -/
theorem ret_pbrr_misaligned (s : State) (a : Reg) (t : BitVec 2) (h : (s.hart.rx a).toNat % 4 ≠ 0) :
    Traps (.ret a) s .align (s.hart.rx a) ∧ Traps (.pbrr a t) s .align (s.hart.rx a) :=
  ⟨if_neg fun h0 => h ((bits_low_two _).symm.trans h0), if_neg fun h0 => h ((bits_low_two _).symm.trans h0)⟩

end Sys2Proof.Machine
end

section
/-!
The statements about scalar instructions (07 R109 to R114, R130 to R142), from the laws of words and the rules of the
shared meanings.
-/

namespace Sys2Proof.Machine

/-- Settles O5: a branch is `branchIf` of its condition, and every other transfer is the transfer of its target and
bubble. -/
theorem controlTransfers : Obligations.ControlTransfers := by
  unfold Obligations.ControlTransfers
  refine ⟨fun s d a b t k j l => ⟨branchIf_results rfl beq_iff_eq, branchIf_results rfl bne_iff_ne,
    branchIf_results rfl BitVec.slt_iff_toInt_lt, branchIf_results rfl (not_slt_iff _ _),
    branchIf_results rfl BitVec.ult_iff_toNat_lt, branchIf_results rfl (not_ult_iff _ _),
    branchIf_results rfl Iff.rfl, branchIf_results rfl (iff_of_true rfl trivial),
    ?jmpb, j_jumpsTo s l, call_jumpsTo s d t, pbr_runs s t j, ?bget, ret_pbrr_aligned s a t,
    ret_pbrr_misaligned s a t⟩, ?hints⟩
  case jmpb => rfl
  case bget => rfl
  case hints => exact fun s w => ⟨rfl, rfl, rfl⟩

/-- Settles O4: each instruction writes the value of its function, which a law of words gives in the terms of the
spec. -/
theorem integerOtherResults : Obligations.IntegerOtherResults := by
  unfold Obligations.IntegerOtherResults
  refine ⟨fun s d a => ⟨?clz, ?ctz, ?popc, ?brev, ?bswap, fun w => ⟨fun hw => ⟨sext_writesX s d a hw,
    zext_writesX s d a hw⟩, fun hw => ⟨sext_traps s d a hw, zext_traps s d a hw⟩⟩⟩,
    fun s d a b => ⟨?mul, ?mulh, ?mulhn, ?mulw⟩, fun s d a b l => ⟨?div, ?divn, ?rem, ?remn⟩,
    fun s d a i n w => ⟨?addi, ?slti, ?andi, ?ori, ?xori, ?slli, ?srli, ?srai, ?rori, ?seth, ?insh⟩⟩
  case clz =>
    exact ⟨_, writesX_of_r1 (fun x => dw (clzNat 64 x.toNat)) rfl rfl, clzNat_le _ _,
      clzNat_spec (s.hart.rx a).isLt⟩
  case ctz => exact ⟨_, writesX_of_r1 (fun x => dw (ctzNat 64 x.toNat)) rfl rfl, ctzNat_le _ _, ctzNat_spec _ _⟩
  case popc => exact writesX_of_r1 (fun x => dw (popNat 64 x.toNat)) rfl (congrArg dw (popNat_eq_countP _ _))
  case brev =>
    refine ⟨_, writesX_of_r1 BitVec.reverse rfl rfl, fun i hi => ?_⟩
    rw [BitVec.getLsbD_reverse, BitVec.getMsbD_eq_getLsbD, decide_eq_true hi, Bool.true_and]
  case bswap => exact ⟨_, writesX_of_r1 byteSwap rfl rfl, fun i hi => getLsbD_byteSwap _ hi⟩
  case mul => exact writesX_of_rr (fun x y => x * y) rfl (ofInt_toInt_mul _ _ _).symm
  case mulh =>
    exact writesX_of_rr (fun x y => dw (wrapInt 128 (x.toInt * y.toInt) / 2 ^ 64)) rfl
      ((congrArg dw (wrapInt_double_div 64 _)).trans (ofNat_wrapInt 64 _))
  case mulhn => exact writesX_of_rr (fun x y => dw (x.toNat * y.toNat / 2 ^ 64)) rfl rfl
  case mulw => exact writesX_of_rr (fun x y => sext32 (x * y)) rfl (sext32_mul _ _)
  case div => exact runs_of_divide (divS 64) rfl (ofNat_divS _ _)
  case divn => exact runs_of_divide (divU 64) rfl (ofNat_divU _ _)
  case rem => exact runs_of_divide (remS 64) rfl (ofNat_remS _ _)
  case remn => exact runs_of_divide (remU 64) rfl (ofNat_remU _ _)
  case addi => exact writesX_of_r1 (fun x => x + immS i) rfl (add_immS _ _)
  case slti => exact writesX_of_r1 (fun x => dbool (x.slt (immS i))) rfl (dbool_slt_immS _ _)
  case andi =>
    exact ⟨_, writesX_of_r1 (fun x => x &&& immU i) rfl rfl, fun k => by rw [BitVec.getLsbD_and, getLsbD_immU]⟩
  case ori =>
    exact ⟨_, writesX_of_r1 (fun x => x ||| immU i) rfl rfl, fun k => by rw [BitVec.getLsbD_or, getLsbD_immU]⟩
  case xori =>
    refine ⟨_, writesX_of_r1 (fun x => x ^^^ immU i) rfl rfl, fun k => ?_⟩
    rw [BitVec.getLsbD_xor, getLsbD_immU, Bool.bne_eq_xor]
  case slli => exact writesX_of_r1 (fun x => x <<< n.toNat) rfl (shiftLeft_eq_ofNat _ _)
  case srli => exact writesX_of_r1 (fun x => x >>> n.toNat) rfl (ushiftRight_eq_ofNat _ _)
  case srai => exact writesX_of_r1 (fun x => x.sshiftRight n.toNat) rfl (sshiftRight_eq_ofInt _ _)
  case rori =>
    exact ⟨_, writesX_of_r1 (fun x => x.rotateRight n.toNat) rfl rfl,
      fun k hk => getLsbD_rotateRight_mod _ n.isLt hk⟩
  case seth => exact writesX_of_r1 (a := d) (fun _ => immU i <<< (16 * w.toNat)) rfl (immU_shiftLeft i w)
  case insh => exact ⟨_, insh_writesX s d w i, fun k hk => getLsbD_insertHalf _ i hk⟩

end Sys2Proof.Machine
end

section
/-!
SUPPORT. Laws of numbers of an element width: the values that the lane functions of integer instructions reduce (05 R77,
07 R107, 09 R159).
-/

namespace Sys2Proof.Machine

/-! ### Reduction and saturation -/

theorem wrapInt_natCast (w n : Nat) : wrapInt w (n : Int) = n % 2 ^ w := by
  rw [wrapInt, ← Int.natCast_mod, Int.toNat_natCast]

theorem wrapInt_natCast_sub {w y : Nat} (x : Nat) (hy : y ≤ 2 ^ w) :
    wrapInt w ((x : Int) - y) = (x + 2 ^ w - y) % 2 ^ w := by
  rw [← wrapInt_natCast, Nat.cast_sub (by omega), Nat.cast_add, add_sub_right_comm, wrapInt, wrapInt,
    Int.add_emod_right]

/-- The upper half of a product, as VMULH takes it (09 R159). -/
theorem wrapInt_two_mul_div (w : Nat) (v : Int) : wrapInt (2 * w) v / 2 ^ w = wrapInt w (v / (2 ^ w : Nat)) := by
  rw [Nat.two_mul, wrapInt_double_div, Nat.cast_pow, Nat.cast_ofNat]

theorem satInt_signed (w : Nat) (v : Int) :
    satInt true w v = (Max.max (-(2 ^ (w - 1) : Nat)) (Min.min ((2 ^ (w - 1) : Nat) - 1) v) : Int) := by
  have hpos : 0 < 2 ^ (w - 1) := Nat.two_pow_pos _
  simp only [satInt, intMin, intMax, if_true]
  split_ifs <;> omega

theorem satInt_unsigned_add (w x y : Nat) :
    satInt false w ((x : Int) + y) = (Min.min (2 ^ w - 1) (x + y) : Nat) := by
  have hpos : 0 < 2 ^ w := Nat.two_pow_pos _
  simp only [satInt, intMin, intMax, Bool.false_eq_true, if_false]
  split_ifs <;> omega

theorem satInt_unsigned_sub {w x : Nat} (y : Nat) (hx : x < 2 ^ w) :
    satInt false w ((x : Int) - y) = (x - y : Nat) := by
  simp only [satInt, intMin, intMax, Bool.false_eq_true, if_false]
  split_ifs <;> omega

/-! ### Signed values -/

theorem sval_inj {w x y : Nat} (hx : x < 2 ^ w) (hy : y < 2 ^ w) (h : sval w x = sval w y) : x = y := by
  simp only [sval, Nat.mod_eq_of_lt hx, Nat.mod_eq_of_lt hy] at h
  split_ifs at h <;> omega

/-! ### Bits -/

theorem toNat_and_add_and_not {w : Nat} (x y : BitVec w) : (x &&& y).toNat + (x &&& ~~~y).toNat = x.toNat := by
  have hdisjoint : x &&& y &&& (x &&& ~~~y) = 0#w := by
    ext i
    simp +contextual
  rw [← BitVec.toNat_add_of_and_eq_zero hdisjoint, BitVec.add_eq_or_of_and_eq_zero _ _ hdisjoint]
  congr 1
  ext i
  cases h : y[i] <;> simp [h]

/-- The bits of a number that another has not (09 R159, VANDN). -/
theorem and_complement {w x y : Nat} (hx : x < 2 ^ w) (hy : y < 2 ^ w) :
    x &&& (2 ^ w - 1 - y % 2 ^ w) = x - (x &&& y) := by
  have h := toNat_and_add_and_not (BitVec.ofNat w x) (BitVec.ofNat w y)
  simp only [BitVec.toNat_and, BitVec.toNat_not, BitVec.toNat_ofNat, Nat.mod_eq_of_lt hx, Nat.mod_eq_of_lt hy] at h
  rw [Nat.mod_eq_of_lt hy]
  omega

/-! ### Values of the lane functions -/

section
variable {w x y : Nat}

/-- Where the lane of an equal value may be taken for the other, a strict test of signed values picks as a weak one. -/
theorem ite_sval_lt {u v : Nat} (hx : x < 2 ^ w) (hy : y < 2 ^ w) (huv : x = y → u = v) :
    (if sval w x < sval w y then u else v) = if sval w x ≤ sval w y then u else v := by
  split_ifs with hlt hle
  · rfl
  · omega
  · exact (huv (sval_inj hx hy (by omega))).symm
  · rfl

theorem divS_of_lt (x : Nat) (hy : y < 2 ^ w) :
    divS w x y = if y = 0 then 2 ^ w - 1 else wrapInt w ((sval w x).tdiv (sval w y)) := by
  rw [divS, Nat.mod_eq_of_lt hy]

theorem divU_of_lt (hx : x < 2 ^ w) (hy : y < 2 ^ w) : divU w x y = if y = 0 then 2 ^ w - 1 else x / y := by
  rw [divU, Nat.mod_eq_of_lt hx, Nat.mod_eq_of_lt hy]

theorem remS_of_lt (hx : x < 2 ^ w) (hy : y < 2 ^ w) :
    remS w x y = if y = 0 then x else wrapInt w ((sval w x).tmod (sval w y)) := by
  rw [remS, Nat.mod_eq_of_lt hx, Nat.mod_eq_of_lt hy]

theorem remU_of_lt (hx : x < 2 ^ w) (hy : y < 2 ^ w) : remU w x y = if y = 0 then x else x % y := by
  rw [remU, Nat.mod_eq_of_lt hx, Nat.mod_eq_of_lt hy]

end

end Sys2Proof.Machine
end

section
/-!
SUPPORT. Rules of the shared meanings of vector instructions: what a register or mask built from lanes holds (09 R146,
R147), and that an instruction of an accepted element type writes it and changes nothing else, one of another type being
ILLEGAL (R145).
-/

namespace Sys2Proof.Machine

/-! ### Lanes and masks -/

theorem lane_mod (v : VReg) (w i : Nat) : lane v w i % 2 ^ w = lane v w i := Nat.mod_eq_of_lt (lane_lt v w i)

theorem Hart.laneA_lt (h : Hart) (a : Reg) (i : Nat) : h.laneA a i < 2 ^ elemWidth h.et := lane_lt _ _ _

theorem Hart.laneB_lt (h : Hart) (v : BitVec 1) (b : Reg) (i : Nat) : h.laneB v b i < 2 ^ elemWidth h.et := by
  unfold Hart.laneB
  split
  · exact Nat.mod_lt _ (Nat.two_pow_pos _)
  · exact lane_lt _ _ _

@[simp] theorem Hart.rv_wv_same (h : Hart) (d : Reg) (v : VReg) : (h.wv d v).rv d = v := by
  have hd : d.toNat < 32 := d.isLt
  simp [Hart.rv, Hart.wv, hd]

/-- Lane i of a merged register that its lanes fill (09 R146). -/
theorem lane_mergeLanes {w n i : Nat} (hw : w * n = 512) (hi : i < n) (act body : Nat → Bool) (zm tp : Bool)
    (old : VReg) (f : Nat → Nat) :
    lane (mergeLanes w n act body zm tp old f) w i =
      if act i = true then f i % 2 ^ w
      else if body i = true then (if zm = true then 0 else lane old w i)
      else if tp = true then 0 else lane old w i := by
  rw [mergeLanes, lane_pack _ _ _ _ hw hi]
  split_ifs <;> simp [lane_mod]

/-- Bit k of packed bits. -/
theorem testBit_packLanes_one (l : List Nat) (k : Nat) :
    (packLanes 1 l).testBit k = ((l[k]?).getD 0 % 2 == 1) := by
  have h := packLanes_lane 1 l k
  rw [Nat.one_mul, Nat.pow_one] at h
  rw [Nat.testBit_eq_decide_div_mod_eq, h]
  rfl

/-- Bit k of the doubleword that a compare builds (09 R147). -/
theorem getLsbD_mergeMask {k : Nat} (hk : k < 64) (n : Nat) (act body : Nat → Bool) (zm tp : Bool) (old : Dword)
    (f : Nat → Bool) :
    (mergeMask n act body zm tp old f).getLsbD k =
      if n ≤ k then false
      else if act k = true then f k
      else if body k = true then (if zm = true then false else old.getLsbD k)
      else if tp = true then false else old.getLsbD k := by
  have hbit (b : Bool) : (b.toNat % 2 == 1) = b := by cases b <;> rfl
  rw [mergeMask, BitVec.getLsbD_ofNat, decide_eq_true hk, Bool.true_and, testBit_packLanes_one]
  rcases Nat.lt_or_ge k n with hkn | hkn
  · simp only [List.getElem?_map, List.getElem?_range hkn, Option.map_some, Option.getD_some, if_neg (Nat.not_le.2 hkn)]
    split_ifs <;> simp only [hbit, bit, Nat.zero_mod] <;> rfl
  · simp [hkn]

theorem MergedLanes.congr {h : Hart} {m : BitVec 3} {z : Bool} {old v : VReg} {f g : Nat → Nat}
    (hv : MergedLanes h m z old v f) (hfg : ∀ k, f k % 2 ^ elemWidth h.et = g k % 2 ^ elemWidth h.et) :
    MergedLanes h m z old v g := fun k hk => by rw [hv k hk, hfg]

theorem WritesLanes.congr {i : Instr} {s : State} {d : Reg} {m : BitVec 3} {z : Bool} {f g : Nat → Nat}
    {fl : Nat → Flags} (hi : WritesLanes i s d m z f fl)
    (hfg : ∀ k, f k % 2 ^ elemWidth s.hart.et = g k % 2 ^ elemWidth s.hart.et) : WritesLanes i s d m z g fl := by
  obtain ⟨v, hv, hlanes⟩ := hi
  exact ⟨v, hv, hlanes.congr hfg⟩

/-! ### Flags -/

theorem laneFlags_zero (n : Nat) (act : Nat → Bool) : laneFlags n act (fun _ => 0) = 0 := by
  unfold laneFlags
  induction List.range n with
  | nil => rfl
  | cons k l ih =>
    rw [List.map_cons, unionFlags, ih, ite_self]
    exact BitVec.or_zero

theorem laneFlags_congr {n : Nat} {act : Nat → Bool} {f g : Nat → Flags} (h : ∀ k, act k = true → f k = g k) :
    laneFlags n act f = laneFlags n act g := by
  have hlane : (fun k => if act k = true then f k else 0) = fun k => if act k = true then g k else 0 :=
    funext fun k => ite_congr rfl (h k) fun _ => rfl
  rw [laneFlags, laneFlags, hlane]

/-! ### Instructions that write a register of lanes or a mask -/

theorem writesV_of_exec {i : Instr} {s : State} {d : Reg} {v : Hart → VReg}
    (h : exec i s = ok (onHart s fun h => (h.wv d (v h)).retire)) : WritesV i s d (v s.hart) 0 := by
  rw [WritesV, raiseFlags_zero]
  exact h

theorem writesM_of_exec {i : Instr} {s : State} {d : BitVec 3} {v : Hart → Dword}
    (h : exec i s = ok (onHart s fun h => (h.wm d (v h)).retire)) : WritesM i s d (v s.hart) 0 := by
  rw [WritesM, raiseFlags_zero]
  exact h

/-! ### Instructions under a test of the element type -/

theorem classI_of_lt {et : Nat} (h : et < 8) : classI et = true := decide_eq_true h

theorem not_classI {et : Nat} (h : 8 ≤ et) : ¬ classI et = true := fun hc => by
  have := of_decide_eq_true hc
  omega

theorem classF_of_bounds {et : Nat} (h : 8 ≤ et ∧ et < 12) : classF et = true := by
  simpa [classF] using h

/-- An instruction whose test of the element type fails is ILLEGAL (09 R145). -/
theorem traps_of_rejected {i : Instr} {s : State} {c : Prop} {inst : Decidable c}
    {r : Host.Outcome State Fault Refusal} (h : exec i s = if c then r else ok (illegal s)) (hc : ¬ c) :
    Traps i s .illegal (s.hart.iword.setWidth 64) := h.trans (if_neg hc)

theorem vecOn_accepted {s : State} {accept : Nat → Bool} (f : Hart → Hart) (ha : accept s.hart.et = true) :
    vecOn s accept f = ok (onHart s fun h => (f h).retire) := if_pos ha

theorem writesV_of_vecOn {i : Instr} {s : State} {d : Reg} {accept : Nat → Bool} {v : Hart → VReg}
    (h : exec i s = vecOn s accept fun h => h.wv d (v h)) (ha : accept s.hart.et = true) :
    WritesV i s d (v s.hart) 0 := writesV_of_exec (h.trans (vecOn_accepted _ ha))

theorem writesLanes_of_vecOn {i : Instr} {s : State} {d : Reg} {m : BitVec 3} {z : Bool} {accept : Nat → Bool}
    {f : Hart → Nat → Nat} {g : Nat → Nat} (h : exec i s = vecOn s accept fun h => h.writeLanes d m z (f h))
    (ha : accept s.hart.et = true)
    (hfg : ∀ k, f s.hart k % 2 ^ elemWidth s.hart.et = g k % 2 ^ elemWidth s.hart.et) :
    WritesLanes i s d m z g fun _ => 0 := by
  have hf : WritesLanes i s d m z (f s.hart) fun _ => 0 := by
    refine writesLanes_of_exec ?_
    rw [h, vecOn_accepted _ ha, onHart, onHart]
  exact hf.congr hfg

theorem writesMask_of_vecOn {i : Instr} {s : State} {d : Reg} {m : BitVec 3} {z : Bool} {accept : Nat → Bool}
    {f : Hart → Nat → Bool} {g : Nat → Bool} (h : exec i s = vecOn s accept fun h => h.writeMask d m z (f h))
    (ha : accept s.hart.et = true) (hfg : ∀ k, f s.hart k = g k) :
    WritesMask i s (maskDest d) m z g fun _ => 0 := by
  obtain rfl : f s.hart = g := funext hfg
  refine ⟨mergeMask (laneCount s.hart.et) (s.hart.active m) (fun i => decide (i < s.hart.al)) (s.hart.mp || z)
    s.hart.tp (s.hart.rm (maskDest d)) (f s.hart), ?_, fun k hk => ?_⟩
  · rw [WritesM, laneFlags_zero, raiseFlags_zero]
    exact h.trans (vecOn_accepted _ ha)
  · simp only [getLsbD_mergeMask hk, decide_eq_true_eq, Bool.or_eq_true]

/-- A class L lane division merges its lanes with vd as it stands at issue (09 R166; notes/assumptions/7.md). -/
theorem runs_of_viDiv {i : Instr} {s : State} {d a b : Reg} {m : BitVec 3} {z : BitVec 1} {l : BitVec 4}
    {f : Nat → Nat → Nat → Nat} {g : Nat → Nat} (h : exec i s = viDiv s d a b m z l f)
    (ha : classI s.hart.et = true)
    (hfg : ∀ k, f (elemWidth s.hart.et) (s.hart.laneA a k) (s.hart.laneA b k) % 2 ^ elemWidth s.hart.et =
      g k % 2 ^ elemWidth s.hart.et) :
    ∃ r, Runs i s (issueL s l (.v d r) 0 false none) ∧ MergedLanes s.hart m (z == 1) (s.hart.rv d) r g := by
  refine ⟨_, h.trans (if_pos ha), ?_⟩
  rw [Hart.writeLanes, Hart.rv_wv_same]
  exact (mergeLanes_merged _ _ _ _ _).congr hfg

end Sys2Proof.Machine
end

section
/-!
SUPPORT. Laws of the reductions (05 R99, R100, 09 R168): what every node of the tree keeps holds of the whole reduction.
-/

namespace Sys2Proof.Machine

/-! ### The tree -/

/-- Every node of the tree keeps a relation between the operands below it and its result. -/
def KeptByNode (f : Nat → Nat → Nat × Flags) (P : List Nat → Option Nat × Flags → Prop) : Prop :=
  ∀ l l' a b, P l a → P l' b → P (l ++ l') (node f a b)

section
variable {f : Nat → Nat → Nat × Flags} {P : List Nat → Option Nat × Flags → Prop}

theorem length_treeLevel (f : Nat → Nat → Nat × Flags) (ns : List (Option Nat × Flags)) :
    (treeLevel f ns).length = (ns.length + 1) / 2 := by
  fun_induction treeLevel f ns with
  | case1 a b l ih => simp only [List.length_cons, ih]; omega
  | case2 l h =>
    match l, h with
    | [], _ => rfl
    | [_], _ => simp
    | a :: b :: l, h => exact absurd rfl (h a b l)

/-- A level of the tree keeps the relation, over the same operands in the same order. -/
theorem treeLevel_keeps (hP : KeptByNode f P) {ls : List (List Nat)} {ns : List (Option Nat × Flags)}
    (h : List.Forall₂ P ls ns) : ∃ ls', ls'.flatten = ls.flatten ∧ List.Forall₂ P ls' (treeLevel f ns) := by
  fun_induction treeLevel f ns generalizing ls with
  | case1 a b ns ih =>
    obtain _ | ⟨ha, _ | ⟨hb, htail⟩⟩ := h
    obtain ⟨ls', hflat, hkept⟩ := ih htail
    exact ⟨_ :: ls', by simp [hflat], .cons (hP _ _ _ _ ha hb) hkept⟩
  | case2 ns _ => exact ⟨ls, rfl, h⟩

theorem tree_keeps (hP : KeptByNode f P) (hnone : P [] (none, 0)) {n : Nat} {ls : List (List Nat)}
    {ns : List (Option Nat × Flags)} (h : List.Forall₂ P ls ns) (hn : ns.length ≤ 2 ^ n) :
    P ls.flatten (tree f n ns) := by
  induction n generalizing ls ns with
  | zero =>
    obtain _ | ⟨ha, _ | ⟨_, _⟩⟩ := h
    · exact hnone
    · simpa [tree] using ha
    · simp at hn
  | succ n ih =>
    obtain ⟨ls', hflat, hkept⟩ := treeLevel_keeps hP h
    rw [tree, ← hflat]
    exact ih hkept (by rw [length_treeLevel]; rw [Nat.pow_succ] at hn; omega)

/-- A reduction is a last node, of the start value and the tree. -/
theorem node_start_tree (f : Nat → Nat → Nat × Flags) (start : Nat) (vs : List (Option Nat)) :
    node f (some start, 0) (tree f 7 (vs.map fun v => (v, 0))) =
      (some (reduceTree f start vs).1, (reduceTree f start vs).2) := by
  unfold reduceTree node
  rcases tree f 7 (vs.map fun v => (v, 0)) with ⟨_ | v, fl⟩ <;> simp

theorem reduceTree_keeps (hP : KeptByNode f P) (hnone : P [] (none, 0)) (hsome : ∀ x, P [x] (some x, 0))
    (start : Nat) {vs : List (Option Nat)} (hlen : vs.length ≤ 128) :
    P (start :: vs.reduceOption) (some (reduceTree f start vs).1, (reduceTree f start vs).2) := by
  have hleaves : List.Forall₂ P (vs.map Option.toList) (vs.map fun v => (v, 0)) := by
    rw [List.forall₂_map_left_iff, List.forall₂_map_right_iff, List.forall₂_same]
    rintro (_ | x) _
    · exact hnone
    · exact hsome x
  have htree := tree_keeps hP hnone (n := 7) hleaves (by rwa [List.length_map])
  rw [← node_start_tree, List.reduceOption, List.filterMap_eq_flatMap_toList]
  exact hP [start] _ _ _ (hsome start) htree

end

/-- The operands of a reduction are those of its active lanes (05 R99). -/
theorem reduceOption_active (p : Nat → Bool) (g : Nat → Nat) (l : List Nat) :
    (l.map fun k => if p k = true then some (g k) else none).reduceOption = (l.filter p).map g := by
  induction l with
  | nil => rfl
  | cons k l ih => cases hk : p k <;> simp [hk, ih]

/-! ### Sums, minima and maxima of integers -/

/-- Every merge of two operands keeps a relation between operands and result. -/
def KeptByMerge (g : Nat → Nat → Nat) (Q : List Nat → Option Nat → Prop) : Prop :=
  ∀ l l' a b, Q l a → Q l' b → Q (l ++ l') (a.merge g b)

/-- A node of a function that raises no flag merges its operands. -/
theorem node_exact (g : Nat → Nat → Nat) (a b : Option Nat) :
    node (fun x y => (g x y, 0)) (a, 0) (b, 0) = (a.merge g b, 0) := by
  cases a <;> cases b <;> simp [node]

/-- A reduction by a function that raises no flag. -/
theorem reduceTree_exact {g : Nat → Nat → Nat} {Q : List Nat → Option Nat → Prop} (hQ : KeptByMerge g Q)
    (hnone : Q [] none) (hsome : ∀ x, Q [x] (some x)) (start : Nat) {vs : List (Option Nat)} (hlen : vs.length ≤ 128) :
    Q (start :: vs.reduceOption) (some (reduceTree (fun x y => (g x y, 0)) start vs).1) ∧
      (reduceTree (fun x y => (g x y, 0)) start vs).2 = 0 := by
  refine reduceTree_keeps (P := fun l o => Q l o.1 ∧ o.2 = 0) ?_ ⟨hnone, rfl⟩ (fun x => ⟨hsome x, rfl⟩) start hlen
  rintro l l' ⟨a, _⟩ ⟨b, _⟩ ⟨ha, rfl⟩ ⟨hb, rfl⟩
  rw [node_exact]
  exact ⟨hQ _ _ _ _ ha hb, rfl⟩

/-- The result is the sum of the operands modulo 2^w, zero where there is none. -/
def SumsTo (w : Nat) (l : List Nat) (o : Option Nat) : Prop := o.getD 0 % 2 ^ w = l.sum % 2 ^ w

theorem sumsTo_merge (w : Nat) : KeptByMerge (fun x y => (x + y) % 2 ^ w) (SumsTo w) := by
  intro l l' a b ha hb
  have hsum : (a.merge (fun x y => (x + y) % 2 ^ w) b).getD 0 % 2 ^ w = (a.getD 0 + b.getD 0) % 2 ^ w := by
    cases a <;> cases b <;> simp
  rw [SumsTo, hsum, List.sum_append, Nat.add_mod, ha, hb, ← Nat.add_mod]

/-- The result is one of the operands and of least key among them, if there is any. -/
def LeastOf (key : Nat → Int) (l : List Nat) (o : Option Nat) : Prop :=
  (o = none → l = []) ∧ ∀ r, o = some r → r ∈ l ∧ ∀ n ∈ l, key r ≤ key n

theorem leastOf_merge {key : Nat → Int} {g : Nat → Nat → Nat}
    (hg : ∀ x y, (g x y = x ∨ g x y = y) ∧ key (g x y) ≤ key x ∧ key (g x y) ≤ key y) :
    KeptByMerge g (LeastOf key) := by
  rintro l l' (_ | x) (_ | y) ⟨ha, ha'⟩ ⟨hb, hb'⟩
  · simp [LeastOf, ha rfl, hb rfl]
  · simpa [LeastOf, ha rfl] using hb' y rfl
  · simpa [LeastOf, hb rfl] using ha' x rfl
  · obtain ⟨hx, hxle⟩ := ha' x rfl
    obtain ⟨hy, hyle⟩ := hb' y rfl
    obtain ⟨hone, hgx, hgy⟩ := hg x y
    refine ⟨nofun, fun r hr => ?_⟩
    obtain rfl : g x y = r := Option.some.inj hr
    refine ⟨?_, fun n hn => ?_⟩
    · rcases hone with h | h <;> simp [h, hx, hy]
    · rcases List.mem_append.1 hn with h | h
      · exact hgx.trans (hxle n h)
      · exact hgy.trans (hyle n h)

/-- The number that an integer reduction compares, signed for the s types (09 R168). -/
def redOrder (et n : Nat) : Int := if elemSigned et then sval (elemWidth et) n else (n : Int)

/-- A minimum is of least number, a maximum of least negated number. -/
def redKey (et : Nat) (mx : Bool) (n : Nat) : Int := if mx then -redOrder et n else redOrder et n

theorem redMinMax_fst (et : Nat) (mx : Bool) (x y : Nat) :
    (redMinMax et mx x y).1 = if decide (redOrder et x < redOrder et y) != mx then x else y := by
  cases hs : elemSigned et <;> simp [redMinMax, redOrder, hs]

theorem redMinMax_least (et : Nat) (mx : Bool) (x y : Nat) :
    let r := (redMinMax et mx x y).1
    (r = x ∨ r = y) ∧ redKey et mx r ≤ redKey et mx x ∧ redKey et mx r ≤ redKey et mx y := by
  rw [redMinMax_fst]
  by_cases hlt : redOrder et x < redOrder et y <;> cases mx <;> simp [redKey, hlt] <;> omega

/-- VFREDSEQ combines the start value with the active lanes in their order (05 R100). -/
theorem reduceSeq_eq (f : Nat → Nat → Nat × Flags) (start : Nat) (vs : List (Option Nat)) :
    reduceSeq f start vs =
      vs.reduceOption.foldl (fun acc n => ((f acc.1 n).1, acc.2 ||| (f acc.1 n).2)) (start, 0) := by
  unfold reduceSeq
  generalize (start, (0 : Flags)) = acc
  induction vs generalizing acc with
  | nil => rfl
  | cons v vs ih => cases v <;> exact ih _

end Sys2Proof.Machine
end

section
/-!
SUPPORT. Rules of the reductions and of the sums of products: what VFDOT2, VIDOT4 and a reduction write (09 R164, R165,
R168).
-/

namespace Sys2Proof.Machine

/-! ### Reductions -/

/-- It writes lane 0 of a vector register, the other lanes follow the tail policy, raises flags, retires, and changes
nothing else (09 R168). -/
def WritesLaneZero (i : Instr) (s : State) (d : Reg) (r : Nat) (fl : Flags) : Prop :=
  ∃ out, WritesV i s d out fl ∧ lane out (elemWidth s.hart.et) 0 = r % 2 ^ elemWidth s.hart.et ∧
    ∀ k, k < laneCount s.hart.et → 0 < k → lane out (elemWidth s.hart.et) k =
      if s.hart.tp = true then 0 else lane (s.hart.rv d) (elemWidth s.hart.et) k

/-- The operands of a reduction lane by lane, none where the lane is not active (05 R99). -/
def Hart.reduced (h : Hart) (a : Reg) (m : BitVec 3) : List (Option Nat) :=
  (List.range (laneCount h.et)).map fun k => if h.active m k then some (h.laneA a k) else none

theorem laneCount_pos (et : Nat) : 0 < laneCount et := by
  have := laneCount_mul et
  exact Nat.pos_of_ne_zero fun h => by simp [h] at this

theorem laneCount_le (et : Nat) : laneCount et ≤ 128 := by
  have := laneCount_mul et
  rcases elemWidth_cases et with h | h | h | h | h <;> rw [h] at this <;> omega

theorem Hart.length_reduced (h : Hart) (a : Reg) (m : BitVec 3) : (h.reduced a m).length ≤ 128 := by
  rw [Hart.reduced, List.length_map, List.length_range]
  exact laneCount_le _

theorem writesLaneZero_of_vred {i : Instr} {s : State} {d a b : Reg} {m : BitVec 3} {v : BitVec 1}
    {accept : Nat → Bool} {red : Nat → List (Option Nat) → Nat × Flags} (h : exec i s = vred s d a b m v accept red)
    (ha : accept s.hart.et = true) :
    WritesLaneZero i s d (red (s.hart.laneB v b 0) (s.hart.reduced a m)).1
      (red (s.hart.laneB v b 0) (s.hart.reduced a m)).2 := by
  refine ⟨_, h.trans (if_pos ha), ?_, fun k hk h0 => ?_⟩
  · rw [lane_mergeLanes (laneCount_mul _) (laneCount_pos _)]
    rfl
  · rw [lane_mergeLanes (laneCount_mul _) hk]
    simp [h0.ne']

theorem WritesLaneZero.congr {i : Instr} {s : State} {d : Reg} {r r' : Nat} {fl fl' : Flags}
    (h : WritesLaneZero i s d r fl) (hr : r % 2 ^ elemWidth s.hart.et = r' % 2 ^ elemWidth s.hart.et) (hfl : fl = fl') :
    WritesLaneZero i s d r' fl' := by
  subst hfl
  obtain ⟨out, hout, hzero, hrest⟩ := h
  exact ⟨out, hout, hzero.trans hr, hrest⟩

/-- An integer reduction writes what its merge makes of the start value and the active lanes (05 R99). -/
theorem writesLaneZero_of_exact {i : Instr} {s : State} {d a b : Reg} {m : BitVec 3} {v : BitVec 1}
    {g : Nat → Nat → Nat} {Q : List Nat → Option Nat → Prop}
    (h : exec i s = vred s d a b m v classI (reduceTree fun x y => (g x y, 0))) (ha : classI s.hart.et = true)
    (hQ : KeptByMerge g Q) (hnone : Q [] none) (hsome : ∀ x, Q [x] (some x)) :
    ∃ r, WritesLaneZero i s d r 0 ∧ Q (s.hart.laneB v b 0 ::
      ((List.range (laneCount s.hart.et)).filter (s.hart.active m)).map (s.hart.laneA a)) (some r) := by
  have hred := reduceTree_exact hQ hnone hsome (s.hart.laneB v b 0) (s.hart.length_reduced a m)
  rw [Hart.reduced, reduceOption_active] at hred
  exact ⟨_, (writesLaneZero_of_vred h ha).congr rfl hred.2, hred.1⟩

/-- VREDMIN and VREDMAX write the operand of least key (09 R168). -/
theorem writesLaneZero_of_redMinMax {i : Instr} {s : State} {d a b : Reg} {m : BitVec 3} {v : BitVec 1} {mx : Bool}
    (h : exec i s = vred s d a b m v classI (reduceTree (redMinMax s.hart.et mx))) (ha : classI s.hart.et = true) :
    let all := s.hart.laneB v b 0 ::
      ((List.range (laneCount s.hart.et)).filter (s.hart.active m)).map (s.hart.laneA a)
    ∃ r, WritesLaneZero i s d r 0 ∧ r ∈ all ∧ ∀ n ∈ all, redKey s.hart.et mx r ≤ redKey s.hart.et mx n := by
  obtain ⟨r, hr, _, hleast⟩ := writesLaneZero_of_exact h ha (leastOf_merge (redMinMax_least _ _))
    ⟨fun _ => rfl, nofun⟩ fun _ => by simp [LeastOf]
  exact ⟨r, hr, hleast r rfl⟩

/-! ### Sums of products -/

/-- Whether lane k of a result of 16 lanes of 32 bits is active, each of which stands for `n` source lanes (09 R164,
R165). -/
def Hart.takes (h : Hart) (m : BitVec 3) (n k : Nat) : Bool := decide (n * k < h.al) && (m = 0 || bit (h.rm m) k)

/-- A result of 16 lanes of 32 bits by the policies (09 R164, R165). -/
def Hart.mergeWide (h : Hart) (m : BitVec 3) (n : Nat) (old : VReg) (f : Nat → Nat) : VReg :=
  mergeLanes 32 16 (h.takes m n) (fun k => decide (n * k < h.al)) h.mp h.tp old f

theorem lane_mergeWide (h : Hart) (m : BitVec 3) (n : Nat) (old : VReg) {f g : Nat → Nat}
    (hfg : ∀ k, h.takes m n k = true → f k % 2 ^ 32 = g k % 2 ^ 32) {k : Nat} (hk : k < 16) :
    lane (h.mergeWide m n old f) 32 k =
      if h.takes m n k = true then g k % 2 ^ 32
      else if n * k < h.al then (if h.mp = true then 0 else lane old 32 k)
      else if h.tp = true then 0 else lane old 32 k := by
  rw [Hart.mergeWide, lane_mergeLanes (by decide) hk]
  simp only [decide_eq_true_eq]
  exact ite_congr rfl (hfg k) fun _ => rfl

theorem Hart.lt_al_of_takes {h : Hart} {m : BitVec 3} {n k : Nat} (ht : h.takes m n k = true) : n * k < h.al :=
  of_decide_eq_true (Bool.and_elim_left ht)

/-- The f32 lane k of VFDOT2 (09 R164). -/
def Hart.dot2Lane (h : Hart) (a b c : Reg) (k : Nat) : Nat × Flags :=
  dot2 h.frmode h.fmt (([2 * k, 2 * k + 1].filter fun j => j < h.al).map fun j => (h.laneA a j, h.laneA b j))
    (lane (h.rv c) 32 k)

theorem vfdot2_writesV {s : State} (d a b c : Reg) (m : BitVec 3) (het : s.hart.et = 8 ∨ s.hart.et = 9) :
    WritesV (.vfdot2 d a b c m) s d (s.hart.mergeWide m 2 (s.hart.rv d) fun k => (s.hart.dot2Lane a b c k).1)
      (laneFlags 16 (s.hart.takes m 2) fun k => (s.hart.dot2Lane a b c k).2) := if_pos het

/-- The sum of products of lane k of VIDOT4, reduced (09 R165). -/
def Hart.dot4Lane (h : Hart) (a b c : Reg) (k : Nat) : Nat :=
  let val := fun v => if h.et = 0 then sval 8 v else (v : Int)
  let q := fun j => if j < h.al then val (h.laneA a j) * val (lane (h.rv b) 8 j) else 0
  wrapInt 32 (q (4 * k) + q (4 * k + 1) + q (4 * k + 2) + q (4 * k + 3) + lane (h.rv c) 32 k)

theorem vidot4_writesV {s : State} (d a b c : Reg) (m : BitVec 3) (het : s.hart.et = 0 ∨ s.hart.et = 4) :
    WritesV (.vidot4 d a b c m) s d (s.hart.mergeWide m 4 (s.hart.rv d) (s.hart.dot4Lane a b c)) 0 := by
  refine writesV_of_vecOn (accept := fun et => et == 0 || et == 4)
    (v := fun h => h.mergeWide m 4 (h.rv d) (h.dot4Lane a b c)) rfl ?_
  simpa using het

/-- One f32 lane of VFDOT2 whose first source lane is active: with one product where the second lies past the active
length (09 R164). -/
theorem dot2_pair (mode : RMode) (ty : Fmt) (al : Nat) (x y : Nat → Nat) (c : Nat) {k : Nat} (hk : 2 * k < al) :
    let one := mulVals (ty.val (x (2 * k))) (ty.val (y (2 * k)))
    let two := mulVals (ty.val (x (2 * k + 1))) (ty.val (y (2 * k + 1)))
    dot2 mode ty (([2 * k, 2 * k + 1].filter fun j => j < al).map fun j => (x j, y j)) c =
      if 2 * k + 1 < al then addVals .f32 mode (one.2 || two.2) [one.1, two.1, Fmt.f32.val c]
      else addVals .f32 mode one.2 [one.1, Fmt.f32.val c] := by
  by_cases hnext : 2 * k + 1 < al <;> simp [dot2, hk, hnext]

end Sys2Proof.Machine
end

section
/-!
SUPPORT. Rules of the permutes, the mask functions, the moves and the generator (09 R169 to R173, R179, R180).
-/

namespace Sys2Proof.Machine

/-! ### Squeezing (09 R170) -/

/-- Among the members of a range that a test selects, `j` stands at the place that its rank gives. -/
theorem getElem?_filter_range (p : Nat → Bool) {n j : Nat} (hj : j < n) (hp : p j = true) :
    ((List.range n).filter p)[(List.range j).countP p]? = some j := by
  induction n with
  | zero => omega
  | succ n ih =>
    rw [List.range_succ, List.filter_append]
    rcases Nat.lt_succ_iff_lt_or_eq.1 hj with hlt | rfl
    · have h := ih hlt
      obtain ⟨hin, -⟩ := List.getElem?_eq_some_iff.1 h
      rwa [List.getElem?_append_left hin]
    · rw [List.countP_eq_length_filter, List.getElem?_append_right le_rfl]
      simp [hp]

theorem Hart.rank_eq_countP (h : Hart) (m : BitVec 3) (j : Nat) :
    h.rank m j = (List.range j).countP (h.active m) := List.countP_eq_length_filter.symm

/-- The register that VSQZ writes (09 R170). -/
def Hart.squeezed (h : Hart) (d a : Reg) (m : BitVec 3) : VReg :=
  let sel := ((List.range (laneCount h.et)).filter (h.active m)).map (h.laneA a)
  mergeLanes (elemWidth h.et) (laneCount h.et) (fun i => decide (i < sel.length)) (fun _ => false) false h.tp (h.rv d)
    fun i => (sel[i]?).getD 0

theorem vsqz_writesV (s : State) (d a : Reg) (m : BitVec 3) :
    WritesV (.vsqz d a m) s d (s.hart.squeezed d a m) 0 :=
  writesV_of_vecOn (accept := fun _ => true) (v := fun h => h.squeezed d a m) rfl rfl

theorem lane_squeezed (h : Hart) (d a : Reg) (m : BitVec 3) {i : Nat} (hi : i < laneCount h.et) :
    lane (h.squeezed d a m) (elemWidth h.et) i =
      if i < (List.range (laneCount h.et)).countP (h.active m) then
        ((((List.range (laneCount h.et)).filter (h.active m)).map (h.laneA a))[i]?).getD 0 % 2 ^ elemWidth h.et
      else if h.tp = true then 0 else lane (h.rv d) (elemWidth h.et) i := by
  rw [Hart.squeezed, lane_mergeLanes (laneCount_mul _) hi]
  simp [List.countP_eq_length_filter]

/-- Each selected lane goes to the place that its rank gives. -/
theorem lane_squeezed_rank (h : Hart) (d a : Reg) (m : BitVec 3) {j : Nat} (hj : j < laneCount h.et)
    (ha : h.active m j = true) :
    lane (h.squeezed d a m) (elemWidth h.et) ((List.range j).countP (h.active m)) = h.laneA a j := by
  have hget := getElem?_filter_range (h.active m) hj ha
  have hlt : (List.range j).countP (h.active m) < (List.range (laneCount h.et)).countP (h.active m) := by
    rw [List.countP_eq_length_filter (l := List.range (laneCount h.et))]
    exact (List.getElem?_eq_some_iff.1 hget).1
  have hle : (List.range (laneCount h.et)).countP (h.active m) ≤ laneCount h.et :=
    List.countP_le_length.trans_eq List.length_range
  rw [lane_squeezed _ _ _ _ (hlt.trans_le hle), if_pos hlt, List.getElem?_map, hget, Option.map_some, Option.getD_some]
  exact lane_mod _ _ _

/-! ### Masks (09 R171) -/

/-- The first one bit of a doubleword is where its trailing zeros end. -/
theorem ctzNat_eq_first {x : Dword} {i : Nat} (hi : i < 64) (hone : x.getLsbD i = true)
    (hzeros : ∀ j, j < i → x.getLsbD j = false) : ctzNat 64 x.toNat = i := by
  obtain ⟨hlow, hset⟩ := ctzNat_spec 64 x.toNat
  have hle : ctzNat 64 x.toNat ≤ i := by
    by_contra hlt
    have hbit := congrArg (·.testBit i) hlow
    rw [Nat.zero_testBit, Nat.testBit_mod_two_pow, decide_eq_true (Nat.not_le.1 hlt), Bool.true_and] at hbit
    exact absurd (hone.symm.trans hbit) (by decide)
  refine hle.eq_of_not_lt fun hlt => ?_
  exact absurd ((hset (hlt.trans hi)).symm.trans (hzeros _ hlt)) (by decide)

/-! ### VT (09 R173) -/

/-- A field of a doubleword that a mask leaves. -/
theorem bits_and {v mask : Dword} {lo n : Nat} (h : ∀ i, i < n → mask.getLsbD (lo + i) = true) :
    bits (v &&& mask) lo n = bits v lo n := by
  apply Nat.eq_of_testBit_eq
  intro i
  rw [bits, bits, Nat.testBit_mod_two_pow, Nat.testBit_mod_two_pow, Nat.testBit_div_two_pow, Nat.testBit_div_two_pow]
  by_cases hi : i < n
  · have hm : mask.toNat.testBit (i + lo) = true := Nat.add_comm lo i ▸ h i hi
    rw [BitVec.toNat_and, Nat.testBit_and, hm, Bool.and_true]
  · simp [hi]

/-- The active length under the VT that VSETT writes (03 R43, 09 R173). -/
theorem al_of_vt (h : Hart) (t : Dword) :
    ({ h with vt := t &&& vtMask } : Hart).al =
      if t.toNat / 256 % 128 = 0 ∨ 512 / elemWidth (t.toNat % 16) ≤ t.toNat / 256 % 128 then
        512 / elemWidth (t.toNat % 16)
      else t.toNat / 256 % 128 := by
  have het : bits (t &&& vtMask) 0 4 = t.toNat % 16 := by
    rw [bits_and (by decide), bits, Nat.pow_zero, Nat.div_one]
    rfl
  have hvl : bits (t &&& vtMask) 8 7 = t.toNat / 256 % 128 := by
    rw [bits_and (by decide)]
    rfl
  simp only [Hart.al, Hart.et, Hart.vl, het, hvl, laneCount]

theorem vsett_runs (s : State) (d a : Reg) :
    Runs (.vsett d a) s { s with hart :=
      (({ s.hart with vt := s.hart.rx a &&& vtMask } : Hart).wx d
        (dw ({ s.hart with vt := s.hart.rx a &&& vtMask } : Hart).al)).retire } := rfl

/-! ### Moves (09 R172) -/

/-- The lane that VEXT reads, extended as its type says. -/
def Hart.extracted (h : Hart) (a b : Reg) : Dword :=
  let v := h.laneA a ((h.rx b).toNat % laneCount h.et)
  if elemSigned h.et then dw (wrapInt 64 (sval (elemWidth h.et) v)) else dw v

theorem vext_writesX (s : State) (d a b : Reg) : WritesX (.vext d a b) s d (s.hart.extracted a b) := rfl

theorem extracted_eq (h : Hart) (a b : Reg) :
    h.extracted a b =
      let v := h.laneA a ((h.rx b).toNat % laneCount h.et)
      if h.et < 4 then BitVec.ofInt 64 (sval (elemWidth h.et) v) else BitVec.ofNat 64 v := by
  simp only [Hart.extracted, ofNat_wrapInt, elemSigned, decide_eq_true_eq]

/-! ### The generator (09 R179, R180) -/

/-- Entry `n * k + i` of lists of `n` entries laid end to end. -/
theorem getElem?_flatMap_range {g : Nat → List Nat} {n : Nat} (hlen : ∀ k, (g k).length = n) {c k i : Nat} (hk : k < c)
    (hi : i < n) : ((List.range c).flatMap g)[n * k + i]? = (g k)[i]? := by
  have hall (c : Nat) : ((List.range c).flatMap g).length = n * c := by
    simp [List.length_flatMap, hlen, Nat.mul_comm]
  induction c with
  | zero => omega
  | succ c ih =>
    rw [List.range_succ, List.flatMap_append]
    rcases Nat.lt_succ_iff_lt_or_eq.1 hk with hlt | rfl
    · rw [List.getElem?_append_left, ih hlt]
      rw [hall]
      calc n * k + i < n * k + n := by omega
        _ = n * (k + 1) := (Nat.mul_succ n k).symm
        _ ≤ n * c := Nat.mul_le_mul_left n hlt
    · rw [List.getElem?_append_right (by rw [hall]; omega), hall, Nat.add_sub_cancel_left]
      simp

theorem length_mixLane (c k : Nat → BitVec 32) : (mixLane c k).length = 4 := rfl

theorem mixLane_lt {c k : Nat → BitVec 32} {n : Nat} (h : n ∈ mixLane c k) : n < 2 ^ 32 := by
  simp only [mixLane, List.mem_cons, List.not_mem_nil, or_false] at h
  rcases h with rfl | rfl | rfl | rfl <;> exact BitVec.isLt _

/-- Lane i of a register packed from a list that fills it. -/
theorem lane_packLanes {w i : Nat} {l : List Nat} (h : w * l.length = 512) (hi : i < l.length) :
    lane (BitVec.ofNat 512 (packLanes w l)) w i = l[i] % 2 ^ w := by
  have hl : l = (List.range l.length).map fun j => (l[j]?).getD 0 := by
    apply List.ext_getElem <;> simp +contextual
  have hlane := lane_pack w l.length (fun j => (l[j]?).getD 0) i h hi
  rw [← hl] at hlane
  rw [hlane, List.getElem?_eq_getElem hi, Option.getD_some]

/-- What VRMIX writes (09 R180). -/
def mixed (x y : VReg) : VReg :=
  BitVec.ofNat 512 (packLanes 32 ((List.range 4).flatMap fun k => mixLane (word128 x k) (word128 y k)))

theorem lane_mixed (x y : VReg) {k i : Nat} (hk : k < 4) (hi : i < 4) :
    some (lane (mixed x y) 32 (4 * k + i)) = (mixLane (word128 x k) (word128 y k))[i]? := by
  have hlen : ((List.range 4).flatMap fun k => mixLane (word128 x k) (word128 y k)).length = 16 := by
    simp [length_mixLane]
  have hin : 4 * k + i < ((List.range 4).flatMap fun k => mixLane (word128 x k) (word128 y k)).length := by omega
  have hword := getElem?_flatMap_range (fun k => length_mixLane (word128 x k) (word128 y k)) hk hi
  rw [List.getElem?_eq_getElem hin] at hword
  rw [← hword, mixed, lane_packLanes (by rw [hlen]) hin,
    Nat.mod_eq_of_lt (mixLane_lt (List.mem_of_getElem? hword.symm))]

/-- The mask that VEQQ writes (09 R179). -/
theorem getLsbD_veqq (x y : VReg) {k : Nat} (hk : k < 64) :
    (dw (packLanes 1 ((List.range 4).map fun k => (lane x 128 k == lane y 128 k).toNat))).getLsbD k = true ↔
      k < 4 ∧ lane x 128 k = lane y 128 k := by
  rw [BitVec.getLsbD_ofNat, decide_eq_true hk, Bool.true_and, testBit_packLanes_one]
  rcases Nat.lt_or_ge k 4 with h4 | h4
  · by_cases heq : lane x 128 k = lane y 128 k
    · simp [h4, heq]
    · simp [h4, heq, beq_eq_false_iff_ne.2 heq]
  · simp [h4]

end Sys2Proof.Machine
end

section
/-!
The statements about vector integer instructions, reductions and permutes (09 R159, R160, R164 to R173, R179, R180),
from the laws of numbers of an element width and the rules of the shared meanings.
-/

namespace Sys2Proof.Machine

/-- Settles O21: each instruction writes the lanes, the mask or the class L result of its lane function, whose value a
law of numbers of the element width gives in the terms of the spec. The class L results merge vd as it stands at issue,
which is the model's reading (notes/assumptions/7.md). -/
theorem vectorIntegerResults : Obligations.VectorIntegerResults := by
  unfold Obligations.VectorIntegerResults
  intro s d a b m v z l
  have hx (k : Nat) := s.hart.laneA_lt a k
  have hy (k : Nat) := s.hart.laneB_lt v b k
  have hyv (k : Nat) := s.hart.laneA_lt b k
  refine ⟨fun het => ?accepted, fun het => ?rejectedBinary, fun het => ?rejectedOthers, ?vmerge⟩
  case accepted =>
    have hi := classI_of_lt het
    refine ⟨?vadd, ?vsub, ?vmul, ?vmulh, ?vmulhn, ?vand, ?vor, ?vxor, ?vandn, ?vsll, ?vsrl, ?vsra, ?vmin, ?vmax, ?vminn,
      ?vmaxn, ?vsadd, ?vssub, ?vsaddn, ?vssubn, ?vabsd, ?vseq, ?vsne, ?vslt, ?vsltn, ?vpopc, ?vclz, ?vdiv, ?vdivn,
      ?vrem, ?vremn⟩
    case vadd | vmul | vmulhn | vand | vor | vxor | vsll | vsrl | vsra | vabsd | vclz =>
      exact writesLanes_of_vecOn rfl hi fun _ => rfl
    case vsub =>
      refine writesLanes_of_vecOn rfl hi fun k => ?_
      exact (congrArg (· % _) (wrapInt_natCast_sub _ (hy k).le)).trans (Nat.mod_mod _ _)
    case vmulh => exact writesLanes_of_vecOn rfl hi fun _ => congrArg (· % _) (wrapInt_two_mul_div _ _)
    case vandn => exact writesLanes_of_vecOn rfl hi fun k => congrArg (· % _) (and_complement (hx k) (hy k))
    case vmin => exact writesLanes_of_vecOn rfl hi fun k => congrArg (· % _) (ite_sval_lt (hx k) (hy k) id)
    case vmax => exact writesLanes_of_vecOn rfl hi fun k => congrArg (· % _) (ite_sval_lt (hx k) (hy k) Eq.symm)
    case vminn => exact writesLanes_of_vecOn rfl hi fun _ => congrArg (· % _) (min_def_lt _ _).symm
    case vmaxn => exact writesLanes_of_vecOn rfl hi fun _ => congrArg (· % _) (max_def_lt _ _).symm
    case vsadd | vssub => exact writesLanes_of_vecOn rfl hi fun _ => congrArg (wrapInt _ · % _) (satInt_signed _ _)
    case vsaddn =>
      refine writesLanes_of_vecOn rfl hi fun k => (congrArg (wrapInt _ · % _) (satInt_unsigned_add _ _ _)).trans ?_
      rw [wrapInt_natCast, Nat.mod_mod]
    case vssubn =>
      refine writesLanes_of_vecOn rfl hi fun k => (congrArg (wrapInt _ · % _) (satInt_unsigned_sub _ (hx k))).trans ?_
      rw [wrapInt_natCast, Nat.mod_mod]
    case vseq | vslt | vsltn => exact writesMask_of_vecOn rfl hi fun _ => rfl
    case vsne =>
      exact writesMask_of_vecOn rfl hi fun _ => Bool.eq_iff_iff.2 (bne_iff_ne.trans decide_eq_true_iff.symm)
    case vpopc => exact writesLanes_of_vecOn rfl hi fun _ => congrArg (· % _) (popNat_eq_countP _ _)
    case vdiv => exact runs_of_viDiv rfl hi fun k => congrArg (· % _) (divS_of_lt _ (hyv k))
    case vdivn => exact runs_of_viDiv rfl hi fun k => congrArg (· % _) (divU_of_lt (hx k) (hyv k))
    case vrem => exact runs_of_viDiv rfl hi fun k => congrArg (· % _) (remS_of_lt (hx k) (hyv k))
    case vremn => exact runs_of_viDiv rfl hi fun k => congrArg (· % _) (remU_of_lt (hx k) (hyv k))
  case rejectedBinary | rejectedOthers =>
    rw [← List.forall_iff_forall_mem]
    and_intros <;> exact traps_of_rejected rfl (not_classI het)
  case vmerge =>
    refine ⟨_, writesV_of_vecOn (accept := fun _ => true) rfl rfl, fun k hk => ?_⟩
    have hselected : (if s.hart.mbit m s.hart.et k = true then s.hart.laneB v b k else s.hart.laneA a k) <
        2 ^ elemWidth s.hart.et := by
      split
      · exact hy k
      · exact hx k
    simp only [lane_mergeLanes (laneCount_mul _) hk, decide_eq_true_eq, Bool.false_eq_true, if_false,
      Nat.mod_eq_of_lt hselected]

/-- Settles O23: the sums of products are merged lane by lane, and a reduction writes what its tree or its order of
lanes makes of the start value and the active lanes; the tree keeps the sum and the least key of what stands below a
node. -/
theorem vectorReductionResults : Obligations.VectorReductionResults := by
  unfold Obligations.VectorReductionResults
  refine ⟨fun s d a b c m => ⟨fun het => ?vfdot2, fun het => ?vfdot2Traps, fun het => ?vidot4, fun het => ?vidot4Traps⟩,
    fun s d a b m v => ⟨fun het => ⟨?vredsum, ?vredmin, ?vredmax⟩,
      fun het => ⟨?vfredsum, ?vfredmin, ?vfredmax, ?vfredseq⟩⟩⟩
  case vfdot2 =>
    have hlane (k : Nat) (ht : s.hart.takes m 2 k = true) :=
      dot2_pair s.hart.frmode s.hart.fmt s.hart.al (s.hart.laneA a) (s.hart.laneA b) (lane (s.hart.rv c) 32 k)
        (Hart.lt_al_of_takes ht)
    refine ⟨_, ?_, fun k hk => lane_mergeWide _ _ _ _ (fun k ht => congrArg (Prod.fst · % 2 ^ 32) (hlane k ht)) hk⟩
    exact laneFlags_congr (fun k ht => congrArg Prod.snd (hlane k ht)) ▸ vfdot2_writesV d a b c m het
  case vfdot2Traps => exact traps_of_rejected rfl (not_or.2 het)
  case vidot4 =>
    have hw : elemWidth s.hart.et = 8 := by rcases het with h | h <;> rw [h] <;> rfl
    refine ⟨_, vidot4_writesV d a b c m het, fun k hk => ?_⟩
    refine (lane_mergeWide _ _ _ _ (fun _ _ => rfl) hk).trans (ite_congr rfl (fun _ => ?_) fun _ => rfl)
    simp only [Hart.dot4Lane, Hart.laneA, hw]
    rfl
  case vidot4Traps => exact traps_of_rejected rfl (by simpa using het)
  case vredsum =>
    obtain ⟨r, hr, hsum⟩ := writesLaneZero_of_exact (i := .vredsum d a b m v) (s := s) rfl (classI_of_lt het)
      (sumsTo_merge _) rfl fun _ => by simp [SumsTo]
    exact hr.congr hsum rfl
  case vredmin =>
    obtain ⟨r, hr, hmem, hleast⟩ :=
      writesLaneZero_of_redMinMax (i := .vredmin d a b m v) (s := s) rfl (classI_of_lt het)
    exact ⟨r, hr, hmem, fun n hn => by simpa [redKey, redOrder, elemSigned] using hleast n hn⟩
  case vredmax =>
    obtain ⟨r, hr, hmem, hleast⟩ :=
      writesLaneZero_of_redMinMax (i := .vredmax d a b m v) (s := s) rfl (classI_of_lt het)
    exact ⟨r, hr, hmem, fun n hn => by simpa [redKey, redOrder, elemSigned] using hleast n hn⟩
  case vfredsum | vfredmin | vfredmax => exact writesLaneZero_of_vred rfl (classF_of_bounds het)
  case vfredseq =>
    have hr := writesLaneZero_of_vred (i := .vfredseq d a b m v) (s := s) (accept := classF)
      (red := reduceSeq (fAdd s.hart.fmt s.hart.frmode)) rfl (classF_of_bounds het)
    rw [reduceSeq_eq, Hart.reduced, reduceOption_active] at hr
    exact hr

/-- Settles O24: each permute or move writes the lanes, the mask or the register of its meaning; the ranks, the first
bit, the fields of VT and the lists of the generator's words have a law each. -/
theorem vectorPermuteResults : Obligations.VectorPermuteResults := by
  unfold Obligations.VectorPermuteResults
  refine ⟨fun s d a b k m v p q r => ⟨?vslideup, ?vslidedn, fun het => ?vperm, fun het => ?vpermTraps, ?vsqz, ?vsprd,
    ?vzip, ?vunzip, fun het => ⟨?vrank, ?vid⟩, ?vsplat, ?vmov, ⟨?vext, ?vins⟩, ?vmand, ?vmor, ?vmxor, ?vmnot, ?vmpopc,
    ?vmfirst, ?vmtox, ?vxtom, ?vgett, ?vsett⟩, fun s d a b p => ⟨?vrmix, ?vaddq, ?veqq⟩⟩
  case vslideup | vslidedn | vzip | vunzip | vmov =>
    exact writesLanes_of_vecOn (accept := fun _ => true) rfl rfl fun _ => rfl
  case vperm => exact writesLanes_of_vecOn rfl (decide_eq_true het) fun _ => rfl
  case vpermTraps => exact traps_of_rejected rfl (by simpa [classA4] using het)
  case vsqz =>
    refine ⟨_, vsqz_writesV s d a m, fun j hj ha => lane_squeezed_rank _ _ _ _ hj ha, fun j hr hj => ?_⟩
    exact (lane_squeezed _ _ _ _ hj).trans (if_neg (Nat.not_lt.2 hr))
  case vsprd =>
    refine writesLanes_of_vecOn (accept := fun _ => true) rfl rfl fun j => ?_
    rw [Hart.rank_eq_countP]
  case vrank =>
    refine writesLanes_of_vecOn rfl (classI_of_lt het) fun j => ?_
    rw [Hart.rank_eq_countP]
  case vid => exact writesLanes_of_vecOn rfl (classI_of_lt het) fun _ => rfl
  case vsplat => exact writesLanes_of_vecOn (accept := fun _ => true) rfl rfl fun _ => Nat.mod_mod _ _
  case vext =>
    have hx := vext_writesX s d a b
    rwa [extracted_eq] at hx
  case vins =>
    refine ⟨_, writesV_of_vecOn (accept := fun _ => true) rfl rfl, fun i hi => ?_⟩
    simp [lane_mergeLanes (laneCount_mul _) hi]
  case vmand => exact ⟨_, writesM_of_exec rfl, fun _ => BitVec.getLsbD_and⟩
  case vmor => exact ⟨_, writesM_of_exec rfl, fun _ => BitVec.getLsbD_or⟩
  case vmxor => exact ⟨_, writesM_of_exec rfl, fun _ => by rw [BitVec.getLsbD_xor, Bool.bne_eq_xor]⟩
  case vmnot =>
    exact ⟨_, writesM_of_exec rfl, fun _ hi => by rw [BitVec.getLsbD_not, decide_eq_true hi, Bool.true_and]⟩
  case vmpopc =>
    have hx : WritesX (.vmpopc d q) s d (dw (popNat 64 (s.hart.rm q).toNat)) := rfl
    rwa [popNat_eq_countP] at hx
  case vmfirst =>
    have hx : WritesX (.vmfirst d q) s d
        (if s.hart.rm q = 0 then BitVec.allOnes 64 else dw (ctzNat 64 (s.hart.rm q).toNat)) := rfl
    refine ⟨_, hx, fun h0 => if_pos h0, fun i hi hone hzeros => ?_⟩
    have hne : s.hart.rm q ≠ 0 := fun h0 => by simp [h0] at hone
    rw [if_neg hne, ctzNat_eq_first hi hone hzeros]
  case vmtox | vgett => rfl
  case vxtom => exact writesM_of_exec (v := fun h => h.rx a) rfl
  case vsett =>
    have hx := vsett_runs s d a
    rwa [al_of_vt] at hx
  case vrmix => exact ⟨_, writesV_of_exec rfl, fun k hk i hi => lane_mixed _ _ hk hi⟩
  case vaddq => exact ⟨_, writesV_of_exec rfl, fun k hk => lane_pack 128 4 _ k rfl hk⟩
  case veqq => exact ⟨_, writesM_of_exec rfl, fun k hk => getLsbD_veqq _ _ hk⟩

end Sys2Proof.Machine
end
